-- ==== Sys2Proof/Word.lean ====
section
/-!
DEFINITION. The words the machine computes with: bytes, 32-bit register words, 64-bit pairs and masks.
-/
namespace Sys2Proof

/-- One byte of memory. -/
abbrev Byte := BitVec 8
/-- A register word (R150). -/
abbrev Word := BitVec 32
/-- A 64-bit value, as a register pair or a memory dword holds it (R5). -/
abbrev DWord := BitVec 64
/-- A 52-bit virtual address: the width of a PC (R57). -/
abbrev VAddr := BitVec 52
/-- One bit per lane of a stripe, lane 0 lowest (R135). -/
abbrev LaneMask := BitVec 32

end Sys2Proof
end

