-- ==== Sys2Proof/Syntax.lean ====
section
/-!
DEFINITION. The instructions and events of the machine: one constructor per row of spec/opcode_table.json. An instruction word carries its
fields in the record of its sub-format (R201); an event carries what names it.
-/
namespace Sys2Proof

/-- Fields every full word shares (R200): run boundary B, guard negation N, guard predicate P. -/
structure Hdr where
  b : Bool
  n : Bool
  p : BitVec 3
  deriving DecidableEq, Repr

/-- R format (R201). -/
structure FmtR where
  hdr : Hdr
  dst : BitVec 7
  sa  : BitVec 7
  sb  : BitVec 7
  sc  : BitVec 7
  ma  : BitVec 4
  mb  : BitVec 4
  fa  : Bool
  fb  : Bool
  fc  : Bool
  x   : BitVec 9
  deriving DecidableEq, Repr

/-- I format (R201, R210). -/
structure FmtI where
  hdr : Hdr
  dst : BitVec 7
  sa  : BitVec 7
  imm : BitVec 24
  fa  : Bool
  x   : BitVec 9
  deriving DecidableEq, Repr

/-- L format (R201). -/
structure FmtL where
  hdr : Hdr
  dst : BitVec 7
  imm : BitVec 32
  x   : BitVec 9
  deriving DecidableEq, Repr

/-- M format (R201, R208). -/
structure FmtM where
  hdr : Hdr
  dst : BitVec 7
  sa  : BitVec 7
  sb  : BitVec 7
  off : BitVec 17
  fa  : Bool
  x   : BitVec 9
  deriving DecidableEq, Repr

/-- B format (R201, R211); bit9 is the bit the format leaves unnamed (R330). -/
structure FmtB where
  hdr  : Hdr
  off  : BitVec 38
  bit9 : Bool
  x    : BitVec 9
  deriving DecidableEq, Repr

/-- E format (R201). -/
structure FmtE where
  hdr  : Hdr
  dst  : BitVec 7
  sa   : BitVec 7
  sb   : BitVec 7
  sc   : BitVec 7
  imm8 : BitVec 8
  fa   : Bool
  fb   : Bool
  fc   : Bool
  x    : BitVec 9
  deriving DecidableEq, Repr

/-- One half of a dual word (R217). -/
structure Half where
  ps  : BitVec 2
  op  : BitVec 7
  d   : BitVec 7
  s   : BitVec 7
  ms  : BitVec 4
  fs  : Bool
  t   : BitVec 3
  deriving DecidableEq, Repr

/-- A dual word (R217): the run boundary, the high half and the low half. -/
structure FmtD where
  b  : Bool
  hi : Half
  lo : Half
  deriving DecidableEq, Repr

/-- A signed image as it is offered to the root-of-trust controller (R438). -/
structure SignedImage where
  magic   : BitVec 32
  flags   : BitVec 32
  loadPA  : BitVec 64
  entry   : BitVec 64
  pubkey  : List Byte
  sig     : List Byte
  reserved : List Byte
  payload : List Byte
  deriving DecidableEq, Repr

/-- A pod launch record as the crier carries it (R413). -/
structure PodRecord where
  bytes : List Byte
  deriving DecidableEq, Repr

/-- What one member reports when its share is done (R415, R416, R417). -/
structure PodReport where
  late    : Bool
  refused : Bool
  disp    : Nat
  high    : Nat
  nflt    : Nat
  first   : Option (List Byte)
  causes  : List Nat
  deriving DecidableEq, Repr

/-- One slice port in pod mode and its peer (R463). -/
structure PodPort where
  port     : Nat
  peerPkg  : Nat
  peerPort : Nat
  deriving DecidableEq, Repr

/-- One pod group with its members, by ascending package index (R463). -/
structure PodGroup where
  number  : Nat
  members : List Nat
  deriving DecidableEq, Repr

/-- A pod-group binding (R463). -/
structure PodBinding where
  group : Nat
  part  : Nat
  func  : Nat
  queue : Nat
  deriving DecidableEq, Repr

/-- A forwarding route of a pod link: packets for a package leave by a port (R464). -/
structure PodRoute where
  pkg  : Nat
  port : Nat
  deriving DecidableEq, Repr

/-- A pod configuration (R463). -/
structure PodConfig where
  index     : Nat
  ports     : List PodPort
  reference : Nat
  groups    : List PodGroup
  bindings  : List PodBinding
  routes    : List PodRoute
  forwarded : Nat
  pubkey    : List Byte
  bytes     : List Byte
  sig       : List Byte
  deriving DecidableEq, Repr

/-- The four stamps of a time exchange (R467). -/
structure TimeFlits where
  t1 : BitVec 64
  t2 : BitVec 64
  t3 : BitVec 64
  t4 : BitVec 64
  deriving DecidableEq, Repr

/-- The instruction words in the order of the opcode table, then the events: first those that the machine schedules itself, last those that only the environment causes. -/
inductive Instr where
  /-- IADD (R275): Adds two registers per element with wrap-around. -/
  | iadd (f : FmtR)
  /-- IADD_I (R276): I form of IADD: adds a sign-extended 24-bit immediate. -/
  | iaddI (f : FmtI)
  /-- ISUB (R275): Subtracts per element with wrap-around. -/
  | isub (f : FmtR)
  /-- ISUB_I (R276): I form of ISUB. -/
  | isubI (f : FmtI)
  /-- IADDC (R277): 32-bit add with carry in and carry out in predicates. -/
  | iaddc (f : FmtR)
  /-- ISUBB (R277): 32-bit subtract with borrow in and borrow out in predicates. -/
  | isubb (f : FmtR)
  /-- IMUL (R275): Multiplies per element, keeping the low bits. -/
  | imul (f : FmtR)
  /-- IMUL_I (R276): I form of IMUL. -/
  | imulI (f : FmtI)
  /-- IMULH (R275): Returns the high 32 bits of a 64-bit product. -/
  | imulh (f : FmtR)
  /-- IMAD (R275): Multiply-add per element with wrap-around. -/
  | imad (f : FmtR)
  /-- IMADW (R275): 32x32 multiply added to a 64-bit pair. -/
  | imadw (f : FmtR)
  /-- IMIN (R275): Takes the smaller element, signed or unsigned. -/
  | imin (f : FmtR)
  /-- IMIN_I (R276): I form of IMIN. -/
  | iminI (f : FmtI)
  /-- IMAX (R275): Takes the larger element, signed or unsigned. -/
  | imax (f : FmtR)
  /-- IMAX_I (R276): I form of IMAX. -/
  | imaxI (f : FmtI)
  /-- IABS (R275): Absolute value per element with wrap-around. -/
  | iabs (f : FmtR)
  /-- INEG (R275): Negates per element with wrap-around. -/
  | ineg (f : FmtR)
  /-- ISAT (R275): Saturating add or subtract per element. -/
  | isat (f : FmtR)
  /-- SHL (R279): Shifts each element left. -/
  | shl (f : FmtR)
  /-- SHL_I (R279): I form of SHL. -/
  | shlI (f : FmtI)
  /-- SHR (R279): Shifts each element right, filling with zeros. -/
  | shr (f : FmtR)
  /-- SHR_I (R279): I form of SHR. -/
  | shrI (f : FmtI)
  /-- SHRA (R279): Arithmetic right shift of each element. -/
  | shra (f : FmtR)
  /-- SHRA_I (R279): I form of SHRA. -/
  | shraI (f : FmtI)
  /-- ROT (R279): Rotates each element left. -/
  | rot (f : FmtR)
  /-- ROT_I (R279): I form of ROT. -/
  | rotI (f : FmtI)
  /-- SHW (R280): Shifts a 64-bit value formed from two registers and returns 32 bits. -/
  | shw (f : FmtR)
  /-- AND (R281): Bitwise AND. -/
  | and (f : FmtR)
  /-- AND_I (R281): I form of AND. -/
  | andI (f : FmtI)
  /-- OR (R281): Bitwise OR. -/
  | or (f : FmtR)
  /-- OR_I (R281): I form of OR. -/
  | orI (f : FmtI)
  /-- XOR (R281): Bitwise XOR. -/
  | xor (f : FmtR)
  /-- XOR_I (R281): I form of XOR. -/
  | xorI (f : FmtI)
  /-- ANDN (R281): Bitwise a AND NOT b. -/
  | andn (f : FmtR)
  /-- ANDN_I (R281): I form of ANDN. -/
  | andnI (f : FmtI)
  /-- LUT3 (R281): Applies an 8-bit truth table to three inputs at each bit position. -/
  | lut3 (f : FmtR)
  /-- POPC (R282): Counts the one bits. -/
  | popc (f : FmtR)
  /-- CLZ (R282): Counts leading zero bits. -/
  | clz (f : FmtR)
  /-- BREV (R282): Reverses the bit order. -/
  | brev (f : FmtR)
  /-- BFX (R283): Extracts a bit field, zero- or sign-extended. -/
  | bfx (f : FmtR)
  /-- BFI (R283): Inserts a bit field. -/
  | bfi (f : FmtR)
  /-- DOT4 (R278): Adds a dot product of four 8-bit elements to an accumulator. -/
  | dot4 (f : FmtR)
  /-- DOT8 (R278): Adds a dot product of eight 4-bit elements to an accumulator. -/
  | dot8 (f : FmtR)
  /-- ICMP (R284): Compares integers and writes a predicate. -/
  | icmp (f : FmtR)
  /-- ICMP_I (R284): I form of ICMP. -/
  | icmpI (f : FmtI)
  /-- SEL (R285): Selects one of two registers by a predicate. -/
  | sel (f : FmtR)
  /-- MOV (R285): Copies a register after its modifier. -/
  | mov (f : FmtR)
  /-- MOVI (R285): Loads a 32-bit immediate. -/
  | movi (f : FmtL)
  /-- MOVH (R285): Sets a pair to zero low and an immediate high. -/
  | movh (f : FmtL)
  /-- LEA (R287): Adds a scaled index to a 64-bit pointer. -/
  | lea (f : FmtR)
  /-- LEA_I (R287): I form of LEA with an immediate index. -/
  | leaI (f : FmtI)
  /-- PTRMK (R288): Builds a tagged pointer from an offset, a space and a rank. -/
  | ptrmk (f : FmtR)
  /-- PTRFLD (R288): Extracts one field of a tagged pointer. -/
  | ptrfld (f : FmtR)
  /-- PLUT (R286): Applies a truth table to three predicates. -/
  | plut (f : FmtR)
  /-- FADD (R289): Floating add, rounded once. -/
  | fadd (f : FmtR)
  /-- FSUB (R289): Floating subtract, rounded once. -/
  | fsub (f : FmtR)
  /-- FMUL (R289): Floating multiply, rounded once. -/
  | fmul (f : FmtR)
  /-- FFMA (R289): Fused multiply-add, rounded once. -/
  | ffma (f : FmtR)
  /-- FMIN (R290): Floating minimum with NaN and signed-zero rules. -/
  | fmin (f : FmtR)
  /-- FMAX (R290): Floating maximum with NaN and signed-zero rules. -/
  | fmax (f : FmtR)
  /-- FRCP (R295): Correctly rounded reciprocal. -/
  | frcp (f : FmtR)
  /-- FRSQ (R295): Correctly rounded reciprocal square root. -/
  | frsq (f : FmtR)
  /-- FSQRT (R295): Correctly rounded square root. -/
  | fsqrt (f : FmtR)
  /-- FEXP2 (R295): Correctly rounded power of two. -/
  | fexp2 (f : FmtR)
  /-- FLOG2 (R295): Correctly rounded base-2 logarithm. -/
  | flog2 (f : FmtR)
  /-- FSIN (R295): Correctly rounded sine. -/
  | fsin (f : FmtR)
  /-- FCOS (R295): Correctly rounded cosine. -/
  | fcos (f : FmtR)
  /-- FTANH (R295): Correctly rounded hyperbolic tangent. -/
  | ftanh (f : FmtR)
  /-- FCLASS (R294): Writes a class mask per element. -/
  | fclass (f : FmtR)
  /-- FSCALE (R291): Multiplies by a power of two, rounded. -/
  | fscale (f : FmtR)
  /-- FCMP (R293): Compares floats and writes a predicate. -/
  | fcmp (f : FmtR)
  /-- FDOT2 (R292): Two-element dot product added to FP32, rounded once. -/
  | fdot2 (f : FmtR)
  /-- FCVT (R298): Converts between float types. -/
  | fcvt (f : FmtR)
  /-- ICVT (R299): Converts integers to floats. -/
  | icvt (f : FmtR)
  /-- FCVTI (R299): Converts floats to integers with clamping. -/
  | fcvti (f : FmtR)
  /-- NPACK (R300): Encodes a value into a narrow code and places it into a copy of a register. -/
  | npack (f : FmtR)
  /-- NUNPACK (R301): Decodes a narrow code from a register. -/
  | nunpack (f : FmtR)
  /-- DUAL_WORD (R221): A dual word performs both of its halves, or neither. -/
  | dualWord (f : FmtD)
  /-- LD (R242): Loads from any space that admits loads into registers of each active lane. -/
  | ld (f : FmtM)
  /-- LDSX (R245): Non-faulting load that reports success in p6. -/
  | ldsx (f : FmtM)
  /-- ST (R247): Stores a register, pair or quad to each active lane's address. -/
  | st (f : FmtM)
  /-- LDX (R243): Load with a scaled index. -/
  | ldx (f : FmtM)
  /-- STX (R243): Store with a scaled index. -/
  | stx (f : FmtM)
  /-- LDC (R246): Loads through the constant cache. -/
  | ldc (f : FmtM)
  /-- PREF (R248): Prefetches a line to the home slice or the core cache. -/
  | pref (f : FmtM)
  /-- LD_REM (R244): Acquiring load that promotes the releases of a named core. -/
  | ldRem (f : FmtM)
  /-- AMO_ADD (R250): Atomic wrapping add. -/
  | amoAdd (f : FmtM)
  /-- AMO_MIN (R250): Atomic minimum. -/
  | amoMin (f : FmtM)
  /-- AMO_MAX (R250): Atomic maximum. -/
  | amoMax (f : FmtM)
  /-- AMO_AND (R250): Atomic bitwise AND. -/
  | amoAnd (f : FmtM)
  /-- AMO_OR (R250): Atomic bitwise OR. -/
  | amoOr (f : FmtM)
  /-- AMO_XOR (R250): Atomic bitwise XOR. -/
  | amoXor (f : FmtM)
  /-- AMO_EXCH (R250): Atomic exchange. -/
  | amoExch (f : FmtM)
  /-- AMO_FADD (R250): Atomic FP32 add. -/
  | amoFadd (f : FmtM)
  /-- FENCE (R253): Orders the thread's earlier and later accesses at a scope. -/
  | fence (f : FmtM)
  /-- WAITC (R255): Waits until an outstanding-operation counter is at most n. -/
  | waitc (f : FmtE)
  /-- WAITT (R256): Waits until the GTC reaches a given value. -/
  | waitt (f : FmtE)
  /-- RDGTC (R257): Reads the global time counter into a pair. -/
  | rdgtc (f : FmtR)
  /-- INVL1 (R249): Drops every line of the core cache and the constant cache. -/
  | invl1 (f : FmtR)
  /-- GRANSET (R254): Sets the full bits of a range of granules. -/
  | granset (f : FmtE)
  /-- GRANCLR (R254): Clears the full bits of a range of granules. -/
  | granclr (f : FmtE)
  /-- SLOAD (R260): Stages a tensor box from memory into scratchpad. -/
  | sload (f : FmtE)
  /-- SSTORE (R260): Stages a tensor box from scratchpad to memory. -/
  | sstore (f : FmtE)
  /-- SGATHER (R260): Gathers rows named by an index list into scratchpad. -/
  | sgather (f : FmtE)
  /-- SSCATTER (R260): Scatters scratchpad items to rows named by an index list. -/
  | sscatter (f : FmtE)
  /-- SPREF (R260): Prefetches a tensor box into the home cache slices. -/
  | spref (f : FmtE)
  /-- BCOPY (R262): Issues a barrow copy from a command block. -/
  | bcopy (f : FmtE)
  /-- BFILL (R262): Issues a barrow fill from a command block. -/
  | bfill (f : FmtE)
  /-- CHSEND (R264): Sends registers as one message per active lane into a channel. -/
  | chsend (f : FmtE)
  /-- CHSEND_S (R264): Sends one slot of scratchpad bytes per active lane into a channel. -/
  | chsendS (f : FmtE)
  /-- CHRECV (R265): Receives a channel message into registers. -/
  | chrecv (f : FmtE)
  /-- CHRECV_S (R265): Receives a channel message into scratchpad. -/
  | chrecvS (f : FmtE)
  /-- CHPOLL (R266): Reports the state of a channel's receive end without waiting. -/
  | chpoll (f : FmtE)
  /-- TAKE_R (R156): Gang request to map extended register blocks. -/
  | takeR (f : FmtE)
  /-- TAKE_S (R157): Gang request to move a C-mode bank to S mode. -/
  | takeS (f : FmtE)
  /-- TAKE_K (R158): Gang request for n consecutive till tiles. -/
  | takeK (f : FmtE)
  /-- GIVE_R (R156): Gang return of extended register blocks. -/
  | giveR (f : FmtE)
  /-- GIVE_S (R157): Gang return of an S-mode bank to C mode. -/
  | giveS (f : FmtE)
  /-- GIVE_K (R158): Gang return of till tiles. -/
  | giveK (f : FmtE)
  /-- MXCLAIM (R179): Gang operation that claims the matrix engine. -/
  | mxclaim (f : FmtE)
  /-- MXFREE (R179): Gang operation that releases the matrix engine claim. -/
  | mxfree (f : FmtE)
  /-- MXLDB (R308): Queues a load of a stationary slot from a descriptor. -/
  | mxldb (f : FmtE)
  /-- MXMUL (R188): Gang arrival at a matrix product. -/
  | mxmul (f : FmtE)
  /-- MXDRAIN (R310): Queues a drain of till tiles from a drain block. -/
  | mxdrain (f : FmtE)
  /-- MXZERO (R311): Queues zeroing of till tiles. -/
  | mxzero (f : FmtE)
  /-- MXSAVE (R312): Queues a save of till tiles to memory. -/
  | mxsave (f : FmtE)
  /-- MXREST (R312): Queues a restore of till tiles from memory. -/
  | mxrest (f : FmtE)
  /-- MXRD (R313): Queues a read of tile rows into registers of each lane. -/
  | mxrd (f : FmtE)
  /-- MXWR (R313): Queues a write of registers of each lane into tile rows. -/
  | mxwr (f : FmtE)
  /-- TXBEGIN (R316): Begins or nests a transaction and checkpoints the thread. -/
  | txbegin (f : FmtE)
  /-- TXEND (R320): Solo form: ends a nesting level or commits the lane's transaction. -/
  | txend (f : FmtE)
  /-- TXEND_G (R320): Gang form: arrives at a rendezvous that commits the participants' transactions. -/
  | txendG (f : FmtE)
  /-- TXABORT (R327): Aborts the transaction with cause EXPLICIT. -/
  | txabort (f : FmtE)
  /-- BRA (R330): Branches active lanes to a target. -/
  | bra (f : FmtB)
  /-- BRU (R331): Uniform branch that traps UNIFORM on a split guard. -/
  | bru (f : FmtB)
  /-- BRD (R332): Divergent branch that pushes a join-stack entry and may eject a minority. -/
  | brd (f : FmtB)
  /-- JOIN (R333): Lane arrives at its join-stack entry or passes as NOP. -/
  | join (f : FmtR)
  /-- BRX (R330): Branches each lane to its own register target. -/
  | brx (f : FmtR)
  /-- CALL (R330): Writes the return address to g30:g31 and branches. -/
  | call (f : FmtB)
  /-- RET (R330): Returns to the address in a pair. -/
  | ret (f : FmtR)
  /-- EXIT (R144): The thread exits, leaving gangs and freeing blocks. -/
  | exit (f : FmtR)
  /-- NOP (R334): Does nothing. -/
  | nop (f : FmtR)
  /-- YIELD (R334): Ends the stripe's turn. -/
  | yield (f : FmtR)
  /-- GJOIN (R336): Makes the thread a member of a gang. -/
  | gjoin (f : FmtE)
  /-- GLEAVE (R336): Removes the thread from a gang. -/
  | gleave (f : FmtE)
  /-- GVOTE (R337): Gang vote over a predicate. -/
  | gvote (f : FmtE)
  /-- GSHFL (R337): Gang shuffle of a register between participants. -/
  | gshfl (f : FmtE)
  /-- GRED (R338): Gang reduction of a register. -/
  | gred (f : FmtE)
  /-- GELECT (R337): Gang election of the rank-0 participant. -/
  | gelect (f : FmtE)
  /-- BARINIT (R344): Sets a barrier's expected count. -/
  | barinit (f : FmtE)
  /-- BARARR (R341): Arrives at a barrier and returns the phase token. -/
  | bararr (f : FmtE)
  /-- BARWAIT (R342): Waits until a given barrier phase has completed. -/
  | barwait (f : FmtE)
  /-- BARSYNC (R341): Arrives at a barrier and waits for the phase to complete. -/
  | barsync (f : FmtE)
  /-- BARDROP (R341): Arrives and drops out of later phases. -/
  | bardrop (f : FmtE)
  /-- RINGINIT (R159): Sets a ring's slot count and clears its phase bits. -/
  | ringinit (f : FmtE)
  /-- RPUT (R160): Flips a ring slot's phase bit. -/
  | rput (f : FmtE)
  /-- RGET (R160): Waits until a ring slot's phase equals e. -/
  | rget (f : FmtE)
  /-- RFREE (R159): Frees a ring. -/
  | rfree (f : FmtE)
  /-- LAUNCH (R349): Sends a launch record to a queue and returns a status. -/
  | launch (f : FmtE)
  /-- LAUNCH_POD (R349): Sends a pod launch record for broadcast to a pod group. -/
  | launchPod (f : FmtE)
  /-- FETCHT (R350): Asks the slice dispenser for the next tile index. -/
  | fetcht (f : FmtE)
  /-- CANCEL (R351): Cancels an active launch at a given GTC. -/
  | cancel (f : FmtE)
  /-- NODESIG (R352): Decrements a graph node's predecessor counter. -/
  | nodesig (f : FmtE)
  /-- RDSR (R354): Reads a special register. -/
  | rdsr (f : FmtI)
  /-- WRSR (R354): Writes the writable fields of a special register. -/
  | wrsr (f : FmtI)
  /-- TRAP (R356): Raises TRAPI with a number. -/
  | trap (f : FmtI)
  /-- BKPT (R356): Raises BKPT with a number. -/
  | bkpt (f : FmtI)
  /-- ERET (R357): Returns from a trap handler to the recorded address and privilege. -/
  | eret (f : FmtR)
  /-- HALT (R358): Stops issue until an interrupt is pending. -/
  | halt (f : FmtR)
  /-- WLATCH (R359): Firmware latches a core to a world. -/
  | wlatch (f : FmtR)
  /-- TLBINV_PAGE (R361): Invalidates the entries of one page under an ASID. -/
  | tlbinvPage (f : FmtE)
  /-- TLBINV_ASID (R361): Invalidates every entry of one ASID. -/
  | tlbinvAsid (f : FmtE)
  /-- TLBINV_ALL (R361): Invalidates every entry. -/
  | tlbinvAll (f : FmtE)
  /-- TURN_GRANT (R141): A quadrant grants its issue slot to a ready stripe, which votes its lanes. -/
  | turnGrant (unit : Nat) (quad : Nat)
  /-- LOAD_DATA_RETURN (R152): Load data arrives, is written into the destination and marks it full. -/
  | loadDataReturn (unit : Nat) (id : Nat)
  /-- INTERRUPT_TAKE (R424): A host-core thread takes a pending interrupt at a run boundary. -/
  | interruptTake (unit : Nat) (slot : Nat)
  /-- WALK_AHEAD (R67): The walk-ahead TLB translates pages ahead of the stage transfer. -/
  | walkAhead (unit : Nat) (stripe : Nat)
  /-- TLBINV_COMPLETE (R69): An invalidation completes once no covered entry or access remains. -/
  | tlbinvComplete (unit : Nat) (stripe : Nat)
  /-- STAGE_TRANSFER (R95): The stage engine moves 128 bytes for a head operation in its turn. -/
  | stageTransfer (unit : Nat) (stripe : Nat)
  /-- STAGE_RETIRE (R104): A stage operation retires, lowering S and flipping its ring slot. -/
  | stageRetire (unit : Nat) (stripe : Nat)
  /-- BARROW_START (R108): A barrow transfer starts, no earlier than NBT. -/
  | barrowStart (slice : Nat) (eng : Nat)
  /-- BARROW_TRANSFER (R111): A barrow engine moves a transfer of up to 4,096 bytes. -/
  | barrowTransfer (slice : Nat) (eng : Nat)
  /-- BARROW_RETIRE (R113): A barrow operation retires when every destination byte is performed. -/
  | barrowRetire (slice : Nat) (eng : Nat)
  /-- POD_RETIRE_REPORT (R113): Retirement of a pod-destination operation is reported back. -/
  | podRetireReport (slice : Nat) (eng : Nat) (tag : Nat)
  /-- MXLDB_PERFORM (R187): The load port fills a stationary slot, checking tags and decrypting. -/
  | mxldbPerform (unit : Nat)
  /-- MXMUL_KSTEP (R175): The engine applies one k-step to every element of the operation. -/
  | mxmulKstep (unit : Nat)
  /-- MATRIX_OP_PERFORM (R498): The engine queue performs MXZERO, MXSAVE, MXREST, MXRD or MXWR. -/
  | matrixOpPerform (unit : Nat)
  /-- DRAIN_APPLY (R198): The drain applies one indivisible unit at its destination. -/
  | drainApply (unit : Nat)
  /-- DRAIN_RETIRE (R199): A drain retires, lowering D and clearing tiles if asked. -/
  | drainRetire (unit : Nat)
  /-- MATRIX_CLAIM_RELEASE (R181): Slots are cleared after operations accepted before a release are performed. -/
  | matrixClaimRelease (unit : Nat)
  /-- GANG_RENDEZVOUS_COMPLETE (R146): The last participant arrives and every participant gets the result. -/
  | gangRendezvousComplete (unit : Nat) (gang : Nat)
  /-- TAKE_GRANT (R155): A waiting TAKE is granted once its resources are free. -/
  | takeGrant (unit : Nat) (kind : Nat)
  /-- BANK_CLEAR_DONE (R118): A bank entering S or F mode finishes clearing. -/
  | bankClearDone (unit : Nat) (bank : Nat)
  /-- BANK_RETURN (R119): A bank returns to C mode once no operation in flight uses it. -/
  | bankReturn (unit : Nat) (bank : Nat)
  /-- GRANULE_ACCESS (R124): A bank port applies one qualified access to a granule. -/
  | granuleAccess (unit : Nat) (stripe : Nat) (lane : Nat)
  /-- CHANNEL_SLOT_FULL (R128): A sent message fills its receive slot and lowers X. -/
  | channelSlotFull (unit : Nat) (chan : Nat)
  /-- CHANNEL_CREDIT_RETURN (R128): A credit returned by CHRECV reaches the send end. -/
  | channelCreditReturn (unit : Nat) (chan : Nat)
  /-- PROMOTION_REQUEST (R244): A target core acknowledges once its pre-release accesses are performed. -/
  | promotionRequest (unit : Nat) (stripe : Nat)
  /-- PROMOTION_ACK (R244): The acknowledgement arrives and LD.rem writes its registers. -/
  | promotionAck (unit : Nat) (stripe : Nat)
  /-- TX_PREPARE (R322): A commit unit reserves and validates its entries and answers. -/
  | txPrepare (tx : Nat) (bank : Nat)
  /-- TX_DECIDE (R322): The coordinator collects all answers and decides commit or abort. -/
  | txDecide (tx : Nat)
  /-- TX_COMMIT_WRITE (R322): A commit unit writes its words or releases its reservations. -/
  | txCommitWrite (tx : Nat) (bank : Nat)
  /-- TX_SINGLE_BANK_COMMIT (R324): A one-bank log validates and writes in one step. -/
  | txSingleBankCommit (tx : Nat)
  /-- EJECT_HANDOVER_DONE (R385): The hand-over ends and the booth thread can issue its first word. -/
  | ejectHandoverDone (unit : Nat) (slot : Nat)
  /-- BOOTH_TURN (R386): A booth core issues one ready thread's run. -/
  | boothTurn (unit : Nat)
  /-- BOOTH_RETURN (R387): A booth thread at its join PC with an empty stack hands back. -/
  | boothReturn (unit : Nat) (slot : Nat)
  /-- REPATRIATE (R388): A booth thread is sent home for one of the listed causes. -/
  | repatriate (unit : Nat) (slot : Nat)
  /-- BOOTH_TIME_LIMIT (R388): The booth time limit expires and marks the thread for repatriation. -/
  | boothTimeLimit (unit : Nat) (slot : Nat)
  /-- HAND_BACK_DONE (R387): The hand-back completes and the home lane becomes ready. -/
  | handBackDone (unit : Nat) (slot : Nat)
  /-- WAITT_WAKE (R256): The GTC reaches the wait value and the stripe becomes ready. -/
  | waittWake (unit : Nat) (stripe : Nat)
  /-- HALT_WAKE (R358): A pending interrupt wakes a halted thread. -/
  | haltWake (unit : Nat) (slot : Nat)
  /-- ACCESS_PERFORMED (R83): An access is performed at its home slice bank. -/
  | accessPerformed (unit : Nat) (id : Nat)
  /-- FILL_ARRIVAL (R84): A fill arrives, attached accesses are performed and the line installed. -/
  | fillArrival (bank : Nat) (line : Nat)
  /-- BYPASSED_READ (R85): A read with no miss register goes to the controller past the pending-write filter. -/
  | bypassedRead (bank : Nat) (idx : Nat)
  /-- LINE_WRITE_BACK (R34): The controller accepts a write-back and compresses, encrypts, authenticates and codes it. -/
  | lineWriteBack (bank : Nat)
  /-- FRAME_RELEASE (R41): Once prior accesses complete, the frame's lines are dropped and marked clear. -/
  | frameRelease (slice : Nat) (frame : Nat)
  /-- PACKET_ARBITRATE (R87): An arbiter grants one packet by class and round-robin. -/
  | packetArbitrate (port : Nat)
  /-- NEGATIVE_RESPONSE (R90): A refused access completes as poisoned and posts a record. -/
  | negativeResponse (unit : Nat) (id : Nat)
  /-- FIREWALL_DRAIN_END (R93): The partition's packets in flight reach zero and the drain ends. -/
  | firewallDrainEnd (slice : Nat)
  /-- FAULT_RECORD_POST (R428): A record group is written to the fault queue and HEAD advances, or it is held. -/
  | faultRecordPost (part : Nat)
  /-- FAULT_QUEUE_FLUSH (R428): Held groups are written once they fit. -/
  | faultQueueFlush (part : Nat)
  /-- LAUNCH_NOTIFY_ACCEPT (R395): The function core accepts a notify and appends the record. -/
  | launchNotifyAccept (func : Nat)
  /-- PLACEMENT_DECISION (R396): The dispatcher visits heads and places cohorts on aligned groups. -/
  | placementDecision (part : Nat)
  /-- HEAD_AGEING (R400): A head passes AGE and reserves a group. -/
  | headAgeing (func : Nat) (queue : Nat)
  /-- PARAM_FETCH (R402): PARP bytes are read when the record first becomes head. -/
  | paramFetch (func : Nat) (queue : Nat)
  /-- CHUNK_REQUEST (R403): A slice dispenser requests a chunk and the dispatcher deals it. -/
  | chunkRequest (launch : Nat) (slice : Nat)
  /-- LAUNCH_COMPLETE (R405): The completion slot is written and SNODE decremented. -/
  | launchComplete (launch : Nat)
  /-- PREEMPT_REQUEUE (R410): When the last team exits, NEXT is written and the launch requeued at its head. -/
  | preemptRequeue (launch : Nat)
  /-- CANCEL_EFFECT (R412): At the cancel GTC dealing stops and remnants are dropped. -/
  | cancelEffect (launch : Nat)
  /-- QUANT_EXPIRY (R432): A swappable team has run QUANT while a head waits and is chosen for saving. -/
  | quantExpiry (unit : Nat)
  /-- CONTEXT_SAVE (R433): A swappable team is drained and written to its save area. -/
  | contextSave (unit : Nat)
  /-- FNRST_END (R436): When the last team exits, nodes and queues clear and RST falls. -/
  | fnrstEnd (func : Nat)
  /-- WLATCH_COMPLETE (R360): The latch sequence finishes and the core takes the new world. -/
  | wlatchComplete (unit : Nat)
  /-- POD_RECORD_APPEND (R413): At START minus 1,024 the member appends, refuses or marks the record late. -/
  | podRecordAppend (idx : Nat)
  /-- POD_CHUNK_REQUEST (R414): A member requests a pod chunk and the pod dispatcher deals one. -/
  | podChunkRequest (pod : Nat) (member : Nat)
  /-- POD_COMPLETE (R415): The pod dispatcher writes summary, slot and member table. -/
  | podComplete (pod : Nat)
  /-- DISPENSE_START (R403): When the GTC reaches a launch's START, its held FETCHT words are answered and dispensing begins, on every member for a pod launch. -/
  | dispenseStart (launch : Nat)
  /-- FUNCTION_CORE_RESTART (R455): A restarted function core finishes reloading its firmware, resumes its queues and accepts the notifies held during the restart in arrival order. -/
  | functionCoreRestart (func : Nat)
  /-- FUNCTION_CORE_CRASH (R455): A trapped or silent function core is recorded, reset and resumed. -/
  | functionCoreCrash (func : Nat) (cause : BitVec 8) (pc : BitVec 52)
  /-- ROOT_CORE_CRASH (R456): A trapped or silent root core is recorded and restarted. -/
  | rootCoreCrash (cause : BitVec 8) (pc : BitVec 52)
  /-- ROOT_CORE_RESTART (R456): The restarted root core resumes latching, resizing, time slicing and requests, and FNRESTART is set in every partition. -/
  | rootCoreRestart
  /-- MIGRATE_UNIT (R448): One interleave unit is moved and the watermark advances. -/
  | migrateUnit (part : Nat)
  /-- BOOT_RETRY (R446): A retry wait expires and the fetch is tried again. -/
  | bootRetry (part : Nat)
  /-- MCFREL (R43): A write of a frame number, forwarded to the frame's home slice. -/
  | mcfrel (part : Nat) (slice : Nat) (v : BitVec 64)
  /-- PFRES (R75): Kernel write that resumes a parked stripe on its batch. -/
  | pfres (part : Nat) (v : BitVec 64)
  /-- ENGRES_RESUME (R78): Kernel write that resumes a paused engine operation. -/
  | engresResume (part : Nat) (unit : Nat) (tag : Nat)
  /-- ENGRES_POISON (R78): Kernel write that poisons the rest of a paused operation and retires it. -/
  | engresPoison (part : Nat) (unit : Nat) (tag : Nat)
  /-- SRAM_UNCORRECTABLE (R125): An uncorrectable SRAM error poisons a granule and posts a record. -/
  | sramUncorrectable (unit : Nat) (granule : Nat)
  /-- BOOTH_FAILURE (R391): A failed booth core loses its threads, which exit with records. -/
  | boothFailure (unit : Nat)
  /-- PSEUDO_CHANNEL_FAILURE (R30): A failed pseudo-channel is replaced by the spare or withdrawn. -/
  | pseudoChannelFailure (slice : Nat) (chan : Nat) (announced : Bool)
  /-- FWCTL_WRITE (R94): Firmware writes MASK, DRAIN and, when allowed, PART and EN. -/
  | fwctlWrite (slice : Nat) (v : BitVec 64)
  /-- REGISTER_WRITE (R8): A write to a register without a row of its own, per its access codes. -/
  | registerWrite (part : Nat) (off : Nat) (v : BitVec 64) (priv : BitVec 2)
  /-- NODE_WRITE (R407): A write of a node's COUNT. -/
  | nodeWrite (func : Nat) (node : Nat) (v : BitVec 64)
  /-- LPRE_QUEUE (R409): Pre-empts the head of one queue. -/
  | lpreQueue (func : Nat) (queue : Nat)
  /-- LPRE_ALL (R409): Pre-empts every launch of the function with undispensed indices. -/
  | lpreAll (func : Nat)
  /-- FNRST (R436): A write of 1 starts a function-level reset. -/
  | fnrst (func : Nat)
  /-- CRIER_DELIVER (R413): A pod launch record reaches a member's inbox. -/
  | crierDeliver (rec : PodRecord)
  /-- POD_MEMBER_REPORT (R415): A member reports its share done to the pod dispatcher. -/
  | podMemberReport (pod : Nat) (member : Nat) (report : PodReport)
  /-- POD_MEMBER_LOST (R415): A member silent for 1,000,000 ticks is marked lost. -/
  | podMemberLost (pod : Nat) (member : Nat)
  /-- POD_DISPATCHER_SILENT (R415): A member treats the launch as cancelled after its dispatcher is silent. -/
  | podDispatcherSilent (launch : Nat)
  /-- POD_CANCEL (R418): The crier carries a cancel that takes effect everywhere at C. -/
  | podCancel (src : BitVec 24) (stamp : BitVec 64) (when : BitVec 64)
  /-- POWER_ON (R439): Power-on zeroes the GTC and the controller verifies the firmware images. -/
  | powerOn (images : List SignedImage)
  /-- MANIFEST_APPLY (R441): A manifest is checked and its changes classified and applied. -/
  | manifestApply (manifest : List (BitVec 8))
  /-- PARTITION_RESET (R445): Drains, ends teams, latches world 0, drops lines, releases frames and rekeys. -/
  | partitionReset (part : Nat)
  /-- NETWORK_BOOT (R446): The boot host core fetches, verifies and enters the kernel. -/
  | networkBoot (part : Nat) (image : SignedImage)
  /-- RESIZE_REMOVE (R447): A slice is removed from a running partition. -/
  | resizeRemove (part : Nat) (slice : Nat)
  /-- RESIZE_ADD (R447): A slice is added to a running partition. -/
  | resizeAdd (part : Nat) (slice : Nat)
  /-- KEYSET (R452): Firmware request that programs a key slot in every member. -/
  | keyset (part : Nat)
  /-- KEYCLR (R452): Firmware request that clears a key slot. -/
  | keyclr (part : Nat)
  /-- ATTEST (R459): Firmware request that writes a signed attestation report. -/
  | attest (part : Nat)
  /-- METER (R458): Firmware request that copies metering records. -/
  | meter (part : Nat)
  /-- HEALTH (R461): Firmware request that copies health-log entries. -/
  | health (part : Nat)
  /-- HCSTART (R452): Firmware request that starts a host core at K. -/
  | hcstart (part : Nat)
  /-- WINEXP (R468): Firmware request that exports or withdraws a peer window. -/
  | winexp (part : Nat)
  /-- STRKEY (R469): Firmware request that programs a stream key. -/
  | strkey (part : Nat)
  /-- ROT_WATCHDOG (R456): The root-of-trust watchdog resets the controller, which re-verifies images. -/
  | rotWatchdog (images : List SignedImage)
  /-- METER_APPEND (R458): Each second a usage record, and every 64th a signature record, is appended. -/
  | meterAppend (part : Nat) (energy : BitVec 64)
  /-- UNIT_FAILURE (R460): A failed unit is contained, its work ended and a spare substituted. -/
  | unitFailure (unit : Nat)
  /-- POD_CONFIGURATION (R463): A signed pod configuration is checked and applied. -/
  | podConfiguration (cfg : PodConfig)
  /-- FLIT_RECEIVE (R464): A pod-link flit is checked by CRC and delivered or forwarded. -/
  | flitReceive (port : Nat) (flit : List (BitVec 8))
  /-- LINK_KEY_AGREE (R466): Two controllers agree the next link key by signed ECDH. -/
  | linkKeyAgree (port : Nat) (peerKey : List (BitVec 8))
  /-- POD_JOIN (R23): A package loads its GTC from the pod reference. -/
  | podJoin (ref : TimeFlits)
  /-- TIME_EXCHANGE (R467): Every 1,000,000 ticks time flits measure the offset and the GTC slews. -/
  | timeExchange (times : TimeFlits)
  /-- TIER_PORT_FAILURE (R470): A failed CXL port makes its units unreachable. -/
  | tierPortFailure (port : Nat)
  /-- SPDM_GET_VERSION (R471): Management-port SPDM version request. -/
  | spdmGetVersion
  /-- SPDM_GET_CAPABILITIES (R471): Management-port SPDM capabilities request. -/
  | spdmGetCapabilities
  /-- SPDM_NEGOTIATE_ALGORITHMS (R471): Management-port SPDM algorithm negotiation. -/
  | spdmNegotiateAlgorithms
  /-- SPDM_GET_MEASUREMENTS (R471): Returns the attestation report as a measurement block. -/
  | spdmGetMeasurements (part : Nat) (nonce : List (BitVec 8))
  /-- SPDM_UNSUPPORTED (R471): CHALLENGE, KEY_EXCHANGE or signed measurements answered UnsupportedRequest. -/
  | spdmUnsupported
  /-- MGMT_READ_CRASH_RECORDS (R457): Vendor message that reads crash records. -/
  | mgmtReadCrashRecords
  /-- MGMT_READ_HEALTH_LOG (R461): Vendor message that reads the health log. -/
  | mgmtReadHealthLog
  /-- MGMT_READ_METERING_LOG (R458): Vendor message that reads a metering log. -/
  | mgmtReadMeteringLog (part : Nat)
  /-- MGMT_BOOT_STAGE_REPORT (R439): Vendor message that reports the boot stage. -/
  | mgmtBootStageReport
  deriving DecidableEq, Repr

end Sys2Proof
end

