-- ==== Sys2Proof/Machine/Encoding.lean ====
section
/-!
DEFINITION. The fields of the words: the parts of X (R204), and the encoding checks of R230 steps 3 and 4 for every row, from the field
tables of chapters 10 to 14.
-/
namespace Sys2Proof

/-- Why a word is refused before it executes (R11): an unassigned opcode or code value, or a reserved bit set. -/
inductive EncFault where
  | illegal
  | reserved
  deriving DecidableEq, Repr

/-- Q of the R format (R204). -/
def FmtR.q (f : FmtR) : BitVec 3 := f.x.extractLsb' 6 3
/-- RM of the R format (R205). -/
def FmtR.rm (f : FmtR) : BitVec 2 := f.x.extractLsb' 4 2
/-- TY of the R format (R206). -/
def FmtR.ty (f : FmtR) : BitVec 4 := f.x.extractLsb' 0 4
/-- The truth table of LUT3 and PLUT (R281, R286). -/
def FmtR.table (f : FmtR) : BitVec 8 := f.x.extractLsb' 0 8
/-- Q of the I format (R204). -/
def FmtI.q (f : FmtI) : BitVec 3 := f.x.extractLsb' 6 3
/-- TY of the I format (R206). -/
def FmtI.ty (f : FmtI) : BitVec 4 := f.x.extractLsb' 0 4
/-- SIZE of the M format (R208). -/
def FmtM.size (f : FmtM) : BitVec 3 := f.x.extractLsb' 6 3
/-- ORD of the M format (R209). -/
def FmtM.ord (f : FmtM) : BitVec 2 := f.x.extractLsb' 4 2
/-- SCP of the M format (R209). -/
def FmtM.scp (f : FmtM) : BitVec 2 := f.x.extractLsb' 2 2
/-- GQ of the M format (R123, R209). -/
def FmtM.gq (f : FmtM) : BitVec 2 := f.x.extractLsb' 0 2
/-- The gang that IMM8 names (R267, R302, R335). -/
def FmtE.gang (f : FmtE) : Nat := (f.imm8.extractLsb' 0 5).toNat
/-- MK: the lane mask is in gSC (R267, R335). -/
def FmtE.mk? (f : FmtE) : Bool := f.x.getLsbD 8
/-- The predicate PD (R267, R306, R335). -/
def FmtE.pd (f : FmtE) : BitVec 3 := f.x.extractLsb' 4 3
/-- The operation code OP of a gang instruction (R335). -/
def FmtE.op (f : FmtE) : BitVec 4 := f.x.extractLsb' 0 4

/-- How a register field is used (R202, R203). -/
inductive Opd where
  | none | reg | pair | quad | pred
  deriving DecidableEq, Repr

/-- How a modifier field is used (R214, R215, R273): reserved, only 0000, 0000 to 1011, or all but 1111. -/
inductive ModUse where
  | none | zero | bits | typed
  deriving DecidableEq, Repr

/-- How RM is used (R205): reserved, every code, or .rn only (R295). -/
inductive RmUse where
  | none | all | rn
  deriving DecidableEq, Repr

/-- An odd pair or a misaligned quad (R202). -/
def Opd.illegal (u : Opd) (r : BitVec 7) : Bool :=
  match u with
  | .pair => r.toNat % 2 != 0
  | .quad => r.toNat % 4 != 0
  | _ => false

/-- A set bit in a field the instruction does not use (R202, R203). -/
def Opd.reserved (u : Opd) (r : BitVec 7) : Bool :=
  match u with
  | .none => r != 0
  | .pred => 8 ≤ r.toNat
  | _ => false

/-- A modifier code that the source does not admit (R215, R273). -/
def ModUse.illegal (u : ModUse) (m : BitVec 4) : Bool :=
  match u with
  | .none => false
  | .zero => m != 0
  | .bits => 12 ≤ m.toNat
  | .typed => m == 15

/-- A modifier on an absent source (R203, R215). -/
def ModUse.reserved (u : ModUse) (m : BitVec 4) : Bool :=
  match u with
  | .none => m != 0
  | _ => false

/-- A rounding code that the instruction does not admit (R295). -/
def RmUse.illegal (u : RmUse) (m : BitVec 2) : Bool :=
  match u with
  | .rn => m != 0
  | _ => false

/-- A rounding code where RM is reserved (R204). -/
def RmUse.reserved (u : RmUse) (m : BitVec 2) : Bool :=
  match u with
  | .none => m != 0
  | _ => false

/-- The verdict of two kinds of fault; ILLEGAL prevails (R11, R230). -/
def EncFault.pick (illegal reserved : Bool) : Option EncFault :=
  if illegal then some .illegal else if reserved then some .reserved else none

/-- An admission list: none makes the field reserved, some l admits the codes of l (R206, R207). -/
def codeIllegal (u : Option (List Nat)) (v : Nat) : Bool :=
  match u with
  | none => false
  | some l => !l.contains v

/-- A nonzero code in a field the instruction assigns no meaning to (R204). -/
def codeReserved (u : Option (List Nat)) (v : Nat) : Bool :=
  match u with
  | none => v != 0
  | some _ => false

/-- How an R-format instruction uses its fields. -/
structure UseR where
  dst : Opd := .none
  sa  : Opd := .none
  sb  : Opd := .none
  sc  : Opd := .none
  ma  : ModUse := .none
  mb  : ModUse := .none
  fa  : Bool := false
  fb  : Bool := false
  fc  : Bool := false
  q   : Option (List Nat) := none
  rm  : RmUse := .none
  ty  : Option (List Nat) := none

/-- ILLEGAL codes of an R-format word. -/
def UseR.illegal (u : UseR) (f : FmtR) : Bool :=
  u.dst.illegal f.dst || u.sa.illegal f.sa || u.sb.illegal f.sb || u.sc.illegal f.sc || u.ma.illegal f.ma || u.mb.illegal f.mb
    || codeIllegal u.q f.q.toNat || u.rm.illegal f.rm || codeIllegal u.ty f.ty.toNat

/-- Reserved register, modifier and policy fields of an R-format word. -/
def UseR.reservedRegs (u : UseR) (f : FmtR) : Bool :=
  u.dst.reserved f.dst || u.sa.reserved f.sa || u.sb.reserved f.sb || u.sc.reserved f.sc || u.ma.reserved f.ma || u.mb.reserved f.mb
    || (f.fa && !u.fa) || (f.fb && !u.fb) || (f.fc && !u.fc)

/-- The encoding checks of an R-format word. -/
def UseR.fault (u : UseR) (f : FmtR) : Option EncFault :=
  EncFault.pick (u.illegal f) (u.reservedRegs f || codeReserved u.q f.q.toNat || u.rm.reserved f.rm || codeReserved u.ty f.ty.toNat)

/-- LUT3 and PLUT hold a truth table in X[7:0]; X[8] is reserved (R281, R286). (log 15) -/
def UseR.faultTable (u : UseR) (f : FmtR) : Option EncFault :=
  EncFault.pick (u.dst.illegal f.dst || u.sa.illegal f.sa || u.sb.illegal f.sb || u.sc.illegal f.sc || u.ma.illegal f.ma || u.mb.illegal f.mb)
    (u.reservedRegs f || f.x.getLsbD 8)

/-- DOT4 and DOT8: Q[2] is reserved, Q[1:0] is free (R278). -/
def UseR.faultDot (u : UseR) (f : FmtR) : Option EncFault :=
  EncFault.pick ({ u with q := none }.illegal f) (u.reservedRegs f || f.q.getLsbD 2 || u.rm.reserved f.rm)

/-- The rows of the table of R298: target, source, and whether SB and Q[0] are used. -/
def fcvtRow (target source : Nat) : Option (Bool × Bool) :=
  match target, source with
  | 8, 11 => some (false, false)
  | 8, 12 => some (false, false)
  | 8, 9 => some (false, true)
  | 8, 10 => some (false, true)
  | 11, 8 => some (false, false)
  | 12, 8 => some (false, false)
  | 11, 12 => some (false, false)
  | 12, 11 => some (false, false)
  | 9, 8 => some (true, false)
  | 10, 8 => some (true, false)
  | 9, 10 => some (false, false)
  | 10, 9 => some (false, false)
  | _, _ => none

/-- The rows of ICVT in R299. -/
def icvtRow (target source : Nat) : Bool :=
  ((target == 8 || target == 11 || target == 12) && (source == 0 || source == 1)) || ((target == 9 || target == 10) && (source == 2 || source == 3))

/-- The rows of FCVTI in R299. -/
def fcvtiRow (target source : Nat) : Bool := icvtRow source target

/-- The source type of a conversion (R223, R297). -/
def FmtR.srcTy (f : FmtR) : Nat := f.sc.toNat % 16

/-- FCVT (R297, R298). -/
def fcvtFault (f : FmtR) : Option EncFault :=
  let row := fcvtRow f.ty.toNat f.srcTy
  let two := (row.map (·.1)).getD false
  let sel := (row.map (·.2)).getD false
  EncFault.pick (row.isNone || f.ma == 15 || (two && f.mb == 15))
    (16 ≤ f.sc.toNat || f.fc || (!two && (f.sb != 0 || f.mb != 0 || f.fb)) || (if sel then 2 ≤ f.q.toNat else f.q != 0))

/-- ICVT and FCVTI (R297, R299). -/
def cvtFault (ok : Bool) (f : FmtR) : Option EncFault :=
  EncFault.pick (!ok || f.ma == 15) (16 ≤ f.sc.toNat || f.fc || f.sb != 0 || f.mb != 0 || f.fb || f.q != 0)

/-- PTRMK: SB is a rank for codes 1 and 2, else reserved (R288). -/
def ptrmkFault (f : FmtR) : Option EncFault :=
  let ranked := f.q == 1 || f.q == 2
  { dst := Opd.pair, sa := .pair, sb := if ranked then .reg else .none, ma := .zero, mb := if ranked then .zero else .none,
    fa := true, fb := ranked, q := some [0, 1, 2, 4] : UseR }.fault f

/-- A class-101 word other than NOP and YIELD has B = 1 (R138, R329). (log 16) -/
def runFault (h : Hdr) (o : Option EncFault) : Option EncFault := if h.b then o else some .illegal

/-- JOIN takes only the guard (p7) (R330). -/
def joinFault (f : FmtR) : Option EncFault :=
  if f.hdr.p != 7 || f.hdr.n then some .illegal else runFault f.hdr (({} : UseR).fault f)

/-- An I form of a +I instruction (R210, R276, R279, R281, R284, R287). -/
def iFault (dst sa : Opd) (q : Option (List Nat)) (tys : List Nat) (f : FmtI) : Option EncFault :=
  EncFault.pick (dst.illegal f.dst || sa.illegal f.sa || codeIllegal q f.q.toNat || !tys.contains f.ty.toNat)
    (dst.reserved f.dst || codeReserved q f.q.toNat || f.x.extractLsb' 4 2 != 0)

/-- The special registers of R353: number and whether it is 64 bits wide. -/
def srWide (n : Nat) : Option Bool :=
  if [0x000, 0x001, 0x002, 0x003, 0x004, 0x005, 0x006, 0x008, 0x009, 0x00A, 0x010, 0x011, 0x012, 0x020, 0x021, 0x030, 0x031, 0x050].contains n then some false
  else if [0x022, 0x040, 0x051, 0x052, 0x053].contains n then some true
  else none

/-- The special-register number (R229). -/
def FmtI.sr (f : FmtI) : Nat := f.imm.toNat % 4096

/-- RDSR and WRSR (R229, R353, R354). -/
def srFault (write : Bool) (f : FmtI) : Option EncFault :=
  let r := if write then f.sa else f.dst
  let w := srWide f.sr
  EncFault.pick (w.isNone || (w == some true && r.toNat % 2 != 0))
    (4096 ≤ f.imm.toNat || f.x != 0 || (if write then f.dst != 0 else f.sa != 0 || f.fa))

/-- TRAP and BKPT (R356). -/
def trapFault (f : FmtI) : Option EncFault :=
  EncFault.pick false (256 ≤ f.imm.toNat || f.dst != 0 || f.sa != 0 || f.fa || f.x != 0)

/-- The data operand that SIZE asks for (R208). -/
def sizeOpd (size : BitVec 3) : Opd := if size == 6 then .pair else if size == 7 then .quad else .reg

/-- An M-format access: admitted sizes, admitted (order, scope) pairs and granule codes (R123, R208, R209, R237, R240). -/
def mFault (sizes : List Nat) (orders : List (Nat × Nat)) (gqs : List Nat) (f : FmtM) : Option EncFault :=
  EncFault.pick (!sizes.contains f.size.toNat || !orders.contains (f.ord.toNat, f.scp.toNat) || f.sa.toNat % 2 != 0 || (sizeOpd f.size).illegal f.dst)
    (!gqs.contains f.gq.toNat)

/-- Orders of LD and LDX (R237). -/
def loadOrders : List (Nat × Nat) := [(0, 0), (1, 0), (1, 1), (1, 2)]
/-- Orders of ST and STX (R237). -/
def storeOrders : List (Nat × Nat) := [(0, 0), (2, 0), (2, 1), (2, 2)]
/-- Orders of AMO (R237). -/
def amoOrders : List (Nat × Nat) := [(0, 0), (1, 0), (1, 1), (1, 2), (2, 0), (2, 1), (2, 2), (3, 0), (3, 1), (3, 2)]
/-- Every SIZE code. -/
def allSizes : List Nat := [0, 1, 2, 3, 4, 5, 6, 7]
/-- The SIZE codes of stores (R208). -/
def storeSizes : List Nat := [0, 2, 4, 6, 7]

/-- PREF (R248). -/
def prefFault (f : FmtM) : Option EncFault :=
  EncFault.pick (2 ≤ f.size.toNat || f.ord != 0 || f.scp != 0 || f.sa.toNat % 2 != 0) (f.dst != 0 || f.gq != 0)

/-- FENCE (R237, R253). -/
def fenceFault (f : FmtM) : Option EncFault :=
  EncFault.pick (f.ord == 0) (f.dst != 0 || f.sa != 0 || f.sb != 0 || f.off != 0 || f.fa || f.size != 0 || f.gq != 0)

/-- A branch of the B format; low is what X may hold (R330). -/
def bFault (low : Nat) (f : FmtB) : Option EncFault := runFault f.hdr (EncFault.pick false (f.bit9 || low < f.x.toNat))

/-- How an E-format instruction uses its register and policy fields. -/
structure UseE where
  dst : Opd := .none
  sa  : Opd := .none
  sb  : Opd := .none
  sc  : Opd := .none
  fa  : Bool := false
  fb  : Bool := false
  fc  : Bool := false

/-- The encoding checks of an E-format word; the caller gives the checks of IMM8 and X. -/
def UseE.fault (u : UseE) (f : FmtE) (illegal reserved : Bool) : Option EncFault :=
  EncFault.pick (u.dst.illegal f.dst || u.sa.illegal f.sa || u.sb.illegal f.sb || u.sc.illegal f.sc || illegal)
    (u.dst.reserved f.dst || u.sa.reserved f.sa || u.sb.reserved f.sb || u.sc.reserved f.sc
      || (f.fa && !u.fa) || (f.fb && !u.fb) || (f.fc && !u.fc) || reserved)

/-- The mask operand of a gang word: gSC when MK is set (R267, R306, R335). -/
def UseE.masked (u : UseE) (f : FmtE) : UseE := { u with sc := if f.mk? then .reg else .none, fc := f.mk? }

/-- IMM8 above the gang number is zero (R267, R335). -/
def gangImm (f : FmtE) : Bool := 32 ≤ f.imm8.toNat

/-- X bits from hi downto lo are set somewhere. -/
def xBits (f : FmtE) (lo n : Nat) : Bool := f.x.toNat / 2 ^ lo % 2 ^ n != 0

/-- A stage command (R260): with SIG = 0, RING and SLOT are zero. -/
def stageFault (wf : Bool) (f : FmtE) : Option EncFault :=
  { dst := Opd.reg, sa := .pair, sb := .pair, sc := .pair, fa := true, fb := true, fc := true : UseE }.fault f false
    ((if wf then 2 ≤ f.imm8.toNat else f.imm8 != 0) || (!f.x.getLsbD 8 && f.x != 0))

/-- TAKE and GIVE (R267). -/
def takeFault (take : Bool) (dst sb : Opd) (f : FmtE) : Option EncFault :=
  ({ dst := dst, sb := sb, fb := sb == .reg : UseE }.masked f).fault f false
    (gangImm f || xBits f 0 4 || (!take && f.x.getLsbD 7) || (!f.x.getLsbD 7 && xBits f 4 3))

/-- GRED: the types each operation admits (R338). -/
def gredIllegal (op ty : Nat) : Bool :=
  if op ≤ 2 then !(ty == 0 || ty == 1 || ty == 8) else if op ≤ 5 then ty != 0 else true

/-- The register run gR to gR + m - 1 passes g127 (R263, R313). -/
def runPast (r : BitVec 7) (m : Nat) : Bool := 128 < r.toNat + m

/-- What a dual operation is (R218). -/
inductive DualKind where
  | nop | arith | logic | shift | mov | farith | icmp | fcmp
  deriving DecidableEq, Repr

/-- The dual-eligible operations (R218). -/
def dualKind (op : Nat) : Option DualKind :=
  if op = 0 then some .nop
  else if op ≤ 0x05 then some .arith
  else if op ≤ 0x09 then some .logic
  else if op ≤ 0x0C then some .shift
  else if op = 0x0D then some .mov
  else if 0x10 ≤ op ∧ op ≤ 0x14 then some .farith
  else if 0x18 ≤ op ∧ op ≤ 0x1D then some .icmp
  else if 0x20 ≤ op ∧ op ≤ 0x27 then some .fcmp
  else none

/-- The T codes that an operation admits (R218). -/
def DualKind.admits (k : DualKind) (t : Nat) : Bool :=
  match k with
  | .nop => true
  | .arith => t ≤ 3 || t == 7
  | .logic => t == 0
  | .shift => t ≤ 3 || t == 7
  | .mov => t == 0
  | .farith => 4 ≤ t && t ≤ 6
  | .icmp => t ≤ 1
  | .fcmp => t == 4

/-- The modifier that S of an operation admits (R219, R273). -/
def DualKind.mods (k : DualKind) : ModUse :=
  match k with
  | .nop => .none
  | .logic | .mov => .bits
  | .shift => .zero
  | _ => .typed

/-- Whether a half writes a register (R219). -/
def DualKind.writes (k : DualKind) : Bool :=
  match k with
  | .nop | .icmp | .fcmp => false
  | _ => true

/-- The registers a half reads (R218). -/
def Half.reads (h : Half) : List Nat :=
  match dualKind h.op.toNat with
  | none | some .nop => []
  | some .mov => [h.s.toNat]
  | some _ => [h.d.toNat, h.s.toNat]

/-- The register a half writes, if any (R219). -/
def Half.writes (h : Half) : Option Nat :=
  match dualKind h.op.toNat with
  | none => none
  | some k => if k.writes then some h.d.toNat else none

/-- ILLEGAL conditions of one half (R218). -/
def Half.illegal (h : Half) : Bool :=
  match dualKind h.op.toNat with
  | none => true
  | some k => !k.admits h.t.toNat || k.mods.illegal h.ms

/-- A NOP half has every field but its guard zero (R218). -/
def Half.reserved (h : Half) : Bool :=
  h.op == 0 && (h.d != 0 || h.s != 0 || h.ms != 0 || h.fs || h.t != 0)

/-- The pairing rules of R220. -/
def FmtD.pairing (f : FmtD) : Bool :=
  let reads := f.hi.reads ++ f.lo.reads
  let bankOk := (List.range 4).all fun k => (reads.filter fun r => r % 4 == k).length ≤ 2
  let dstOk := match f.hi.writes, f.lo.writes with
    | some a, some b => a % 4 != b % 4
    | _, _ => true
  bankOk && dstOk

/-- The encoding checks of a dual word (R218, R220, R230). -/
def FmtD.fault (f : FmtD) : Option EncFault :=
  EncFault.pick (f.hi.illegal || f.lo.illegal || !f.pairing) (f.hi.reserved || f.lo.reserved)

/-- Admission lists used below. -/
def intTypes : List Nat := [0, 1, 2, 3, 4, 5, 6, 7]
/-- The float types (R289). -/
def floatTypes : List Nat := [8, 9, 10, 11, 12]
/-- Every Q code. -/
def allQ : List Nat := [0, 1, 2, 3, 4, 5, 6, 7]

/-- The encoding checks of a word (R11, R203, R230); an event is no word and has none. (log 15) -/
def Instr.encFault : Instr → Option EncFault
  | .iadd f => ({ dst := .reg, sa := .reg, sb := .reg, ma := .typed, mb := .typed, fa := true, fb := true, ty := some intTypes : UseR }).fault f
  | .iaddI f => iFault .reg .reg none [0, 1] f
  | .isub f => ({ dst := .reg, sa := .reg, sb := .reg, ma := .typed, mb := .typed, fa := true, fb := true, ty := some intTypes : UseR }).fault f
  | .isubI f => iFault .reg .reg none [0, 1] f
  | .iaddc f => ({ dst := .reg, sa := .reg, sb := .reg, ma := .typed, mb := .typed, fa := true, fb := true, sc := .pred, q := some allQ, ty := some [1] : UseR }).fault f
  | .isubb f => ({ dst := .reg, sa := .reg, sb := .reg, ma := .typed, mb := .typed, fa := true, fb := true, sc := .pred, q := some allQ, ty := some [1] : UseR }).fault f
  | .imul f => ({ dst := .reg, sa := .reg, sb := .reg, ma := .typed, mb := .typed, fa := true, fb := true, ty := some intTypes : UseR }).fault f
  | .imulI f => iFault .reg .reg none [0, 1] f
  | .imulh f => ({ dst := .reg, sa := .reg, sb := .reg, ma := .typed, mb := .typed, fa := true, fb := true, ty := some [0, 1] : UseR }).fault f
  | .imad f => ({ dst := .reg, sa := .reg, sb := .reg, ma := .typed, mb := .typed, fa := true, fb := true, sc := .reg, fc := true, ty := some [0, 1, 2, 3] : UseR }).fault f
  | .imadw f => ({ dst := .pair, sa := .reg, sb := .reg, ma := .typed, mb := .typed, fa := true, fb := true, sc := .pair, fc := true, ty := some [0, 1] : UseR }).fault f
  | .imin f => ({ dst := .reg, sa := .reg, sb := .reg, ma := .typed, mb := .typed, fa := true, fb := true, ty := some intTypes : UseR }).fault f
  | .iminI f => iFault .reg .reg none [0, 1] f
  | .imax f => ({ dst := .reg, sa := .reg, sb := .reg, ma := .typed, mb := .typed, fa := true, fb := true, ty := some intTypes : UseR }).fault f
  | .imaxI f => iFault .reg .reg none [0, 1] f
  | .iabs f => ({ dst := .reg, sa := .reg, ma := .typed, fa := true, ty := some [0, 2, 4, 6] : UseR }).fault f
  | .ineg f => ({ dst := .reg, sa := .reg, ma := .typed, fa := true, ty := some intTypes : UseR }).fault f
  | .isat f => ({ dst := .reg, sa := .reg, sb := .reg, ma := .typed, mb := .typed, fa := true, fb := true, q := some [0, 1], ty := some intTypes : UseR }).fault f
  | .shl f => ({ dst := .reg, sa := .reg, sb := .reg, ma := .typed, mb := .zero, fa := true, fb := true, ty := some intTypes : UseR }).fault f
  | .shlI f => iFault .reg .reg none [0, 1] f
  | .shr f => ({ dst := .reg, sa := .reg, sb := .reg, ma := .typed, mb := .zero, fa := true, fb := true, ty := some intTypes : UseR }).fault f
  | .shrI f => iFault .reg .reg none [0, 1] f
  | .shra f => ({ dst := .reg, sa := .reg, sb := .reg, ma := .typed, mb := .zero, fa := true, fb := true, ty := some intTypes : UseR }).fault f
  | .shraI f => iFault .reg .reg none [0, 1] f
  | .rot f => ({ dst := .reg, sa := .reg, sb := .reg, ma := .typed, mb := .zero, fa := true, fb := true, ty := some intTypes : UseR }).fault f
  | .rotI f => iFault .reg .reg none [0, 1] f
  | .shw f => ({ dst := .reg, sa := .reg, sb := .reg, ma := .bits, mb := .bits, fa := true, fb := true, sc := .reg, fc := true, q := some [0, 1, 3] : UseR }).fault f
  | .and f => ({ dst := .reg, sa := .reg, sb := .reg, ma := .bits, mb := .bits, fa := true, fb := true, ty := some [0] : UseR }).fault f
  | .andI f => iFault .reg .reg none [0] f
  | .or f => ({ dst := .reg, sa := .reg, sb := .reg, ma := .bits, mb := .bits, fa := true, fb := true, ty := some [0] : UseR }).fault f
  | .orI f => iFault .reg .reg none [0] f
  | .xor f => ({ dst := .reg, sa := .reg, sb := .reg, ma := .bits, mb := .bits, fa := true, fb := true, ty := some [0] : UseR }).fault f
  | .xorI f => iFault .reg .reg none [0] f
  | .andn f => ({ dst := .reg, sa := .reg, sb := .reg, ma := .bits, mb := .bits, fa := true, fb := true, ty := some [0] : UseR }).fault f
  | .andnI f => iFault .reg .reg none [0] f
  | .lut3 f => ({ dst := .reg, sa := .reg, sb := .reg, ma := .bits, mb := .bits, fa := true, fb := true, sc := .reg, fc := true : UseR }).faultTable f
  | .popc f => ({ dst := .reg, sa := .reg, ma := .bits, fa := true : UseR }).fault f
  | .clz f => ({ dst := .reg, sa := .reg, ma := .bits, fa := true : UseR }).fault f
  | .brev f => ({ dst := .reg, sa := .reg, ma := .bits, fa := true : UseR }).fault f
  | .bfx f => ({ dst := .reg, sa := .reg, sb := .reg, ma := .typed, mb := .zero, fa := true, fb := true, ty := some [0, 1] : UseR }).fault f
  | .bfi f => ({ dst := .reg, sa := .reg, sb := .reg, ma := .bits, mb := .bits, fa := true, fb := true, sc := .reg, fc := true : UseR }).fault f
  | .dot4 f => ({ dst := .reg, sa := .reg, sb := .reg, ma := .typed, mb := .typed, fa := true, fb := true, sc := .reg, fc := true, ty := some [4, 5] : UseR }).faultDot f
  | .dot8 f => ({ dst := .reg, sa := .reg, sb := .reg, ma := .typed, mb := .typed, fa := true, fb := true, sc := .reg, fc := true, ty := some [6, 7] : UseR }).faultDot f
  | .icmp f => ({ dst := .pred, sa := .reg, sb := .reg, ma := .typed, mb := .typed, fa := true, fb := true, q := some [0, 1, 2, 3, 4, 5], ty := some [0, 1] : UseR }).fault f
  | .icmpI f => iFault .pred .reg (some [0, 1, 2, 3, 4, 5]) [0, 1] f
  | .sel f => ({ dst := .reg, sa := .reg, sb := .reg, ma := .bits, mb := .bits, fa := true, fb := true, sc := .pred : UseR }).fault f
  | .mov f => ({ dst := .reg, sa := .reg, ma := .bits, fa := true : UseR }).fault f
  | .movi f => EncFault.pick false (f.x != 0)
  | .movh f => EncFault.pick (f.dst.toNat % 2 != 0) (f.x != 0)
  | .lea f => ({ dst := .pair, sa := .pair, sb := .reg, ma := .zero, mb := .zero, fa := true, fb := true, q := some allQ, ty := some [0, 1] : UseR }).fault f
  | .leaI f => iFault .pair .pair (some allQ) [0, 1] f
  | .ptrmk f => ptrmkFault f
  | .ptrfld f => ({ dst := .reg, sa := .pair, ma := .zero, fa := true, q := some [0, 1, 2, 3] : UseR }).fault f
  | .plut f => ({ dst := .pred, sa := .pred, sb := .pred, sc := .pred : UseR }).faultTable f
  | .fadd f => ({ dst := .reg, sa := .reg, sb := .reg, ma := .typed, mb := .typed, fa := true, fb := true, rm := .all, ty := some floatTypes : UseR }).fault f
  | .fsub f => ({ dst := .reg, sa := .reg, sb := .reg, ma := .typed, mb := .typed, fa := true, fb := true, rm := .all, ty := some floatTypes : UseR }).fault f
  | .fmul f => ({ dst := .reg, sa := .reg, sb := .reg, ma := .typed, mb := .typed, fa := true, fb := true, rm := .all, ty := some floatTypes : UseR }).fault f
  | .ffma f => ({ dst := .reg, sa := .reg, sb := .reg, ma := .typed, mb := .typed, fa := true, fb := true, sc := .reg, fc := true, rm := .all, ty := some floatTypes : UseR }).fault f
  | .fmin f => ({ dst := .reg, sa := .reg, sb := .reg, ma := .typed, mb := .typed, fa := true, fb := true, ty := some floatTypes : UseR }).fault f
  | .fmax f => ({ dst := .reg, sa := .reg, sb := .reg, ma := .typed, mb := .typed, fa := true, fb := true, ty := some floatTypes : UseR }).fault f
  | .frcp f => ({ dst := .reg, sa := .reg, ma := .typed, fa := true, rm := .all, ty := some floatTypes : UseR }).fault f
  | .frsq f => ({ dst := .reg, sa := .reg, ma := .typed, fa := true, rm := .all, ty := some floatTypes : UseR }).fault f
  | .fsqrt f => ({ dst := .reg, sa := .reg, ma := .typed, fa := true, rm := .all, ty := some floatTypes : UseR }).fault f
  | .fexp2 f => ({ dst := .reg, sa := .reg, ma := .typed, fa := true, rm := .rn, ty := some floatTypes : UseR }).fault f
  | .flog2 f => ({ dst := .reg, sa := .reg, ma := .typed, fa := true, rm := .rn, ty := some floatTypes : UseR }).fault f
  | .fsin f => ({ dst := .reg, sa := .reg, ma := .typed, fa := true, rm := .rn, ty := some floatTypes : UseR }).fault f
  | .fcos f => ({ dst := .reg, sa := .reg, ma := .typed, fa := true, rm := .rn, ty := some floatTypes : UseR }).fault f
  | .ftanh f => ({ dst := .reg, sa := .reg, ma := .typed, fa := true, rm := .rn, ty := some floatTypes : UseR }).fault f
  | .fclass f => ({ dst := .reg, sa := .reg, ma := .typed, fa := true, ty := some floatTypes : UseR }).fault f
  | .fscale f => ({ dst := .reg, sa := .reg, sb := .reg, ma := .typed, mb := .zero, fa := true, fb := true, rm := .all, ty := some floatTypes : UseR }).fault f
  | .fcmp f => ({ dst := .pred, sa := .reg, sb := .reg, ma := .typed, mb := .typed, fa := true, fb := true, q := some allQ, ty := some [8, 11, 12] : UseR }).fault f
  | .fdot2 f => ({ dst := .reg, sa := .reg, sb := .reg, ma := .typed, mb := .typed, fa := true, fb := true, sc := .reg, fc := true, rm := .all, ty := some [9, 10] : UseR }).fault f
  | .fcvt f => fcvtFault f
  | .icvt f => cvtFault (icvtRow f.ty.toNat f.srcTy) f
  | .fcvti f => cvtFault (fcvtiRow f.ty.toNat f.srcTy) f
  | .npack f => ({ dst := .reg, sa := .reg, sb := .reg, ma := .typed, mb := .typed, fa := true, fb := true, sc := .pair, fc := true, q := some allQ, rm := .all, ty := some [0, 8, 11, 12] : UseR }).fault f
  | .nunpack f => ({ dst := .reg, sa := .reg, ma := .typed, fa := true, sc := .pair, fc := true, q := some allQ, rm := .all, ty := some [0, 8, 11, 12] : UseR }).fault f
  | .dualWord f => f.fault
  | .ld f => mFault allSizes loadOrders [0, 1, 2] f
  | .ldsx f => mFault allSizes [(0, 0)] [0] f
  | .st f => mFault storeSizes storeOrders [0, 1, 3] f
  | .ldx f => mFault allSizes loadOrders [0, 1, 2] f
  | .stx f => mFault storeSizes storeOrders [0, 1, 3] f
  | .ldc f => mFault allSizes [(0, 0)] [0] f
  | .pref f => prefFault f
  | .ldRem f => mFault allSizes [(1, 2)] [0] f
  | .amoAdd f => mFault [4, 5] amoOrders [0] f
  | .amoMin f => mFault [4, 5] amoOrders [0] f
  | .amoMax f => mFault [4, 5] amoOrders [0] f
  | .amoAnd f => mFault [4, 5] amoOrders [0] f
  | .amoOr f => mFault [4, 5] amoOrders [0] f
  | .amoXor f => mFault [4, 5] amoOrders [0] f
  | .amoExch f => mFault [4, 5] amoOrders [0] f
  | .amoFadd f => mFault [4] amoOrders [0] f
  | .fence f => fenceFault f
  | .waitc f => ({} : UseE).fault f (5 ≤ f.x.toNat % 8) (64 ≤ f.imm8.toNat || 8 ≤ f.x.toNat)
  | .waitt f => ({ sa := .pair, fa := true : UseE }).fault f (false) (f.imm8 != 0 || f.x != 0)
  | .rdgtc f => ({ dst := .pair : UseR }).fault f
  | .invl1 f => ({ dst := .none : UseR }).fault f
  | .granset f => ({ sa := .pair, sb := .reg, fa := true, fb := true : UseE }).fault f (false) (f.imm8 != 0 || f.x != 0)
  | .granclr f => ({ sa := .pair, sb := .reg, fa := true, fb := true : UseE }).fault f (false) (f.imm8 != 0 || f.x != 0)
  | .sload f => stageFault false f
  | .sstore f => stageFault true f
  | .sgather f => stageFault false f
  | .sscatter f => stageFault true f
  | .spref f => ({ sa := .pair, sc := .pair, fa := true, fc := true : UseE }).fault f (false) (f.imm8 != 0 || f.x != 0)
  | .bcopy f => ({ dst := .reg, sa := .pair, fa := true : UseE }).fault f (false) (2 ≤ f.imm8.toNat || f.x != 0)
  | .bfill f => ({ dst := .reg, sa := .pair, fa := true : UseE }).fault f (false) (2 ≤ f.imm8.toNat || f.x != 0)
  | .chsend f => ({ sa := .reg, fa := true : UseE }).fault f (runPast f.sa (f.x.toNat % 16 + 1)) (16 ≤ f.imm8.toNat || 16 ≤ f.x.toNat)
  | .chsendS f => ({ sa := .pair, fa := true : UseE }).fault f (false) (16 ≤ f.imm8.toNat || f.x.toNat % 256 != 0)
  | .chrecv f => ({ dst := .reg : UseE }).fault f (runPast f.dst (f.x.toNat % 16 + 1)) (16 ≤ f.imm8.toNat || 16 ≤ f.x.toNat)
  | .chrecvS f => ({ sa := .pair, fa := true : UseE }).fault f (false) (16 ≤ f.imm8.toNat || f.x.toNat % 256 != 0)
  | .chpoll f => ({ dst := .reg : UseE }).fault f (false) (16 ≤ f.imm8.toNat || f.x != 0)
  | .takeR f => takeFault true .none .reg f
  | .takeS f => takeFault true .reg .none f
  | .takeK f => takeFault true .reg .reg f
  | .giveR f => takeFault false .none .reg f
  | .giveS f => takeFault false .none .reg f
  | .giveK f => takeFault false .none .reg f
  | .mxclaim f => (({} : UseE).masked f).fault f (false) (gangImm f || f.x.getLsbD 7 || xBits f 0 4)
  | .mxfree f => (({} : UseE).masked f).fault f (false) (gangImm f || xBits f 0 8)
  | .mxldb f => ({ sa := .pair, fa := true : UseE }).fault f (false) (2 ≤ f.imm8.toNat || f.x != 0)
  | .mxmul f => ({ dst := if f.mk? then .reg else .none, sa := .pair, sb := .pair, sc := .pair, fa := true, fb := true, fc := true : UseE }).fault f (false) (gangImm f || xBits f 0 8)
  | .mxdrain f => ({ dst := .reg, sa := .pair, fa := true : UseE }).fault f (false) (f.imm8 != 0 || f.x != 0)
  | .mxzero f => ({ sb := .reg, fb := true : UseE }).fault f (false) (f.imm8 != 0 || f.x != 0)
  | .mxsave f => ({ dst := .reg, sa := .pair, sb := .reg, fa := true, fb := true : UseE }).fault f (false) (f.imm8 != 0 || f.x != 0)
  | .mxrest f => ({ dst := .reg, sa := .pair, sb := .reg, fa := true, fb := true : UseE }).fault f (false) (f.imm8 != 0 || f.x != 0)
  | .mxrd f => ({ dst := .reg, sb := .reg, fb := true : UseE }).fault f (runPast f.dst (f.x.toNat % 32 + 1)) (f.imm8 != 0 || 32 ≤ f.x.toNat)
  | .mxwr f => ({ sa := .reg, sb := .reg, fa := true, fb := true : UseE }).fault f (runPast f.sa (f.x.toNat % 32 + 1)) (f.imm8 != 0 || 32 ≤ f.x.toNat)
  | .txbegin f => ({ sa := .pair, sb := .reg, sc := .pair, fa := true, fb := true, fc := true : UseE }).fault f (false) (f.imm8 != 0 || f.x != 0)
  | .txend f => ({} : UseE).fault f (false) (f.imm8 != 0 || f.x != 0)
  | .txendG f => (({} : UseE).masked f).fault f (false) (gangImm f || xBits f 0 7)
  | .txabort f => ({} : UseE).fault f (false) (f.x != 0)
  | .bra f => bFault 0 f
  | .bru f => bFault 0 f
  | .brd f => bFault 1 f
  | .join f => joinFault f
  | .brx f => runFault f.hdr (({ sa := .pair, ma := .zero, fa := true : UseR }).fault f)
  | .call f => bFault 0 f
  | .ret f => runFault f.hdr (({ sa := .pair, ma := .zero, fa := true : UseR }).fault f)
  | .exit f => runFault f.hdr (({} : UseR).fault f)
  | .nop f => ({} : UseR).fault f
  | .yield f => ({} : UseR).fault f
  | .gjoin f => ({} : UseE).fault f (false) (gangImm f || f.x != 0)
  | .gleave f => ({} : UseE).fault f (false) (gangImm f || f.x != 0)
  | .gvote f => (({ dst := .reg, sa := .pred : UseE }).masked f).fault f (4 ≤ f.op.toNat) (gangImm f || f.x.getLsbD 7 || (2 ≤ f.op.toNat && f.pd != 0))
  | .gshfl f => (({ dst := .reg, sa := .reg, sb := .reg, fa := true, fb := true : UseE }).masked f).fault f (4 ≤ f.op.toNat) (gangImm f || xBits f 4 4)
  | .gred f => (({ dst := .reg, sa := .reg, fa := true : UseE }).masked f).fault f (gredIllegal f.op.toNat (f.x.toNat / 16 % 16)) (gangImm f)
  | .gelect f => (({ dst := .reg : UseE }).masked f).fault f (f.op != 0) (gangImm f || f.x.getLsbD 7)
  | .barinit f => ({ sb := .reg, fb := true : UseE }).fault f (false) (64 ≤ f.imm8.toNat || f.x != 0)
  | .bararr f => ({ dst := .reg : UseE }).fault f (false) (64 ≤ f.imm8.toNat || f.x != 0)
  | .barwait f => ({ sb := .reg, fb := true : UseE }).fault f (false) (64 ≤ f.imm8.toNat || f.x != 0)
  | .barsync f => ({} : UseE).fault f (false) (64 ≤ f.imm8.toNat || f.x != 0)
  | .bardrop f => ({} : UseE).fault f (false) (64 ≤ f.imm8.toNat || f.x != 0)
  | .ringinit f => ({} : UseE).fault f (false) (f.x != 0)
  | .rput f => ({} : UseE).fault f (false) (f.x != 0)
  | .rget f => ({} : UseE).fault f (false) (2 ≤ f.x.toNat)
  | .rfree f => ({} : UseE).fault f (false) (16 ≤ f.imm8.toNat || f.x != 0)
  | .launch f => ({ dst := .reg, sa := .pair, sb := .reg, fa := true, fb := true : UseE }).fault f (false) (f.imm8 != 0 || 2 ≤ f.x.toNat)
  | .launchPod f => ({ dst := .reg, sa := .pair, sb := .reg, fa := true, fb := true : UseE }).fault f (false) (f.imm8 != 0 || 2 ≤ f.x.toNat)
  | .fetcht f => ({ dst := .quad : UseE }).fault f (false) (f.imm8 != 0 || f.x.getLsbD 8 || f.x.getLsbD 7 || xBits f 0 4)
  | .cancel f => ({ dst := .reg, sa := .pair, sb := .pair, fa := true, fb := true : UseE }).fault f (false) (f.imm8 != 0 || f.x != 0)
  | .nodesig f => ({ dst := .reg, sa := .reg, fa := true : UseE }).fault f (false) (f.imm8 != 0 || f.x != 0)
  | .rdsr f => srFault false f
  | .wrsr f => srFault true f
  | .trap f => trapFault f
  | .bkpt f => trapFault f
  | .eret f => ({ dst := .none : UseR }).fault f
  | .halt f => ({ dst := .none : UseR }).fault f
  | .wlatch f => ({ dst := .reg, sa := .reg, sb := .reg, ma := .bits, mb := .bits, fa := true, fb := true : UseR }).fault f
  | .tlbinvPage f => ({ sa := .pair, sb := .reg, fa := true, fb := true : UseE }).fault f (false) (f.imm8 != 0 || 4 ≤ f.x.toNat)
  | .tlbinvAsid f => ({ sb := .reg, fb := true : UseE }).fault f (false) (f.imm8 != 0 || 4 ≤ f.x.toNat)
  | .tlbinvAll f => ({} : UseE).fault f (false) (f.imm8 != 0 || 4 ≤ f.x.toNat)
  | .turnGrant _ _ => none
  | .loadDataReturn _ _ => none
  | .interruptTake _ _ => none
  | .walkAhead _ _ => none
  | .tlbinvComplete _ _ => none
  | .stageTransfer _ _ => none
  | .stageRetire _ _ => none
  | .barrowStart _ _ => none
  | .barrowTransfer _ _ => none
  | .barrowRetire _ _ => none
  | .podRetireReport _ _ _ => none
  | .mxldbPerform _ => none
  | .mxmulKstep _ => none
  | .matrixOpPerform _ => none
  | .drainApply _ => none
  | .drainRetire _ => none
  | .matrixClaimRelease _ => none
  | .gangRendezvousComplete _ _ => none
  | .takeGrant _ _ => none
  | .bankClearDone _ _ => none
  | .bankReturn _ _ => none
  | .granuleAccess _ _ _ => none
  | .channelSlotFull _ _ => none
  | .channelCreditReturn _ _ => none
  | .promotionRequest _ _ => none
  | .promotionAck _ _ => none
  | .txPrepare _ _ => none
  | .txDecide _ => none
  | .txCommitWrite _ _ => none
  | .txSingleBankCommit _ => none
  | .ejectHandoverDone _ _ => none
  | .boothTurn _ => none
  | .boothReturn _ _ => none
  | .repatriate _ _ => none
  | .boothTimeLimit _ _ => none
  | .handBackDone _ _ => none
  | .waittWake _ _ => none
  | .haltWake _ _ => none
  | .accessPerformed _ _ => none
  | .fillArrival _ _ => none
  | .bypassedRead _ _ => none
  | .lineWriteBack _ => none
  | .frameRelease _ _ => none
  | .packetArbitrate _ => none
  | .negativeResponse _ _ => none
  | .firewallDrainEnd _ => none
  | .faultRecordPost _ => none
  | .faultQueueFlush _ => none
  | .launchNotifyAccept _ => none
  | .placementDecision _ => none
  | .headAgeing _ _ => none
  | .paramFetch _ _ => none
  | .chunkRequest _ _ => none
  | .launchComplete _ => none
  | .preemptRequeue _ => none
  | .cancelEffect _ => none
  | .quantExpiry _ => none
  | .contextSave _ => none
  | .fnrstEnd _ => none
  | .wlatchComplete _ => none
  | .podRecordAppend _ => none
  | .podChunkRequest _ _ => none
  | .podComplete _ => none
  | .dispenseStart _ => none
  | .functionCoreRestart _ => none
  | .functionCoreCrash _ _ _ => none
  | .rootCoreCrash _ _ => none
  | .rootCoreRestart => none
  | .migrateUnit _ => none
  | .bootRetry _ => none
  | .mcfrel _ _ _ => none
  | .pfres _ _ => none
  | .engresResume _ _ _ => none
  | .engresPoison _ _ _ => none
  | .sramUncorrectable _ _ => none
  | .boothFailure _ => none
  | .pseudoChannelFailure _ _ _ => none
  | .fwctlWrite _ _ => none
  | .registerWrite _ _ _ _ => none
  | .nodeWrite _ _ _ => none
  | .lpreQueue _ _ => none
  | .lpreAll _ => none
  | .fnrst _ => none
  | .crierDeliver _ => none
  | .podMemberReport _ _ _ => none
  | .podMemberLost _ _ => none
  | .podDispatcherSilent _ => none
  | .podCancel _ _ _ => none
  | .powerOn _ => none
  | .manifestApply _ => none
  | .partitionReset _ => none
  | .networkBoot _ _ => none
  | .resizeRemove _ _ => none
  | .resizeAdd _ _ => none
  | .keyset _ => none
  | .keyclr _ => none
  | .attest _ => none
  | .meter _ => none
  | .health _ => none
  | .hcstart _ => none
  | .winexp _ => none
  | .strkey _ => none
  | .rotWatchdog _ => none
  | .meterAppend _ _ => none
  | .unitFailure _ => none
  | .podConfiguration _ => none
  | .flitReceive _ _ => none
  | .linkKeyAgree _ _ => none
  | .podJoin _ => none
  | .timeExchange _ => none
  | .tierPortFailure _ => none
  | .spdmGetVersion => none
  | .spdmGetCapabilities => none
  | .spdmNegotiateAlgorithms => none
  | .spdmGetMeasurements _ _ => none
  | .spdmUnsupported => none
  | .mgmtReadCrashRecords => none
  | .mgmtReadHealthLog => none
  | .mgmtReadMeteringLog _ => none
  | .mgmtBootStageReport => none

/-- Rows that share an opcode are told apart by bits of X (R263, R320, R349, R361); true on every other word, false on events. -/
def Instr.form : Instr → Bool
  | .iadd _ => true
  | .iaddI _ => true
  | .isub _ => true
  | .isubI _ => true
  | .iaddc _ => true
  | .isubb _ => true
  | .imul _ => true
  | .imulI _ => true
  | .imulh _ => true
  | .imad _ => true
  | .imadw _ => true
  | .imin _ => true
  | .iminI _ => true
  | .imax _ => true
  | .imaxI _ => true
  | .iabs _ => true
  | .ineg _ => true
  | .isat _ => true
  | .shl _ => true
  | .shlI _ => true
  | .shr _ => true
  | .shrI _ => true
  | .shra _ => true
  | .shraI _ => true
  | .rot _ => true
  | .rotI _ => true
  | .shw _ => true
  | .and _ => true
  | .andI _ => true
  | .or _ => true
  | .orI _ => true
  | .xor _ => true
  | .xorI _ => true
  | .andn _ => true
  | .andnI _ => true
  | .lut3 _ => true
  | .popc _ => true
  | .clz _ => true
  | .brev _ => true
  | .bfx _ => true
  | .bfi _ => true
  | .dot4 _ => true
  | .dot8 _ => true
  | .icmp _ => true
  | .icmpI _ => true
  | .sel _ => true
  | .mov _ => true
  | .movi _ => true
  | .movh _ => true
  | .lea _ => true
  | .leaI _ => true
  | .ptrmk _ => true
  | .ptrfld _ => true
  | .plut _ => true
  | .fadd _ => true
  | .fsub _ => true
  | .fmul _ => true
  | .ffma _ => true
  | .fmin _ => true
  | .fmax _ => true
  | .frcp _ => true
  | .frsq _ => true
  | .fsqrt _ => true
  | .fexp2 _ => true
  | .flog2 _ => true
  | .fsin _ => true
  | .fcos _ => true
  | .ftanh _ => true
  | .fclass _ => true
  | .fscale _ => true
  | .fcmp _ => true
  | .fdot2 _ => true
  | .fcvt _ => true
  | .icvt _ => true
  | .fcvti _ => true
  | .npack _ => true
  | .nunpack _ => true
  | .dualWord _ => true
  | .ld _ => true
  | .ldsx _ => true
  | .st _ => true
  | .ldx _ => true
  | .stx _ => true
  | .ldc _ => true
  | .pref _ => true
  | .ldRem _ => true
  | .amoAdd _ => true
  | .amoMin _ => true
  | .amoMax _ => true
  | .amoAnd _ => true
  | .amoOr _ => true
  | .amoXor _ => true
  | .amoExch _ => true
  | .amoFadd _ => true
  | .fence _ => true
  | .waitc _ => true
  | .waitt _ => true
  | .rdgtc _ => true
  | .invl1 _ => true
  | .granset _ => true
  | .granclr _ => true
  | .sload _ => true
  | .sstore _ => true
  | .sgather _ => true
  | .sscatter _ => true
  | .spref _ => true
  | .bcopy _ => true
  | .bfill _ => true
  | .chsend f => !f.x.getLsbD 8
  | .chsendS f => f.x.getLsbD 8
  | .chrecv f => !f.x.getLsbD 8
  | .chrecvS f => f.x.getLsbD 8
  | .chpoll _ => true
  | .takeR _ => true
  | .takeS _ => true
  | .takeK _ => true
  | .giveR _ => true
  | .giveS _ => true
  | .giveK _ => true
  | .mxclaim _ => true
  | .mxfree _ => true
  | .mxldb _ => true
  | .mxmul _ => true
  | .mxdrain _ => true
  | .mxzero _ => true
  | .mxsave _ => true
  | .mxrest _ => true
  | .mxrd _ => true
  | .mxwr _ => true
  | .txbegin _ => true
  | .txend f => !f.x.getLsbD 7
  | .txendG f => f.x.getLsbD 7
  | .txabort _ => true
  | .bra _ => true
  | .bru _ => true
  | .brd _ => true
  | .join _ => true
  | .brx _ => true
  | .call _ => true
  | .ret _ => true
  | .exit _ => true
  | .nop _ => true
  | .yield _ => true
  | .gjoin _ => true
  | .gleave _ => true
  | .gvote _ => true
  | .gshfl _ => true
  | .gred _ => true
  | .gelect _ => true
  | .barinit _ => true
  | .bararr _ => true
  | .barwait _ => true
  | .barsync _ => true
  | .bardrop _ => true
  | .ringinit _ => true
  | .rput _ => true
  | .rget _ => true
  | .rfree _ => true
  | .launch f => !f.x.getLsbD 0
  | .launchPod f => f.x.getLsbD 0
  | .fetcht _ => true
  | .cancel _ => true
  | .nodesig _ => true
  | .rdsr _ => true
  | .wrsr _ => true
  | .trap _ => true
  | .bkpt _ => true
  | .eret _ => true
  | .halt _ => true
  | .wlatch _ => true
  | .tlbinvPage f => f.x.toNat % 4 == 0
  | .tlbinvAsid f => f.x.toNat % 4 == 1
  | .tlbinvAll f => f.x.toNat % 4 == 2
  | .turnGrant _ _ => false
  | .loadDataReturn _ _ => false
  | .interruptTake _ _ => false
  | .walkAhead _ _ => false
  | .tlbinvComplete _ _ => false
  | .stageTransfer _ _ => false
  | .stageRetire _ _ => false
  | .barrowStart _ _ => false
  | .barrowTransfer _ _ => false
  | .barrowRetire _ _ => false
  | .podRetireReport _ _ _ => false
  | .mxldbPerform _ => false
  | .mxmulKstep _ => false
  | .matrixOpPerform _ => false
  | .drainApply _ => false
  | .drainRetire _ => false
  | .matrixClaimRelease _ => false
  | .gangRendezvousComplete _ _ => false
  | .takeGrant _ _ => false
  | .bankClearDone _ _ => false
  | .bankReturn _ _ => false
  | .granuleAccess _ _ _ => false
  | .channelSlotFull _ _ => false
  | .channelCreditReturn _ _ => false
  | .promotionRequest _ _ => false
  | .promotionAck _ _ => false
  | .txPrepare _ _ => false
  | .txDecide _ => false
  | .txCommitWrite _ _ => false
  | .txSingleBankCommit _ => false
  | .ejectHandoverDone _ _ => false
  | .boothTurn _ => false
  | .boothReturn _ _ => false
  | .repatriate _ _ => false
  | .boothTimeLimit _ _ => false
  | .handBackDone _ _ => false
  | .waittWake _ _ => false
  | .haltWake _ _ => false
  | .accessPerformed _ _ => false
  | .fillArrival _ _ => false
  | .bypassedRead _ _ => false
  | .lineWriteBack _ => false
  | .frameRelease _ _ => false
  | .packetArbitrate _ => false
  | .negativeResponse _ _ => false
  | .firewallDrainEnd _ => false
  | .faultRecordPost _ => false
  | .faultQueueFlush _ => false
  | .launchNotifyAccept _ => false
  | .placementDecision _ => false
  | .headAgeing _ _ => false
  | .paramFetch _ _ => false
  | .chunkRequest _ _ => false
  | .launchComplete _ => false
  | .preemptRequeue _ => false
  | .cancelEffect _ => false
  | .quantExpiry _ => false
  | .contextSave _ => false
  | .fnrstEnd _ => false
  | .wlatchComplete _ => false
  | .podRecordAppend _ => false
  | .podChunkRequest _ _ => false
  | .podComplete _ => false
  | .dispenseStart _ => false
  | .functionCoreRestart _ => false
  | .functionCoreCrash _ _ _ => false
  | .rootCoreCrash _ _ => false
  | .rootCoreRestart => false
  | .migrateUnit _ => false
  | .bootRetry _ => false
  | .mcfrel _ _ _ => false
  | .pfres _ _ => false
  | .engresResume _ _ _ => false
  | .engresPoison _ _ _ => false
  | .sramUncorrectable _ _ => false
  | .boothFailure _ => false
  | .pseudoChannelFailure _ _ _ => false
  | .fwctlWrite _ _ => false
  | .registerWrite _ _ _ _ => false
  | .nodeWrite _ _ _ => false
  | .lpreQueue _ _ => false
  | .lpreAll _ => false
  | .fnrst _ => false
  | .crierDeliver _ => false
  | .podMemberReport _ _ _ => false
  | .podMemberLost _ _ => false
  | .podDispatcherSilent _ => false
  | .podCancel _ _ _ => false
  | .powerOn _ => false
  | .manifestApply _ => false
  | .partitionReset _ => false
  | .networkBoot _ _ => false
  | .resizeRemove _ _ => false
  | .resizeAdd _ _ => false
  | .keyset _ => false
  | .keyclr _ => false
  | .attest _ => false
  | .meter _ => false
  | .health _ => false
  | .hcstart _ => false
  | .winexp _ => false
  | .strkey _ => false
  | .rotWatchdog _ => false
  | .meterAppend _ _ => false
  | .unitFailure _ => false
  | .podConfiguration _ => false
  | .flitReceive _ _ => false
  | .linkKeyAgree _ _ => false
  | .podJoin _ => false
  | .timeExchange _ => false
  | .tierPortFailure _ => false
  | .spdmGetVersion => false
  | .spdmGetCapabilities => false
  | .spdmNegotiateAlgorithms => false
  | .spdmGetMeasurements _ _ => false
  | .spdmUnsupported => false
  | .mgmtReadCrashRecords => false
  | .mgmtReadHealthLog => false
  | .mgmtReadMeteringLog _ => false
  | .mgmtBootStageReport => false

end Sys2Proof
end

