-- ==== Sys2Proof/Config.lean ====
section
/-!
DEFINITION. What the spec leaves open: free values and the named cryptographic functions. Every constant here is opaque, so nothing can
be proved of its value (assumption log 1, 2).
-/
namespace Sys2Proof.Config

/-- The free values of the machine: draw number n (State.freeCount) of a value the spec leaves open (log 2). -/
opaque freeValue : Nat → BitVec 64

/-- AES-256-XTS decryption of one 128-byte unit under a key pair and a tweak (R46, R187). -/
opaque xtsDecrypt : (keys : List Byte) → (tweak : Nat) → (unit : List Byte) → List Byte

/-- The 16-byte GMAC tag of an 8 KiB chunk under a tag key (R46). -/
opaque gmacTag : (key : List Byte) → (iv : Nat) → (aad : List Byte) → List Byte

/-- The 16-byte AES-256-GCM tag of a stream packet under key, salt and invocation (R47). -/
opaque gcmTag : (key : List Byte) → (salt : BitVec 32) → (invocation : Nat) → (payload : List Byte) → List Byte

/-- AES-256-GCM encryption and decryption of a packet's payload (R47, R112). -/
opaque gcmSeal : (key : List Byte) → (salt : BitVec 32) → (invocation : Nat) → (payload : List Byte) → List Byte
opaque gcmOpen : (key : List Byte) → (salt : BitVec 32) → (invocation : Nat) → (sealed : List Byte) → List Byte

/-- The size class of R34 that the lossless encoder finds for a line: 0 is 32 bytes, 3 is 128 bytes. -/
opaque sizeClass : (line : List Byte) → BitVec 2

/-- SHA-384 (R437, R446, R458). -/
opaque sha384 : List Byte → List Byte

/-- Verification of an ECDSA brainpoolP384r1 signature: public key, message, signature (R437). -/
opaque ecdsaVerify : (pubkey message signature : List Byte) → Bool

/-- A signature by the package's device key (R458, R459, R461). -/
opaque deviceSign : List Byte → List Byte

/-- The key an ECDH agreement gives with a peer's ephemeral key (R466). -/
opaque ecdhKey : (invocation : Nat) → (peer : List Byte) → List Byte

/-- A key the root-of-trust controller draws at random (R36, R442): draw number n. -/
opaque randomKey : Nat → List Byte

/-- CRC-64 of a flit's bytes 0 to 247 (R464). -/
opaque crc64 : List Byte → BitVec 64

/-- The address DHCPv6 option 59 answers with when BOOTURI is all zero (R446). -/
opaque dhcpBootUri : List Byte

end Sys2Proof.Config
end

