-- ==== Sys2Proof/Machine/Tab.lean ====
section
/-!
DEFINITION. Sparse tables and sparse bytes: plain data that hold the entries that differ from a default.
-/
namespace Sys2Proof.Machine

/-- A sparse table: entries by rising key; a key without an entry reads a default that the reader names. -/
abbrev Tab (β : Type) := List (Nat × β)

/-- The entry of a key, if listed. -/
def Tab.find {β : Type} (t : Tab β) (k : Nat) : Option β :=
  match t with
  | [] => none
  | (j, v) :: r => if j = k then some v else Tab.find r k

/-- The value of a key, d where none is listed. -/
def Tab.get {β : Type} (t : Tab β) (k : Nat) (d : β) : β := (Tab.find t k).getD d

/-- The table without a key. -/
def Tab.erase {β : Type} (t : Tab β) (k : Nat) : Tab β := t.filter fun e => e.1 != k

/-- Inserts an entry before the first higher key. -/
def Tab.place {β : Type} (t : Tab β) (k : Nat) (v : β) : Tab β :=
  match t with
  | [] => [(k, v)]
  | (j, w) :: r => if k < j then (k, v) :: (j, w) :: r else (j, w) :: Tab.place r k v

/-- The table with a key set to a value. -/
def Tab.set {β : Type} (t : Tab β) (k : Nat) (v : β) : Tab β := Tab.place (Tab.erase t k) k v

/-- The table with the value of a key changed by f, from d where none is listed. -/
def Tab.modify {β : Type} (t : Tab β) (k : Nat) (d : β) (f : β → β) : Tab β := Tab.set t k (f (Tab.get t k d))

/-- The table of the keys 0 to n - 1. -/
def Tab.tabulate {β : Type} (n : Nat) (f : Nat → β) : Tab β := (List.range n).map fun k => (k, f k)

/-- Replaces the elements that satisfy p by their image. -/
def mapIf {β : Type} (p : β → Bool) (f : β → β) (l : List β) : List β := l.map fun x => if p x then f x else x

/-- The byte a sparse memory holds at an address; an unlisted byte is zero (R35, R41, R118). (log 12) -/
def bytesAt (m : List Host.Cell) (a : Nat) : Byte :=
  match m with
  | [] => 0
  | (j, v) :: r => if j = a then v else bytesAt r a

/-- Inserts a nonzero byte before the first higher address. -/
def cellPlace (m : List Host.Cell) (a : Nat) (v : Byte) : List Host.Cell :=
  match m with
  | [] => [(a, v)]
  | (j, w) :: r => if a < j then (a, v) :: (j, w) :: r else (j, w) :: cellPlace r a v

/-- A sparse memory with one byte written; a zero byte is not listed. (log 12) -/
def byteSet (m : List Host.Cell) (a : Nat) (v : Byte) : List Host.Cell :=
  let m' := m.filter fun c => c.1 != a
  if v = 0 then m' else cellPlace m' a v

/-- Writes a run of bytes from an address upward. -/
def bytesSet (m : List Host.Cell) (a : Nat) (bs : List Byte) : List Host.Cell :=
  match bs with
  | [] => m
  | b :: r => bytesSet (byteSet m a b) (a + 1) r

/-- Reads a run of n bytes from an address upward. -/
def bytesGet (m : List Host.Cell) (a n : Nat) : List Byte := (List.range n).map fun i => bytesAt m (a + i)

/-- Every byte from address a to a + n - 1 is dropped, so that it reads zero. -/
def bytesClear (m : List Host.Cell) (a n : Nat) : List Host.Cell := m.filter fun c => c.1 < a || a + n ≤ c.1

/-- The canonical form of a sparse memory: addresses strictly rise and no listed byte is zero. (log 12) -/
def Memory.wf (m : List Host.Cell) : Bool :=
  match m with
  | [] => true
  | (_, v) :: [] => v != 0
  | (a, v) :: (b, w) :: r => v != 0 && decide (a < b) && Memory.wf ((b, w) :: r)

/-- The number that little-endian bytes write (R5). -/
def leNat (bs : List Byte) : Nat :=
  match bs with
  | [] => 0
  | b :: r => b.toNat + 256 * leNat r

/-- The n little-endian bytes of a number (R5). -/
def leBytes (n v : Nat) : List Byte :=
  match n with
  | 0 => []
  | k + 1 => BitVec.ofNat 8 v :: leBytes k (v / 256)

/-- Bits [hi:lo] of x (R10). -/
def bits (x hi lo : Nat) : Nat := x / 2 ^ lo % 2 ^ (hi + 1 - lo)

/-- SignExtend(x, n) of R10. -/
def sext (x n : Nat) : Int := let v := x % 2 ^ n; if 2 * v < 2 ^ n then v else (v : Int) - 2 ^ n

/-- Clamp(x, lo, hi) of R10. -/
def clampInt (x lo hi : Int) : Int := if x < lo then lo else if hi < x then hi else x

/-- x mod 2^n as an n-bit pattern, for any integer (R10, Wrap). -/
def wrapNat (x : Int) (n : Nat) : Nat := (x % (2 ^ n : Int)).toNat

/-- A clk interval in ticks: ceil(clk / 3.6) (R7). (log 54) -/
def clkTicks (clk : Nat) : Nat := (clk * 10 + 35) / 36

/-- Numbers that a list of lanes of a mask holds, ascending. -/
def maskLanes (m : BitVec 32) : List Nat := (List.range 32).filter fun l => m.getLsbD l

/-- The mask of the lanes that satisfy p. -/
def laneMask (p : Nat → Bool) : BitVec 32 :=
  BitVec.ofNat 32 ((List.range 32).foldl (fun a l => if p l then a + 2 ^ l else a) 0)

/-- Bit l of x set to v. -/
def setBit {w : Nat} (x : BitVec w) (l : Nat) (v : Bool) : BitVec w :=
  if v then x ||| (BitVec.ofNat w (2 ^ l)) else x &&& ~~~(BitVec.ofNat w (2 ^ l))

end Sys2Proof.Machine
end

