-- ==== Sys2Proof/Machine/Formats.lean ====
section
/-!
DEFINITION. Number formats and exact arithmetic: decoding, rounding and encoding of every format (R162 to R171), and the real functions of R295.
-/
namespace Sys2Proof.Machine

/-- A binary float format (R162): exponent width, mantissa width, bias. -/
structure FloatFmt where
  eb   : Nat
  mb   : Nat
  bias : Int
  deriving DecidableEq, Repr

/-- FP32 (R162). -/
def fp32 : FloatFmt := { eb := 8, mb := 23, bias := 127 }
/-- FP16 (R162). -/
def fp16 : FloatFmt := { eb := 5, mb := 10, bias := 15 }
/-- BF16 (R162). -/
def bf16 : FloatFmt := { eb := 8, mb := 7, bias := 127 }

/-- An exact value: NaN, an infinity, or plus or minus m times 2^e (a zero keeps its sign). -/
inductive FVal where
  | nan
  | inf (neg : Bool)
  | fin (neg : Bool) (m : Nat) (e : Int)
  deriving DecidableEq, Repr

/-- The four rounding modes of RM (R205). -/
inductive Rounding where
  | rn | rz | rp | rm
  deriving DecidableEq, Repr

/-- RM codes (R205). -/
def Rounding.ofCode (c : BitVec 2) : Rounding :=
  match c.toNat with
  | 0 => .rn
  | 1 => .rz
  | 2 => .rp
  | _ => .rm

/-- Whether the magnitude q + r / 2^s with 0 < r < 2^s is rounded up to q + 1 (R163); a tie goes up where the code of q is odd. -/
def roundsUp (mode : Rounding) (neg odd : Bool) (r s : Nat) : Bool :=
  match mode with
  | .rn => 2 ^ s < 2 * r || (2 * r == 2 ^ s && odd)
  | .rz => false
  | .rp => !neg
  | .rm => neg

/-- m * 2^e in units of 2^q, rounded (R163); odd says which results have an odd code. -/
def roundAt (mode : Rounding) (neg : Bool) (m : Nat) (e q : Int) (odd : Nat → Bool := fun u => u % 2 == 1) : Nat :=
  if q ≤ e then m * 2 ^ (e - q).toNat
  else
    let s := (q - e).toNat
    let u := m / 2 ^ s
    let r := m % 2 ^ s
    if r != 0 && roundsUp mode neg (odd u) r s then u + 1 else u

/-- m * 2^e rounded to p + 1 significant bits on a grid no finer than 2^low: significand and exponent (R163). With no mantissa bit the lowest bit of a code is its exponent's (R170). -/
def roundGrid (mode : Rounding) (neg : Bool) (p : Nat) (low : Int) (m : Nat) (e : Int) : Nat × Int :=
  let q := max ((Nat.log2 m : Int) + e - p) low
  let u := roundAt mode neg m e q fun u => if p = 0 then u != 0 && (q - low + 1) % 2 == 1 else u % 2 == 1
  if 2 ^ (p + 1) ≤ u then (u / 2, q + 1) else (u, q)

/-- The code of plus or minus infinity. -/
def FloatFmt.infCode (f : FloatFmt) (neg : Bool) : Nat := (if neg then 2 ^ (f.eb + f.mb) else 0) + (2 ^ f.eb - 1) * 2 ^ f.mb
/-- The code of the largest finite value. -/
def FloatFmt.maxCode (f : FloatFmt) (neg : Bool) : Nat := f.infCode neg - 1
/-- The canonical NaN (R162, R164). -/
def FloatFmt.nanCode (f : FloatFmt) : Nat := (2 ^ f.eb - 1) * 2 ^ f.mb + 2 ^ (f.mb - 1)

/-- The value of a code (R162). -/
def FloatFmt.decode (f : FloatFmt) (c : Nat) : FVal :=
  let neg := c / 2 ^ (f.eb + f.mb) % 2 == 1
  let e := c / 2 ^ f.mb % 2 ^ f.eb
  let m := c % 2 ^ f.mb
  if e = 2 ^ f.eb - 1 then (if m = 0 then .inf neg else .nan)
  else if e = 0 then .fin neg m (1 - f.bias - f.mb)
  else .fin neg (2 ^ f.mb + m) ((e : Int) - f.bias - f.mb)

/-- The overflow table of R163: whether the result is infinity. -/
def overflowsToInf (mode : Rounding) (neg : Bool) : Bool :=
  match mode with
  | .rn => true
  | .rz => false
  | .rp => !neg
  | .rm => neg

/-- Round of R163 as a code; NaN gives the canonical NaN and an infinity the infinity of its sign (R164, R165). -/
def FloatFmt.round (f : FloatFmt) (mode : Rounding) (v : FVal) : Nat :=
  match v with
  | .nan => f.nanCode
  | .inf neg => f.infCode neg
  | .fin neg m e =>
    let s := if neg then 2 ^ (f.eb + f.mb) else 0
    if m = 0 then s
    else
      let (u, q) := roundGrid mode neg f.mb (1 - f.bias - f.mb) m e
      let field : Int := if u < 2 ^ f.mb then 0 else q + f.mb + f.bias
      if (2 ^ f.eb - 1 : Int) ≤ field then (if overflowsToInf mode neg then f.infCode neg else f.maxCode neg)
      else s + field.toNat * 2 ^ f.mb + u % 2 ^ f.mb

/-- The value with its sign reversed. -/
def FVal.neg (v : FVal) : FVal :=
  match v with
  | .nan => .nan
  | .inf n => .inf (!n)
  | .fin n m e => .fin (!n) m e

/-- The exact product (R172, R289). -/
def FVal.mul (a b : FVal) : FVal :=
  match a, b with
  | .nan, _ => .nan
  | _, .nan => .nan
  | .inf n, .inf k => .inf (n != k)
  | .inf n, .fin k m _ => if m = 0 then .nan else .inf (n != k)
  | .fin n m _, .inf k => if m = 0 then .nan else .inf (n != k)
  | .fin n m e, .fin k l d => .fin (n != k) (m * l) (e + d)

/-- The sign of an infinite value. -/
def FVal.infSign (v : FVal) : Option Bool :=
  match v with
  | .inf n => some n
  | _ => none

/-- A finite value times 2^(-q), for q no larger than its exponent. -/
def FVal.scaled (v : FVal) (q : Int) : Int :=
  match v with
  | .fin n m e => let x : Int := (m : Int) * 2 ^ (e - q).toNat; if n then -x else x
  | _ => 0

/-- The exponent of a finite value, d of any other. -/
def FVal.exp (v : FVal) (d : Int) : Int :=
  match v with
  | .fin _ _ e => e
  | _ => d

/-- Whether a term is minus zero. -/
def FVal.isNegZero (v : FVal) : Bool :=
  match v with
  | .fin true 0 _ => true
  | _ => false

/-- The exact sum of terms; zeroNeg says the sign of an exact zero (R163, R173, R292). -/
def FVal.sum (zeroNeg : Bool) (ts : List FVal) : FVal :=
  if ts.contains .nan then .nan
  else
    let infs := ts.filterMap FVal.infSign
    match infs with
    | n :: _ => if infs.contains (!n) then .nan else .inf n
    | [] =>
      let q := ts.foldl (fun a t => min a (t.exp a)) (ts.foldl (fun a t => max a (t.exp a)) 0)
      let s : Int := ts.foldl (fun a t => a + t.scaled q) 0
      if s = 0 then .fin zeroNeg 0 0 else .fin (decide (s < 0)) s.natAbs q

/-- The sign of an exact zero sum: minus under .rm, or when every term is minus zero (R163, R292). -/
def zeroSign (mode : Rounding) (ts : List FVal) : Bool := mode == .rm || ts.all FVal.isNegZero

/-- Round of an exact sum (R289, R292). -/
def FloatFmt.sum (f : FloatFmt) (mode : Rounding) (ts : List FVal) : Nat := f.round mode (FVal.sum (zeroSign mode ts) ts)

/-- Order of two codes with minus zero below plus zero, for codes that are no NaN (R290). -/
def FloatFmt.key (f : FloatFmt) (c : Nat) : Int :=
  let mag : Nat := c % 2 ^ (f.eb + f.mb)
  if c / 2 ^ (f.eb + f.mb) % 2 == 1 then -(mag : Int) - 1 else mag

/-- Whether a code is a NaN. -/
def FloatFmt.isNan (f : FloatFmt) (c : Nat) : Bool := f.decode c == .nan

/-- FMIN and FMAX (R290). -/
def FloatFmt.pick (f : FloatFmt) (greater : Bool) (a b : Nat) : Nat :=
  if f.isNan a then (if f.isNan b then f.nanCode else b)
  else if f.isNan b then a
  else if (if greater then f.key b ≤ f.key a else f.key a ≤ f.key b) then a else b

/-- Comparison of two ordered codes, minus zero equal to plus zero: less, equal, greater as -1, 0, 1 (R293). -/
def FloatFmt.cmp (f : FloatFmt) (a b : Nat) : Int :=
  let mag (c : Nat) : Int := let v : Int := ((c % 2 ^ (f.eb + f.mb) : Nat) : Int); if c / 2 ^ (f.eb + f.mb) % 2 == 1 then -v else v
  if mag a < mag b then -1 else if mag a = mag b then 0 else 1

/-- The class mask of a code (R294). -/
def FloatFmt.classMask (f : FloatFmt) (c : Nat) : Nat :=
  let neg := c / 2 ^ (f.eb + f.mb) % 2 == 1
  let e := c / 2 ^ f.mb % 2 ^ f.eb
  let m := c % 2 ^ f.mb
  if e = 2 ^ f.eb - 1 then
    (if m = 0 then (if neg then 2 ^ 0 else 2 ^ 7) else if m / 2 ^ (f.mb - 1) = 0 then 2 ^ 8 else 2 ^ 9)
  else if e = 0 then (if m = 0 then (if neg then 2 ^ 3 else 2 ^ 4) else if neg then 2 ^ 2 else 2 ^ 5)
  else if neg then 2 ^ 1 else 2 ^ 6

/-- Multiplication by 2^n (R291). An n beyond 2,000 in magnitude acts as 2,000: every format overflows or vanishes before it. -/
def FVal.scale (v : FVal) (n : Int) : FVal :=
  match v with
  | .fin s m e => if m = 0 then v else .fin s m (e + clampInt n (-2000) 2000)
  | _ => v

/-- A magnitude known to lie strictly between m and m + 1 units of 2^e when inexact, as an exact value that rounds alike. -/
def stickyVal (neg : Bool) (m : Nat) (e : Int) (inexact : Bool) : FVal := .fin neg (2 * m + (if inexact then 1 else 0)) (e - 1)

/-- The integer square root, bit by bit from bit k - 1. -/
def isqrt (k n r : Nat) : Nat :=
  match k with
  | 0 => r
  | j + 1 => isqrt j n (if (r + 2 ^ j) * (r + 2 ^ j) ≤ n then r + 2 ^ j else r)

/-- 1/a for a finite nonzero (R295). -/
def recip (neg : Bool) (m : Nat) (e : Int) : FVal :=
  let k := Nat.log2 m + 64
  stickyVal neg (2 ^ k / m) (-e - k) (2 ^ k % m != 0)

/-- The square root of m * 2^e (R295). -/
def sqrtVal (m : Nat) (e : Int) : FVal :=
  let s : Nat := if (e % 2 == 0) then 128 else 129
  let n := m * 2 ^ s
  let r := isqrt 100 n 0
  stickyVal false r ((e - s) / 2) (r * r != n)

/-- 1/sqrt(m * 2^e) (R295). -/
def rsqrtVal (m : Nat) (e : Int) : FVal :=
  let k0 := Nat.log2 m + 128
  let k : Nat := if ((e + k0) % 2 == 0) then k0 else k0 + 1
  let n := 2 ^ k / m
  let r := isqrt 100 n 0
  stickyVal false r ((-e - k) / 2) (r * r != n || 2 ^ k % m != 0)

/-- pi in units of 2^-512. -/
def piFix : Nat := 0x3243f6a8885a308d313198a2e03707344a4093822299f31d0082efa98ec4e6c89452821e638d01377be5466cf34e90c6cc0ac29b7c97c50dd3f84d5b5b5470917
/-- The natural logarithm of 2 in units of 2^-320. -/
def ln2Fix : Nat := 0xb17217f7d1cf79abc9e3b39803f2f6af40f343267298b62d8a0d175b8baafa2be7b876206debac98
/-- Fraction bits of the fixed-point sums below. -/
def fixBits : Nat := 320

/-- The sum of t^n / n! from term n on, with k terms left; values in units of 2^-320. -/
def expSeries (k n : Nat) (t term : Nat) : Nat :=
  match k with
  | 0 => 0
  | j + 1 => term + expSeries j (n + 1) t (term * t / 2 ^ fixBits / (n + 1))

/-- 2^f for 0 <= f < 1, both in units of 2^-320. -/
def exp2Frac (f : Nat) : Nat := expSeries 80 0 (f * ln2Fix / 2 ^ fixBits) (2 ^ fixBits)

/-- The alternating series of sine (n = 1) or cosine (n = 0) of r in units of 2^-320: even and odd signs by k. -/
def trigSeries (k n : Nat) (r2 : Nat) (term : Nat) (plus : Bool) : Int :=
  match k with
  | 0 => 0
  | j + 1 => (if plus then (term : Int) else -(term : Int)) + trigSeries j (n + 2) r2 (term * r2 / 2 ^ fixBits / ((n + 1) * (n + 2))) (!plus)

/-- sin r for 0 <= r < pi/2. -/
def sinFix (r : Nat) : Nat := (trigSeries 50 1 (r * r / 2 ^ fixBits) r true).toNat
/-- cos r for 0 <= r < pi/2. -/
def cosFix (r : Nat) : Nat := (trigSeries 50 0 (r * r / 2 ^ fixBits) (2 ^ fixBits) true).toNat

/-- The odd powers of the inverse hyperbolic tangent of z. -/
def atanhSeries (k n : Nat) (z2 : Nat) (term : Nat) : Nat :=
  match k with
  | 0 => 0
  | j + 1 => term / n + atanhSeries j (n + 2) z2 (term * z2 / 2 ^ fixBits)

/-- log2 x for 1 <= x < 2 in units of 2^-320. -/
def log2Fix (x : Nat) : Nat :=
  let z := (x - 2 ^ fixBits) * 2 ^ fixBits / (x + 2 ^ fixBits)
  2 * atanhSeries 105 1 (z * z / 2 ^ fixBits) z * 2 ^ fixBits / ln2Fix

/-- m * 2^e in units of 2^-320, rounded down. -/
def toFix (m : Nat) (e : Int) : Nat := if 0 ≤ e + fixBits then m * 2 ^ (e + fixBits).toNat else m / 2 ^ (-(e + fixBits)).toNat

/-- A value a little below m * 2^e, or a little above it, that rounds to nearest as the exact one does. -/
def nudge (neg : Bool) (m : Nat) (e : Int) (up : Bool) : FVal :=
  .fin neg (if up then m * 2 ^ 64 + 1 else m * 2 ^ 64 - 1) (e - 64)

/-- 2^a for a finite a (R295); an integer a gives the exact power. -/
def exp2Val (neg : Bool) (m : Nat) (e : Int) : FVal :=
  if m = 0 then .fin false 1 0
  else if 10 < (Nat.log2 m : Int) + e then .fin false 1 (if neg then -2000 else 2000)
  else if 0 ≤ e then .fin false 1 (let n : Int := (m * 2 ^ e.toNat : Nat); if neg then -n else n)
  else
    let d := (-e).toNat
    let whole := m / 2 ^ d
    let frac := m % 2 ^ d
    if frac = 0 then .fin false 1 (if neg then -(whole : Int) else whole)
    else
      let f := toFix frac e
      let (n, g) := if neg then (-(whole : Int) - 1, 2 ^ fixBits - f) else ((whole : Int), f)
      stickyVal false (exp2Frac g) (n - fixBits) true

/-- log2 a for a finite a above zero (R295); log2 1 is plus zero. -/
def log2Val (m : Nat) (e : Int) : FVal :=
  let l := Nat.log2 m
  let n : Int := (l : Int) + e
  if m = 2 ^ l then .fin (decide (n < 0)) n.natAbs 0
  else
    let v : Int := n * 2 ^ fixBits + (log2Fix (m * 2 ^ (fixBits - l)) : Nat)
    stickyVal (decide (v < 0)) v.natAbs (-(fixBits : Int)) true

/-- The quadrant (0 to 3) and the rest in units of 2^-320 of a positive angle, reduced by pi/2. -/
def reduceAngle (m : Nat) (e : Int) : Nat × Nat :=
  let x := if 0 ≤ e + 513 then m * 2 ^ (e + 513).toNat else m / 2 ^ (-(e + 513)).toNat
  let half := piFix -- pi / 2 in units of 2^-513
  (x / half % 4, (x % half) / 2 ^ (513 - fixBits))

/-- sin a for a finite nonzero a (R295). -/
def sinVal (neg : Bool) (m : Nat) (e : Int) : FVal :=
  if (Nat.log2 m : Int) + e < -40 then nudge neg m e false
  else
    let (k, r) := reduceAngle m e
    let v := if k % 2 == 0 then sinFix r else cosFix r
    stickyVal (neg != decide (2 ≤ k)) v (-(fixBits : Int)) true

/-- cos a for a finite nonzero a (R295). -/
def cosVal (m : Nat) (e : Int) : FVal :=
  if (Nat.log2 m : Int) + e < -40 then nudge false 1 0 false
  else
    let (k, r) := reduceAngle m e
    let v := if k % 2 == 0 then cosFix r else sinFix r
    stickyVal (k == 1 || k == 2) v (-(fixBits : Int)) true

/-- tanh a for a finite nonzero a (R295). -/
def tanhVal (neg : Bool) (m : Nat) (e : Int) : FVal :=
  let l : Int := (Nat.log2 m : Int) + e
  if l < -40 then nudge neg m e false
  else if 6 ≤ l then nudge neg 1 0 false
  else
    let t := toFix m (e + 1) * 2 ^ fixBits / ln2Fix
    let whole := t / 2 ^ fixBits
    let p := exp2Frac (t % 2 ^ fixBits) * 2 ^ whole
    stickyVal neg ((p - 2 ^ fixBits) * 2 ^ fixBits / (p + 2 ^ fixBits)) (-(fixBits : Int)) true

/-- The functions of R295. -/
inductive RealFn where
  | rcp | rsq | sqrt | exp2 | log2 | sin | cos | tanh
  deriving DecidableEq, Repr

/-- f(a) with the special operands of R296. -/
def RealFn.apply (fn : RealFn) (v : FVal) : FVal :=
  match fn, v with
  | _, .nan => .nan
  | .rcp, .inf n => .fin n 0 0
  | .rcp, .fin n m e => if m = 0 then .inf n else recip n m e
  | .rsq, .inf n => if n then .nan else .fin false 0 0
  | .rsq, .fin n m e => if m = 0 then .inf n else if n then .nan else rsqrtVal m e
  | .sqrt, .inf n => if n then .nan else .inf false
  | .sqrt, .fin n m e => if m = 0 then .fin n 0 0 else if n then .nan else sqrtVal m e
  | .exp2, .inf n => if n then .fin false 0 0 else .inf false
  | .exp2, .fin n m e => exp2Val n m e
  | .log2, .inf n => if n then .nan else .inf false
  | .log2, .fin n m e => if m = 0 then .inf true else if n then .nan else log2Val m e
  | .sin, .inf _ => .nan
  | .sin, .fin n m e => if m = 0 then .fin n 0 0 else sinVal n m e
  | .cos, .inf _ => .nan
  | .cos, .fin _ m e => if m = 0 then .fin false 1 0 else cosVal m e
  | .tanh, .inf n => .fin n 1 0
  | .tanh, .fin n m e => if m = 0 then .fin n 0 0 else tanhVal n m e

/-- A finite value or an infinity rounded to an integer under a mode and clamped; NaN gives 0 (R165). -/
def FVal.toInt (mode : Rounding) (lo hi : Int) (v : FVal) : Int :=
  match v with
  | .nan => 0
  | .inf n => if n then lo else hi
  | .fin n m e => let u : Int := (roundAt mode n m e 0 : Nat); clampInt (if n then -u else u) lo hi

/-- The exact value of an integer. -/
def FVal.ofInt (i : Int) : FVal := .fin (decide (i < 0)) i.natAbs 0

/-- A descriptor of a format word (R166). -/
structure Descr where
  pr   : Bool
  nt   : Bool
  mode : Nat
  scf  : Nat
  blk  : Nat
  bias : Nat
  m    : Nat
  e    : Nat
  s    : Nat
  cls  : Nat
  low  : Nat
  raw  : Nat
  deriving DecidableEq, Repr

/-- The fields of a 32-bit descriptor (R166). -/
def Descr.ofNat (d : Nat) : Descr :=
  { pr := bits d 31 31 == 1, nt := bits d 30 30 == 1, mode := bits d 29 28, scf := bits d 27 26, blk := bits d 25 24, bias := bits d 23 16,
    m := bits d 15 12, e := bits d 11 9, s := bits d 8 8, cls := bits d 7 4, low := bits d 3 0, raw := d % 2 ^ 32 }

/-- Width of a custom narrow code (R168). -/
def Descr.width (d : Descr) : Nat := d.s + d.e + d.m

/-- The failed checks of R167 of a descriptor that is needed; target when the instruction writes into the format, till when CLS 3 is admitted. -/
def Descr.bad (d : Descr) (target till : Bool) : Bool :=
  !d.pr || d.low != 0 || 4 ≤ d.cls
    || (d.cls == 0 && (d.width == 0 || 8 < d.width || 8 < d.m))
    || (d.cls == 0 && d.e == 0 && (d.bias != 0 || d.mode == 1 || d.mode == 2))
    || (d.cls == 0 && d.mode == 1 && d.m == 0)
    || d.scf == 3 || (d.scf == 0 && d.blk != 0)
    || (d.cls != 0 && bits d.raw 29 8 != 0)
    || (d.cls == 3 && !till)
    || (target && d.cls == 0 && d.mode == 0 && d.e != 0)

/-- Decode(c, D) of R169 for a custom narrow code. -/
def Descr.decode (d : Descr) (c : Nat) : FVal :=
  if d.e = 0 then .ofInt (if d.s = 1 then sext c (d.m + 1) else (c % 2 ^ d.m : Nat))
  else
    let neg := d.s == 1 && c / 2 ^ (d.e + d.m) % 2 == 1
    let e := c / 2 ^ d.m % 2 ^ d.e
    let f := c % 2 ^ d.m
    if d.mode = 1 ∧ e = 2 ^ d.e - 1 then (if f = 0 then .inf neg else .nan)
    else if d.mode = 2 ∧ e = 2 ^ d.e - 1 ∧ f = 2 ^ d.m - 1 then .nan
    else if e = 0 then .fin neg f (1 - (d.bias : Int) - d.m)
    else .fin neg (2 ^ d.m + f) ((e : Int) - d.bias - d.m)

/-- The code of MaxFin(D) without sign (R169). -/
def Descr.maxFin (d : Descr) : Nat :=
  let top := 2 ^ (d.e + d.m) - 1
  if d.mode = 1 then top - 2 ^ d.m else if d.mode = 2 then top - 1 else top

/-- Encode(x, D, mode) of R170 for a custom narrow format. -/
def Descr.encode (d : Descr) (mode : Rounding) (x : FVal) : Nat :=
  if d.e = 0 then
    let lo : Int := if d.s = 1 then -(2 ^ d.m) else 0
    let hi : Int := 2 ^ d.m - 1
    match x with
    | .nan => 0
    | .inf n => if d.mode = 3 then wrapNat (if n then lo else hi) d.width else 0
    | .fin n m e =>
      let u : Int := (roundAt mode n m e 0 : Nat)
      let v := if n then -u else u
      wrapNat (if d.mode = 3 then clampInt v lo hi else v) d.width
  else
    let sign (n : Bool) : Nat := if n then 2 ^ (d.e + d.m) else 0
    match x with
    | .nan => if d.mode = 1 then (2 ^ d.e - 1) * 2 ^ d.m + 2 ^ (d.m - 1) else if d.mode = 2 then 2 ^ (d.e + d.m) - 1 else 0
    | .inf n => if n && d.s == 0 then 0 else sign n + (if d.mode = 1 then (2 ^ d.e - 1) * 2 ^ d.m else d.maxFin)
    | .fin n m e =>
      if n && d.s == 0 then 0
      else if m = 0 then sign n
      else
        let (u, q) := roundGrid mode n d.m (1 - (d.bias : Int) - d.m) m e
        let field : Int := if u < 2 ^ d.m then 0 else q + d.m + d.bias
        let code := field.toNat * 2 ^ d.m + u % 2 ^ d.m
        if d.maxFin < code then
          sign n + (if d.mode = 1 && overflowsToInf mode n then (2 ^ d.e - 1) * 2 ^ d.m else d.maxFin)
        else sign n + code

/-- The value of an element under any class of a descriptor: custom narrow, BF16, FP16, FP32 (R166, R169). -/
def Descr.value (d : Descr) (c : Nat) : FVal :=
  match d.cls with
  | 0 => d.decode c
  | 1 => bf16.decode c
  | 2 => fp16.decode c
  | _ => fp32.decode c

/-- Bits of an element's container (R168): nibble, byte, 16 or 32. -/
def Descr.bitsPer (d : Descr) : Nat :=
  match d.cls with
  | 0 => if d.width ≤ 4 then 4 else 8
  | 1 => 16
  | 2 => 16
  | _ => 32

/-- The code an element of a class stores for an exact value (R165, R170). -/
def Descr.store (d : Descr) (mode : Rounding) (x : FVal) : Nat :=
  match d.cls with
  | 0 => d.encode mode x
  | 1 => bf16.round mode x
  | 2 => fp16.round mode x
  | _ => fp32.round mode x

/-- The value of a scale byte (R171). -/
def scaleValue (scf z : Nat) : FVal :=
  match scf with
  | 0 => .fin false 1 0
  | 1 => if z = 255 then .nan else .fin false 1 ((z : Int) - 127)
  | _ =>
    if 128 ≤ z ∨ z % 128 = 127 then .nan
    else
      let e := z / 8
      let f := z % 8
      if e = 0 then .fin false f (-9) else .fin false (8 + f) ((e : Int) - 10)

/-- Elements of a scale block along K (R166). -/
def Descr.block (d : Descr) : Nat := 16 * 2 ^ d.blk

end Sys2Proof.Machine
end

