-- ==== Sys2Proof/Machine/Operands.lean ====
section
/-!
DEFINITION. Operand forms: element types (R206, R272), operand modifiers (R214), effective addresses (R208, R243) and sizes (R238).
-/
namespace Sys2Proof.Machine

/-- Element width of a type code (R206). -/
def tyWidth (ty : Nat) : Nat :=
  match ty with
  | 0 | 1 | 8 => 32
  | 2 | 3 | 9 | 10 | 11 | 12 => 16
  | 4 | 5 => 8
  | _ => 4

/-- Whether an integer type reads its elements as signed (R272). -/
def tySigned (ty : Nat) : Bool := ty % 2 == 0

/-- Whether a type code is a float type (R206). -/
def tyFloat (ty : Nat) : Bool := decide (8 ≤ ty)

/-- The float format of a type code (R162). -/
def tyFmt (ty : Nat) : FloatFmt :=
  match ty with
  | 8 => fp32
  | 9 | 11 => bf16
  | _ => fp16

/-- Elements of a float type: two for the packed types (R162). -/
def tyCount (ty : Nat) : Nat := if ty = 9 ∨ ty = 10 then 2 else 1

/-- Element i of width w of a register value (R206). -/
def elem (v : Word) (w i : Nat) : Nat := v.toNat / 2 ^ (w * i) % 2 ^ w

/-- The elements of a register value, element 0 first. -/
def elems (v : Word) (w : Nat) : List Nat := (List.range (32 / w)).map (elem v w)

/-- The register value of elements of width w, element 0 first. -/
def joinElems (w : Nat) (es : List Nat) : Nat :=
  match es with
  | [] => 0
  | e :: r => e % 2 ^ w + 2 ^ w * joinElems w r

/-- An element as the integer its type reads (R272). -/
def elemInt (ty x : Nat) : Int := if tySigned ty then sext x (tyWidth ty) else ((x % 2 ^ tyWidth ty : Nat) : Int)

/-- The .neg, .abs and .nabs modifiers of one element (R214): sign bit for floats, two's complement for integers. -/
def signModify (code ty x : Nat) : Nat :=
  let w := tyWidth ty
  if tyFloat ty then
    match code with
    | 12 => (x + 2 ^ (w - 1)) % 2 ^ w
    | 13 => x % 2 ^ (w - 1)
    | _ => x % 2 ^ (w - 1) + 2 ^ (w - 1)
  else
    match code with
    | 12 => wrapNat (-(x : Int)) w
    | 13 => wrapNat (sext x w).natAbs w
    | _ => wrapNat (-((sext x w).natAbs : Int)) w

/-- A source value after its modifier (R214); ty is the type that the sign modifiers act on. A scalar 16-bit float type has its one element in the low half. -/
def modify (code : BitVec 4) (ty : Nat) (v : Word) : Word :=
  let x := v.toNat
  match code.toNat with
  | 0 => v
  | 1 => BitVec.ofNat 32 (x % 65536 * 65537)
  | 2 => BitVec.ofNat 32 (x / 65536 * 65537)
  | 3 => BitVec.ofNat 32 (x % 65536 * 65536 + x / 65536)
  | 4 => BitVec.ofNat 32 (elem v 8 0 * 0x01010101)
  | 5 => BitVec.ofNat 32 (elem v 8 1 * 0x01010101)
  | 6 => BitVec.ofNat 32 (elem v 8 2 * 0x01010101)
  | 7 => BitVec.ofNat 32 (elem v 8 3 * 0x01010101)
  | 8 => BitVec.ofNat 32 (joinElems 8 [elem v 8 3, elem v 8 2, elem v 8 1, elem v 8 0])
  | 9 => BitVec.ofNat 32 (joinElems 8 [elem v 8 1, elem v 8 0, elem v 8 3, elem v 8 2])
  | 10 => BitVec.ofNat 32 (elem v 4 0 * 0x11111111)
  | 11 => BitVec.ofNat 32 (joinElems 4 (elems v 4).reverse)
  | 15 => v
  | c =>
    if ty = 11 ∨ ty = 12 then BitVec.ofNat 32 (signModify c ty (x % 65536) + x / 65536 * 65536)
    else BitVec.ofNat 32 (joinElems (tyWidth ty) ((elems v (tyWidth ty)).map (signModify c ty)))

/-- The modifiers act on 32-bit integers where an instruction has no type (R215); codes 1100 to 1110 do not occur there. -/
def modBits (code : BitVec 4) (v : Word) : Word := modify code 0 v

/-- imm24 sign-extended to 32 bits (R210). -/
def immWord (imm : BitVec 24) : Word := imm.signExtend 32

/-- A register pair as one 64-bit value (R5). -/
def pairVal (lo hi : Word) : DWord := hi ++ lo
/-- The low word of a pair value. -/
def pairLo (v : DWord) : Word := v.setWidth 32
/-- The high word of a pair value. -/
def pairHi (v : DWord) : Word := (v >>> 32).setWidth 32

/-- Bytes of an access of a SIZE code (R208). -/
def sizeBytes (size : BitVec 3) : Nat :=
  match size.toNat with
  | 0 | 1 => 1
  | 2 | 3 => 2
  | 4 | 5 => 4
  | 6 => 8
  | _ => 16

/-- Registers that the data operand of a SIZE code occupies (R208). -/
def sizeRegs (size : Nat) : Nat := if size = 6 then 2 else if size = 7 then 4 else 1

/-- A loaded value extended to its register words (R238). -/
def extendLoad (size v : Nat) : List Word :=
  match size with
  | 1 => [BitVec.ofInt 32 (sext v 8)]
  | 3 => [BitVec.ofInt 32 (sext v 16)]
  | 6 => [BitVec.ofNat 32 v, BitVec.ofNat 32 (v / 2 ^ 32)]
  | 7 => (List.range 4).map fun i => BitVec.ofNat 32 (v / 2 ^ (32 * i))
  | _ => [BitVec.ofNat 32 v]

/-- The value of the words of a data operand, first word lowest (R5, R238). -/
def wordsVal (ws : List Word) : Nat :=
  match ws with
  | [] => 0
  | w :: r => w.toNat + 2 ^ 32 * wordsVal r

/-- The effective address (R208, R243): base plus index times scale plus offset, modulo 2^64. -/
def effAddr (base : DWord) (index : Option Word) (scale : Nat) (off : BitVec 17) : DWord :=
  base + (match index with
    | none => 0
    | some w => w.signExtend 64 * BitVec.ofNat 64 scale) + off.signExtend 64

/-- SPACE of a pointer (R55). -/
def ptrSpace (p : Nat) : Nat := bits p 63 61
/-- RANK of a pointer (R55). -/
def ptrRank (p : Nat) : Nat := bits p 60 52
/-- OFFSET of a pointer (R55). -/
def ptrOff (p : Nat) : Nat := bits p 51 0

end Sys2Proof.Machine
end

