-- ==== Sys2Proof/Machine/Flags.lean ====
section
/-!
DEFINITION. Predicates: carries, conditions and truth tables (R207, R212, R277, R284, R286, R293).
-/
namespace Sys2Proof.Machine

/-- Reading a predicate: p7 is true (R200, R286). -/
def predGet (ps : BitVec 7) (p : Nat) : Bool := if p = 7 then true else ps.getLsbD p

/-- Writing a predicate: p7 takes no write (R202). -/
def predSet (ps : BitVec 7) (p : Nat) (v : Bool) : BitVec 7 := if p = 7 then ps else setBit ps p v

/-- The guard of a full word: P, complemented when N is set (R212). -/
def guardVal (h : Hdr) (ps : BitVec 7) : Bool := predGet ps h.p.toNat != h.n

/-- The guard of a half: always, p0, p1 or p2 (R217). -/
def halfGuard (g : BitVec 2) (ps : BitVec 7) : Bool := if g = 0 then true else predGet ps (g.toNat - 1)

/-- A condition of R207 on an ordering: -1 less, 0 equal, 1 greater. -/
def condHolds (q : Nat) (o : Int) : Bool :=
  match q with
  | 0 => o == 0
  | 1 => o != 0
  | 2 => o == -1
  | 3 => o != 1
  | 4 => o == 1
  | 5 => o != -1
  | 6 => true
  | _ => false

/-- The order of two integers. -/
def orderInt (a b : Int) : Int := if a < b then -1 else if a = b then 0 else 1

/-- ICMP (R284): signed for .i32, unsigned for .n32. -/
def icmpHolds (q ty : Nat) (a b : Word) : Bool := condHolds q (orderInt (elemInt ty a.toNat) (elemInt ty b.toNat))

/-- FCMP (R293): with a NaN operand only .ne and .nan hold. -/
def fcmpHolds (q : Nat) (f : FloatFmt) (a b : Nat) : Bool :=
  if f.isNan a || f.isNan b then q == 1 || q == 7 else condHolds q (f.cmp a b)

/-- IADDC (R277): the sum's low 32 bits and the carry. -/
def addCarry (a b : Word) (k : Bool) : Word × Bool :=
  let s := a.toNat + b.toNat + (if k then 1 else 0)
  (BitVec.ofNat 32 s, decide (2 ^ 32 ≤ s))

/-- ISUBB (R277): the difference's low 32 bits and the borrow. -/
def subBorrow (a b : Word) (k : Bool) : Word × Bool :=
  let s : Int := (a.toNat : Int) - b.toNat - (if k then 1 else 0)
  (BitVec.ofNat 32 (wrapNat s 32), decide (s < 0))

/-- The carry-in of IADDC and ISUBB: 7 selects 0 (R277). -/
def carryIn (ps : BitVec 7) (p : Nat) : Bool := if p = 7 then false else predGet ps p

/-- A truth table of three inputs (R281, R286). -/
def tableBit (t : BitVec 8) (a b c : Bool) : Bool := t.getLsbD ((if a then 4 else 0) + (if b then 2 else 0) + (if c then 1 else 0))

end Sys2Proof.Machine
end

