-- ==== Sys2Proof/Machine/State.lean ====
section
/-!
DEFINITION. The state of the whole package as plain data, the stop reasons, and the state at power-on.
-/
namespace Sys2Proof.Machine

/-- Why the machine stops. -/
inductive Fault where
  /-- The global time counter would pass 2^64 - 1; raised by every step that lets time pass. The spec says it never wraps (R22): safe, the machine stops where the part's life has ended. -/
  | gtcWrap
  /-- A line's write counter would pass 2^56 - 1; raised by LINE_WRITE_BACK. The spec says no counter wraps within the life of the product (R37): safe. -/
  | lineCounterWrap
  deriving DecidableEq, Repr

/-- Why an instruction has no meaning here. -/
inductive Refusal where
  /-- An instruction that the model does not give a meaning; raised by its arm in exec: safe, nothing is claimed of it. No arm of this model raises it. -/
  | notModelled (mnemonic : String)
  deriving DecidableEq, Repr

/-- Privilege levels (R353, R420). -/
inductive Priv where
  | u | k | h | f
  deriving DecidableEq, Repr

/-- A trap as a word raises it: cause and detail code, the lane it names, the address and the detail words (R426). -/
structure Trap where
  cause : Nat
  dcode : Nat := 0
  lane  : Nat := 0
  addr  : Nat := 0
  det   : List (BitVec 32) := []
  /-- A deferred trap: source number, PC and stamp of its record (R177). -/
  origin : Option (Nat × Nat × Nat) := none
  deriving DecidableEq, Repr

/-- One entry of a batch (R74). -/
structure BatchEntry where
  idx   : Nat
  lvl   : Nat
  va    : Nat
  lane  : Nat
  xf    : Bool := false
  wr    : Bool := false
  rd    : Bool := false
  /-- Detail code of the failure, for the header when the entry is the first (R62, R73). -/
  dcode : Nat := 0x0B
  deriving DecidableEq, Repr

/-- What a blocked word or a held lane waits for (R139, R140). -/
inductive Wait where
  /-- Registers of lanes of the stripe that are empty: pairs of lane and register (R153). -/
  | regs (l : List (Nat × Nat))
  /-- A full counter of class S, M, D, B or X: 0 to 4 (R115). -/
  | counter (cls : Nat)
  /-- WAITC: the classes of the mask are each at most n (R255). -/
  | counters (mask n : Nat)
  /-- WAITT: the GTC reaches a value (R256). -/
  | time (t : Nat)
  /-- A bank that is being cleared, of a unit (R118). -/
  | bank (unit bank : Nat)
  /-- Granules at bank ports: qualified accesses of the stripe's word that are not performed (R123). -/
  | granule
  /-- The bank port of a run of bytes: an access that came before can go first (R124): unit, offset, size. -/
  | port (unit off n : Nat)
  /-- A credit of a channel's send end (R128). -/
  | credit (chan : Nat)
  /-- A full head slot of a channel's receive end (R128). -/
  | slot (chan : Nat)
  /-- A barrier phase that has not completed: arcade barrier or team barrier, phase (R342). -/
  | barrier (arcade : Bool) (b : Nat) (ph : BitVec 32)
  /-- A ring slot phase (R160). -/
  | ring (q sl : Nat) (e : Bool)
  /-- An arrival at a gang rendezvous that holds its thread, or a rendezvous that must close first (R146, R149). -/
  | gang (g : Nat)
  /-- A TAKE in the queue of its kind (R155), or a GIVE that waits (R156 to R158). -/
  | take (kind : Nat)
  /-- An acquiring access of the lanes must have its value (R370). -/
  | acquire (lanes : BitVec 32)
  /-- A release or fence: earlier accesses of the lanes must be performed, at .core or beyond it; source reads of their engine operations, and their pod transfers, where a fence adds them (R253, R371). -/
  | order (lanes : BitVec 32) (far engines pod : Bool)
  /-- A word that another commit holds reserved (R323): bank, first byte and size. -/
  | reserved (bank pa n : Nat)
  /-- Commits of lanes of the stripe that have not ended (R320). -/
  | commit
  /-- Granules of a run of a scratchpad that a command reads must be full (R183): unit, offset, size. -/
  | full (unit off n : Nat)
  /-- The bank of a local address has a way and a register for its line (R82, R84, R85): slice and address. -/
  | line (slice loc : Nat)
  /-- A free place in a queue of the core: the engine queue, the drain queue, a stripe's stage queue, the barrow queue (R95, R107, R182). -/
  | queue (which : Nat)
  /-- An answer of another unit: 0 a promotion, 1 a launch status, 2 a tile index, 3 an invalidation, 4 a latch sequence (R244, R349, R350, R359, R361). -/
  | answer (what : Nat)
  deriving DecidableEq, Repr

/-- What a thread does now (R139). -/
inductive Status where
  | absent
  | ready
  | exited
  /-- Its place on a booth: unit and slot (R385). -/
  | ejected (unit slot : Nat)
  /-- Arrived at the join-stack entry on top of the stripe's stack that holds it (R333). -/
  | joined
  /-- Not ready until the wait is over (R139). -/
  | waiting (w : Wait)
  /-- Stopped by HALT until an interrupt is pending (R358). -/
  | halted
  deriving DecidableEq, Repr

/-- An entry of a transaction's log as the 16 bytes write it (R317), with the physical address and the key its commit uses (R322). -/
structure TxEntry where
  idx   : Nat := 0
  va    : Nat
  wval  : BitVec 32
  rval  : BitVec 32
  wmask : BitVec 4
  rd    : Bool
  pa    : Nat := 0
  key   : Nat := 0
  compress : Bool := false
  deriving DecidableEq, Repr

/-- The checkpoint of TXBEGIN (R316): g0 to g31, predicates and PC state. -/
structure Checkpoint where
  g     : List Word
  preds : BitVec 7
  pc    : VAddr := 0
  deriving DecidableEq, Repr

/-- Transaction state of a thread (R315 to R328). -/
structure Tx where
  depth   : Nat := 0
  /-- Scratchpad offset of the log region on the home core, its capacity and the entries in it (R316, R317). -/
  log     : Nat := 0
  cap     : Nat := 0
  count   : Nat := 0
  target  : VAddr := 0
  check   : Checkpoint := { g := [], preds := 0 }
  deriving DecidableEq, Repr

/-- A deferred trap of the matrix engine that the thread takes at its next WAITC M or matrix command (R177, R184). -/
structure Deferred where
  cause : Nat
  dcode : Nat
  src   : Nat
  pc    : Nat
  addr  : Nat
  stamp : Nat
  det   : List (BitVec 32)
  deriving DecidableEq, Repr

/-- A thread: its registers and its control state. (log 8) -/
structure Thread where
  status : Status := .absent
  /-- g0 to g127 (R150). -/
  g      : Tab Word := []
  /-- Bit r set while gr is empty (R152). -/
  empty  : BitVec 128 := 0
  /-- p0 to p6. -/
  preds  : BitVec 7 := 0
  pc     : VAddr := 0
  /-- Mapped extended blocks (R150). -/
  blocks : BitVec 12 := 0
  /-- Gang membership (R136). -/
  gangs  : BitVec 32 := 0
  /-- Words executed since the last B = 1 (R138). -/
  run    : Nat := 0
  /-- The lane is in a word that waits part-way: lanes that reach the word later begin it apart. -/
  begun  : Bool := false
  /-- Overflow count of serial mode (R381). -/
  lov    : Nat := 0
  priv   : Priv := .u
  /-- Fields of sr.xcause (R420). -/
  ie     : Bool := false
  pPriv  : Priv := .u
  dcode  : BitVec 8 := 0
  cause  : BitVec 8 := 0
  xpc    : VAddr := 0
  txcause : BitVec 32 := 0
  tx     : Tx := {}
  deferred : Option Deferred := none
  /-- Host-core threads: sr.world, sr.ctx and sr.ptb of the thread (R355). -/
  world  : BitVec 6 := 0
  ctx    : BitVec 16 := 0
  ptb    : BitVec 64 := 0
  /-- An acquire at .part or .pod has been made: loads are served at their homes (R121). -/
  acquired : Bool := false
  /-- The lane has done its part of a word that waits part-way (R258, R264). -/
  done   : Bool := false
  deriving DecidableEq, Repr

/-- An entry of a join stack (R332). -/
structure JoinEntry where
  pc   : VAddr
  mask : LaneMask
  /-- Lanes that have arrived (R333). -/
  arrived : LaneMask := 0
  deriving DecidableEq, Repr

/-- A stripe: its threads and what they share. -/
structure Stripe where
  lanes   : Tab Thread := []
  /-- 0 V, 1 C, 2 M (R143). -/
  role    : BitVec 2 := 0
  /-- Counters S, M, D, B, X (R115). -/
  counters : Tab Nat := []
  join    : List JoinEntry := []
  serial  : Bool := false
  /-- XIN, and the lanes of the trapping group that have not returned (R422). -/
  xin     : Bool := false
  xgroup  : LaneMask := 0
  /-- Lanes of the trapping group that are back and wait for XIN to clear (R422). -/
  xback   : LaneMask := 0
  /-- SEQ of the last batch posted plus one, and whether the stripe is parked (R73, R75). -/
  seq     : Nat := 0
  parked  : Bool := false
  /-- Wait of a blocked word that holds the whole stripe (R140). -/
  wait    : Option Wait := none
  deriving DecidableEq, Repr

/-- The turn of a quadrant (R139): the stripe and the lanes of the two issue groups still issuing. -/
structure Turn where
  stripe : Nat
  a      : LaneMask
  b      : LaneMask
  /-- clk of the turn that the words of each group have taken so far (R139, R274). -/
  ca     : Nat := 0
  cb     : Nat := 0
  /-- The turn ends once the other group has completed its word of this clk (R140). -/
  ending : Bool := false
  deriving DecidableEq, Repr

/-- A quadrant: the open turn and the stripe granted last (R141). The spec gives the rotation no start: it starts as if stripe 15 had held the last turn, and afresh at each placement (DESIGN CHOICE, log 14). -/
structure Quad where
  turn : Option Turn := none
  last : Nat := 15
  deriving DecidableEq, Repr

/-- A translation held by a TLB (R66): page number at the leaf's level, the level, the address space and the leaf. -/
structure TlbEntry where
  vpn   : Nat
  level : Nat
  asid  : Nat
  leaf  : BitVec 64
  deriving DecidableEq, Repr

/-- A table entry that a walker keeps (R66): the level it was read at, its address space, the address bits above its page, and the table it names. -/
structure WalkEntry where
  level : Nat
  asid  : Nat
  vpn   : Nat
  next  : Nat
  deriving DecidableEq, Repr

/-- A line of the core cache (R120): physical line, key id, the data and the poison of its granules. -/
structure CoreLine where
  pa     : Nat
  key    : Nat
  bytes  : List Byte
  poison : BitVec 8
  /-- The C-mode bank that is its way. -/
  way    : Nat := 0
  deriving DecidableEq, Repr

/-- The kind of an access of a core's outgoing queue. -/
inductive AccKind where
  | load | store | amo (op : Nat) | pref
  deriving DecidableEq, Repr

/-- An access that has left a core and is not complete (R83, R371). -/
structure Access where
  id     : Nat
  kind   : AccKind
  /-- The issuing thread: stripe and lane of its home core. -/
  stripe : Nat
  lane   : Nat
  /-- The booth core that runs the thread, if it is ejected (R375). -/
  booth  : Option Nat := none
  pc     : Nat := 0
  pa     : Nat
  va     : Nat
  key    : Nat
  size   : Nat
  /-- Bytes a store writes, or an AMO's operand. -/
  data   : Nat := 0
  /-- SIZE code, for the extension of a load (R208). -/
  code   : Nat := 4
  /-- First destination register, none when nothing is written. -/
  dst    : Option Nat := none
  /-- The line is installed in the core cache when the load is performed (R121). -/
  install : Bool := false
  /-- The copy goes to the constant cache (R246). -/
  const  : Bool := false
  /-- LDSX: p6 is written with success (R245). -/
  spec   : Bool := false
  /-- Success of an LDSX lane. -/
  good   : Bool := true
  /-- Acquire scope: 0 none, 1 core, 2 arcade, 3 partition or pod (R121, R374). -/
  acq    : Nat := 0
  /-- LD.rem: the value is held until the acknowledgement (R244). -/
  held   : Bool := false
  /-- A .core or .arc release of the thread stands after it (R244). -/
  released : Bool := false
  compress : Bool := false
  /-- The world of the access, whether the world test passes anyway, and the sealed bit of its leaf: what the home slice tests (R39). -/
  world  : BitVec 6 := 0
  pass   : Bool := false
  isSealed : Bool := false
  /-- The privilege of the access as PPRIV shows it (R426). -/
  ppriv  : Nat := 0
  /-- The value that a read accepted before its granules were poisoned returns. (log 23) -/
  sound  : Option Nat := none
  /-- The packet has reached its bank (R87). -/
  arrived : Bool := false
  /-- Refused by a firewall, and the slice of that firewall (R90). -/
  refused : Bool := false
  deniedBy : Nat := 0
  /-- Held by a miss register or as a bypassed read of its bank (R84, R85). -/
  missed : Bool := false
  /-- Performed; a load then holds its value and poison (R83). -/
  performed : Bool := false
  value  : Nat := 0
  poisoned : Bool := false
  /-- The response has reached the core (R80, R86). -/
  back   : Bool := false
  deriving DecidableEq, Repr

/-- A team on a core (R142). -/
structure Team where
  launch  : Nat
  stripes : Nat
  /-- log2 of the cohort size and the position in the cohort (R136). -/
  csz     : Nat := 0
  pos     : Nat := 0
  /-- Units of the other members of the cohort by position. -/
  members : List Nat := []
  /-- Tiles of the launch record, and tiles taken beside them (R130, R158). -/
  tiles   : Nat := 0
  taken   : List Nat := []
  /-- Size of the team pool in units, those in use (R151), and PSIZE. -/
  pool    : Nat := 0
  used    : Nat := 0
  psize   : Nat := 0
  saveIdx : Nat := 63
  swappable : Bool := false
  placed  : Nat := 0
  /-- Index dispensed last, as coordinates (R460). -/
  last    : List Nat := []
  func    : Nat := 0
  queue   : Nat := 0
  chans   : Bool := false
  /-- Status 1 or 2 of its last FETCHT (R350), and whether its next gets status 2 (R411). -/
  fetchEnd : Nat := 0
  yield   : Bool := false
  /-- A save is in progress, and what it is for: (0, launch) a head, (1, context) a saved context, none a reservation (R432). -/
  saving  : Bool := false
  saveFor : Option (Nat × Nat) := none
  /-- XB, the blocks mapped at placement (R151). -/
  xb      : Nat := 0
  /-- A save has written its area before: the header keeps the bits of its tiles (R434, R435). -/
  savedOnce : Bool := false
  deriving DecidableEq, Repr

/-- A stage operation (R95 to R106): 0 SLOAD, 1 SSTORE, 2 SGATHER, 3 SSCATTER, 4 SPREF. -/
structure StageOp where
  tag    : Nat
  op     : Nat
  stripe : Nat
  lane   : Nat
  pc     : Nat
  priv   : Priv
  world  : BitVec 6
  ctx    : Nat
  ptb    : BitVec 64
  /-- The tensor record as it was read at acceptance, the two origins of the command, the scratchpad offset, and the index list. -/
  record : List Byte
  org0   : Int
  org1   : Int
  spad   : Nat
  index  : Nat := 0
  items  : Nat := 0
  ring   : Option (Nat × Nat) := none
  /-- The wait-full option (R103). -/
  wf     : Bool := false
  /-- Units moved, units that the walk-ahead has translated, and the unit of a fault whose record is posted (R77). -/
  next   : Nat := 0
  walked : Nat := 0
  fault  : Option Nat := none
  /-- What a load has read of the granule that a fault cuts, and its poison (R105). -/
  got    : List Byte := []
  gotBad : Bool := false
  poisonRest : Bool := false
  complete : Bool := false
  released : Bool := false
  /-- The issuing team has exited (R106). -/
  orphan : Bool := false
  deriving DecidableEq, Repr

/-- A slot of the stationary operand (R187). -/
structure Slot where
  valid : Bool := false
  ecls  : Nat := 0
  kcnt  : Nat := 0
  scl   : Nat := 0
  blk   : Nat := 0
  bytes : List Byte := []
  scales : List Byte := []
  deriving DecidableEq, Repr

/-- An operation in the engine queue or the drain queue of a matrix engine (R182): 0 MXLDB, 1 MXMUL, 2 MXZERO, 3 MXSAVE, 4 MXREST, 5 MXRD, 6 MXWR, 7 MXDRAIN; 8 is the clearing of the slots after a release (R181), which no thread counts. -/
structure MatOp where
  tag    : Nat
  op     : Nat
  stripe : Nat
  /-- The lanes of the word, and the thread that a stop or a record names. -/
  lanes  : LaneMask
  lane   : Nat
  pc     : Nat
  priv   : Priv
  world  : BitVec 6
  ctx    : Nat
  ptb    : BitVec 64
  /-- The pointer of the parameter block, descriptor, drain block or area. -/
  ptr    : Nat := 0
  /-- The block as it was read at acceptance. -/
  block  : List Byte := []
  /-- The format word of a product. -/
  fmt    : BitVec 64 := 0
  /-- Tile, row and count words, valid rows and columns, slot. -/
  args   : List Nat := []
  /-- Register values that MXWR supplies, by lane and then by register. -/
  data   : List (List Word) := []
  /-- Lanes of an MXRD whose g0 to g31 are no longer written, because their transaction has aborted (R325). -/
  masked : LaneMask := 0
  /-- Row sums over the k-steps done (R193). -/
  sums   : List Int := []
  /-- Steps or units done, and the element offset of a fault whose record is posted. -/
  next   : Nat := 0
  fault  : Option Nat := none
  poisonRest : Bool := false
  complete : Bool := false
  released : Bool := false
  orphan : Bool := false
  deriving DecidableEq, Repr

/-- A matrix engine (R179 to R199). -/
structure Matrix where
  claim   : Option Nat := none
  queue   : List MatOp := []
  drain   : List MatOp := []
  slots   : Tab Slot := []
  tag     : Nat := 0
  /-- The thread whose stop is not yet delivered: what is accepted meanwhile is discarded (R176, R184). -/
  stop    : Option (Nat × Nat) := none
  deriving DecidableEq, Repr

/-- An arrival of a thread at a rendezvous, with its operands (R146). -/
structure Arrival where
  stripe : Nat
  lane   : Nat
  a      : Nat
  b      : Nat
  dst    : Nat
  pd     : Nat
  deriving DecidableEq, Repr

/-- An open rendezvous of a gang (R146, R148): its operation word as key, its participants and arrivals. -/
structure Rendezvous where
  word     : Nat
  mask     : LaneMask
  parts    : List (Nat × Nat)
  arrivals : List Arrival
  deriving DecidableEq, Repr

/-- A TAKE or GIVE whose rendezvous is complete and that waits for its resources (R155). -/
structure Taking where
  kind   : Nat
  give   : Bool
  arg    : Nat
  count  : Nat
  parts  : List Arrival
  deriving DecidableEq, Repr

/-- A team or arcade barrier (R339). -/
structure Barrier where
  ph   : BitVec 32 := 0
  exp  : Nat := 0
  arr  : Nat := 0
  drop : Nat := 0
  /-- Threads that have arrived in this phase: unit, stripe, lane. -/
  who  : List (Nat × Nat × Nat) := []
  deriving DecidableEq, Repr

/-- A stage ring (R159). -/
structure Ring where
  ns : Nat := 0
  ph : BitVec 16 := 0
  deriving DecidableEq, Repr

/-- A message in flight to a receive slot (R128): the stripe that sent it. -/
structure Message where
  stripe : Nat
  slot   : Nat
  bytes  : List Byte
  deriving DecidableEq, Repr

/-- One declared channel of a team (R126 to R129). -/
structure Channel where
  delta   : Int
  ssz     : Nat
  nsl     : Nat
  bank    : Nat
  off     : Nat
  credits : Nat
  si      : Nat := 0
  hi      : Nat := 0
  /-- Units of the receive end of the send side and of the sender of the receive side. -/
  toUnit   : Nat
  fromUnit : Nat
  /-- Messages on their way to this receive end. -/
  flight  : List Message := []
  /-- Credits on their way back to this send end. -/
  returns : Nat := 0
  peerGone : Bool := false
  senderGone : Bool := false
  deriving DecidableEq, Repr

/-- An LD.rem of a stripe in progress (R244): the home core of its accesses, their ids, and the target core when it is another. -/
structure Promotion where
  stripe : Nat
  /-- The lanes of the word. -/
  lanes  : LaneMask := 0
  home   : Nat
  ids    : List Nat
  target : Option Nat
  sent   : Bool := false
  /-- Ids of the target's accesses, and its engine operations by class and tag, that must be performed first. -/
  before : List Nat := []
  ops    : List (Nat × Nat) := []
  acked  : Bool := false
  deriving DecidableEq, Repr

/-- A qualified access of a lane at a bank port (R123, R124): the issuing unit and stripe, the target core and offset; performed, a load holds its value. -/
structure GranWait where
  unit   : Nat
  stripe : Nat
  lane   : Nat
  group  : LaneMask
  target : Nat
  off    : Nat
  size   : Nat
  /-- F that the access waits for, none for .fs; F that it leaves. -/
  needs  : Option Bool
  leaves : Bool
  /-- Bytes of a store. -/
  data   : Option Nat
  code   : Nat
  dst    : Nat
  ptr    : Nat
  acq    : Nat := 0
  value  : Option Nat := none
  deriving DecidableEq, Repr

/-- An invalidation in progress (R69, R361): kind, page and address space, accesses that must be performed. -/
structure Invalidation where
  stripe : Nat
  lanes  : LaneMask
  kind   : Nat
  items  : List (Nat × Nat)
  before : List (Nat × Nat)
  /-- Commits, and threads whose LAUNCH waits, with addresses that were translated before (R69). -/
  txs    : List Nat := []
  notes  : List (Nat × Nat × Nat) := []
  deriving DecidableEq, Repr

/-- A commit in progress of one thread's log (R322): its thread, the commit units of its entries with their answers (none yet; some none is YES, some e the lowest entry that failed, cap + 1 for a reservation), and the decision. -/
structure Commit where
  id      : Nat
  unit    : Nat
  stripe  : Nat
  lane    : Nat
  /-- Entries of each involved bank. -/
  entries : List (Nat × List TxEntry)
  answers : Tab (Option Nat) := []
  /-- Decision: commit or abort; banks that have acted on it. -/
  decided : Option Bool := none
  acted   : List Nat := []
  entry   : Nat := 0
  stamp   : Nat := 0
  /-- Entries of the log. -/
  count   : Nat
  deriving DecidableEq, Repr

/-- What a booth thread remembers of its home (R386). -/
structure Guest where
  home     : Nat
  stripe   : Nat
  lane     : Nat
  joinPc   : VAddr
  start    : Option Nat := none
  /-- The hand-over is complete (R385). -/
  arrived  : Bool := false
  /-- GTC at which the hand-over or the hand-back has taken its 40 clk, whether the hand-back has begun, and whether an open transaction goes home with the thread (R385, R387, R328). -/
  due      : Nat := 0
  back     : Bool := false
  keepTx   : Bool := false
  /-- Repatriation: the pc at which the thread resumes is known once it stops (R388). -/
  marked   : Bool := false
  returning : Bool := false
  timeout  : Bool := false
  /-- A trap or the missing pages of a word inside a transaction, taken at home after the abort, and the address of that word (R389). -/
  trap     : Option Trap := none
  pages    : List BatchEntry := []
  trapPc   : Nat := 0
  deriving DecidableEq, Repr

/-- A barrow operation (R107 to R114). -/
structure BarrowOp where
  tag    : Nat
  fill   : Bool
  unit   : Nat
  stripe : Nat
  lane   : Nat
  pc     : Nat
  priv   : Priv
  world  : BitVec 6
  ctx    : Nat
  ptb    : BitVec 64
  block  : List Byte
  ring   : Option (Nat × Nat) := none
  /-- Place in the issue order of the slice's barrow commands (R113). -/
  issue  : Nat := 0
  started : Bool := false
  /-- Bytes moved, and the byte offset of a fault whose record is posted. -/
  next   : Nat := 0
  fault  : Option Nat := none
  poisonRest : Bool := false
  complete : Bool := false
  /-- A packet of a peer source is asked for and has not come (R112). -/
  asked  : Bool := false
  /-- A pod destination is reported retired (R113). -/
  reported : Bool := false
  released : Bool := false
  orphan : Bool := false
  deriving DecidableEq, Repr

/-- A core of any kind: SIMT, booth, host, function or root (R25). (log 8) -/
structure Core where
  stripes : Tab Stripe := []
  quads   : Tab Quad := []
  failed  : Bool := false
  /-- World latch (R355), and a latch sequence in progress to a world (R359, R360). -/
  world   : BitVec 6 := 0
  latching : Option (BitVec 6) := none
  /-- The thread slot of a firmware core whose WLATCH runs, and the GTC at which the sequence has taken its time (R359, R360). -/
  latchBy : Option (Nat × Nat) := none
  latchAt : Nat := 0
  team    : Option Team := none
  /-- The head or saved context that a save has freed the core for (R432). -/
  freedFor : Option (Nat × Nat) := none
  ctx     : BitVec 16 := 0
  ptb     : BitVec 64 := 0
  kown    : BitVec 32 := 0
  kdirty  : Tab Bool := []
  bmode   : BitVec 64 := 0
  /-- Banks whose clearing is in progress, and banks that wait to return to C mode (R118, R119). -/
  clearing : List Nat := []
  /-- GTC at which a clearing has taken its 512 clk (R118). -/
  clearAt  : Tab Nat := []
  leaving : List Nat := []
  /-- sr.cbase and sr.xrec; on a host core the K copies, and the H copies (R420). -/
  cbase   : BitVec 64 := 0
  xrec    : BitVec 64 := 0
  cbaseH  : BitVec 64 := 0
  xrecH   : BitVec 64 := 0
  ejt     : BitVec 32 := 4
  ejto    : BitVec 32 := 20000
  /-- Scratchpad bytes by offset, F bits of granules by number where listed, P bits (R116, R122). -/
  sram    : List Host.Cell := []
  fbits   : Tab Bool := []
  pbits   : Tab Bool := []
  /-- Till words by 1,024 tile + 32 row + column (R130). -/
  till    : Tab Word := []
  lines   : List CoreLine := []
  consts  : List CoreLine := []
  /-- The second-level TLB of a SIMT core, the one TLB of another core (R66). -/
  tlb     : List TlbEntry := []
  /-- The first-level TLBs by quadrant, the walk-ahead TLB, and the walker's cache of table entries (R66, R67). -/
  quadTlb : Tab (List TlbEntry) := []
  walkAhead : List TlbEntry := []
  walkCache : List WalkEntry := []
  outq    : List Access := []
  params  : List Byte := []
  stage   : List StageOp := []
  stageTag : Nat := 0
  /-- The stripe whose operation the stage engine has served last (R95). -/
  stageLast : Nat := 15
  /-- Checked stage operations of a blocked word that wait for a counter or a place (R115, R258). -/
  stageWait : List StageOp := []
  barrowWait : List BarrowOp := []
  matrix  : Matrix := {}
  barriers : Tab Barrier := []
  rings   : Tab Ring := []
  gangs   : Tab Rendezvous := []
  takes   : List Taking := []
  chans   : Tab Channel := []
  promos  : List Promotion := []
  invals  : List Invalidation := []
  /-- Booth cores: the guests by thread slot, and the world the booth serves (R384, R386). -/
  guests  : Tab Guest := []
  /-- Threads of this core whose fault records or answers are awaited are found by their waits. -/
  nextId  : Nat := 0
  deriving DecidableEq, Repr

/-- What an uncorrectable error of a line is (R30, R51): ECC, MAC, or the loss of its pseudo-channel. -/
inductive LineErr where
  | ecc | mac | channel (chan : Nat)
  deriving DecidableEq, Repr

/-- A line's metadata in the side table (R34 to R36). (log 5) -/
structure LineMeta where
  counter : Nat := 0
  cls     : BitVec 2 := 0
  clear   : Bool := true
  /-- GTC of the last write-back (R37). -/
  wrote   : Option Nat := none
  deriving DecidableEq, Repr

/-- A frame's entries: its owner and its marks (R30, R40, R52, R53). -/
structure Frame where
  owner : Option Nat := none
  withdrawn : Bool := false
  /-- Integrity-lost: stamp of the loss and level of the node. -/
  lost  : Option (Nat × Nat) := none
  /-- Quarantined since the stamp of the loss. -/
  quarantined : Option Nat := none
  /-- Released since its node was lost (R53). -/
  released : Bool := false
  /-- The pseudo-channels whose loss has poisoned one of its lines and is recorded (R54). -/
  chanNoted : List Nat := []
  deriving DecidableEq, Repr

/-- A key slot of a memory controller (R38, R43). -/
structure KeySlot where
  valid  : Bool := false
  weight : Bool := false
  world  : BitVec 6 := 0
  keys   : List Byte := []
  stamp  : Nat := 0
  deriving DecidableEq, Repr

/-- A resident line of a cache bank (R81, R82); the list of lines is in order of use, the latest last. -/
structure BankLine where
  line  : Nat
  key   : Nat
  dirty : Bool
  compress : Bool := false
  wrote : Option Nat := none
  deriving DecidableEq, Repr

/-- A miss register: its line and the accesses attached in order, as unit and id (R84). -/
structure Miss where
  line     : Nat
  attached : List (Nat × Nat)
  deriving DecidableEq, Repr

/-- A reservation of a commit unit (R322): line word, transaction. -/
structure Reservation where
  pa    : Nat
  size  : Nat
  write : Bool
  tx    : Nat
  deriving DecidableEq, Repr

/-- A cache bank with its commit unit. -/
structure Bank where
  lines    : List BankLine := []
  /-- Write-back buffer: lines with their key and whether they are compressible. -/
  wbuf     : List BankLine := []
  misses   : List Miss := []
  bypassed : List (Nat × Nat) := []
  reserved : List Reservation := []
  /-- The bank has failed (R27, R460). -/
  failed   : Bool := false
  deriving DecidableEq, Repr

/-- A packet of the fabric waiting at an arbiter (R79, R86, R87): the input it stands at, its class, the access it carries, the home slice, the partition tag that a firewall has stamped (R89), whether it is the response, and the arbiters that it has still to pass behind this one, each with the input it takes there. -/
structure Packet where
  input : Nat
  cls   : Nat
  unit  : Nat
  id    : Nat
  slice : Nat := 0
  tag   : Option Nat := none
  response : Bool := false
  /-- It has passed the firewall of the slice that it enters. -/
  inside : Bool := false
  /-- A launch notify on its way to a function core (R395): its thread stands in the place of the access. -/
  notify : Bool := false
  route : List (Nat × Nat) := []
  deriving DecidableEq, Repr

/-- An arbiter (R87): waiting packets, the number of grants made, the input granted last. The spec gives no start: the rotation starts at input 0, with no grant made (DESIGN CHOICE, log 14). -/
structure Port where
  packets : List Packet := []
  grants  : Nat := 0
  last    : Nat := 3
  deriving DecidableEq, Repr

/-- A key of a stream with the packets it has sealed and the first invocation it sealed (R47, R48). -/
structure StreamKey where
  key   : List Byte
  used  : Nat := 0
  first : Nat := 0
  deriving DecidableEq, Repr

/-- An encrypted stream (R47 to R50). -/
structure Stream where
  salt    : BitVec 32 := 0
  current : Option StreamKey := none
  pending : Option StreamKey := none
  retired : Option StreamKey := none
  /-- Invocations sealed by the retired key end here. -/
  stop    : Bool := false
  i       : Nat := 0
  deriving DecidableEq, Repr

/-- A barrow engine. -/
structure Barrow where
  ops  : List BarrowOp := []
  tag  : Nat := 0
  tlb  : List TlbEntry := []
  /-- The engine has failed (R27, R460). -/
  failed : Bool := false
  deriving DecidableEq, Repr

/-- A slice and the units that belong to it alone (R17). -/
structure Slice where
  fwctl   : BitVec 64 := 0
  deny    : Nat := 0
  /-- Releases of frames that wait for accesses accepted before them: frame, and the accesses as unit and id (R41). -/
  releases : List (Nat × List (Nat × Nat)) := []
  keys    : Tab KeySlot := []
  level   : Nat := 0
  spareUsed : Bool := false
  lostChans : List Nat := []
  /-- Physical positions of the spares, and of the units lost (R18, R461). -/
  coreSpare : List Nat := [8, 8]
  boothSpare : List Nat := [4, 4]
  /-- Failed units with the spare that has taken their logical position (R18). -/
  subs    : Tab Nat := []
  /-- GTC at which a spare took a place, by its unit (R27). -/
  spareAt : Tab Nat := []
  /-- Lost capacity of the slice in the health status (R461). -/
  lost    : Nat := 0
  streams : Tab Stream := []
  barrows : Tab Barrow := []
  /-- Table entries that the slice walker keeps (R66, R107). -/
  walkCache : List WalkEntry := []
  /-- Barrow commands accepted so far (R113). -/
  issued  : Nat := 0
  /-- Arcade barriers of the two arcades, by 32 arcade + number (R339). -/
  arcBar  : Tab Barrier := []
  ejects  : Tab Nat := []
  timeouts : Tab Nat := []
  /-- Chunks that the slice dispenser holds: launch, next index, end (R403). -/
  chunks  : List (Nat × Nat × Nat) := []
  podMode : Bool := false
  deriving DecidableEq, Repr

/-- A fault, trap or summary record (R426). -/
structure Record where
  stamp : Nat
  src   : Nat
  cause : Nat
  dcode : Nat := 0
  ncont : Nat := 0
  sum   : Bool := false
  async : Bool := true
  ppriv : Nat := 0
  world : Nat := 0
  pc    : Nat := 0
  addr  : Nat := 0
  lane  : Nat := 0
  stripe : Nat := 0
  part  : Nat := 0
  ctx   : Nat := 0
  det   : List (BitVec 32) := []
  /-- Continuation records that follow, as dwords (R73). -/
  cont  : List (List Nat) := []
  deriving DecidableEq, Repr

/-- The fault queue of a partition (R427, R428). -/
structure FaultQueue where
  base : BitVec 64 := 0
  ctl  : BitVec 64 := 0
  head : BitVec 32 := 0
  tail : BitVec 32 := 0
  drop : Nat := 0
  /-- Groups produced and not yet posted, in production order. -/
  made : List Record := []
  /-- Groups held on die. -/
  held : List Record := []
  deriving DecidableEq, Repr

/-- A peer window (R468). -/
structure Window where
  base : Nat
  size : Nat
  key  : Nat
  mask : List Nat
  deriving DecidableEq, Repr

/-- A partition (R440 to R452). -/
structure Partition where
  valid   : Bool := false
  /-- Slice of each slot, in slot order: (slot, slice) (R19). -/
  members : Tab Nat := []
  funcs   : BitVec 16 := 0
  wmask   : BitVec 64 := 0
  boothc  : BitVec 64 := 0
  tierGb  : Nat := 0
  tierBase : Nat := 0
  wcxl    : Nat := 0
  wpod    : Nat := 0
  fwgt    : Tab Nat := []
  khash   : List Byte := []
  bootUri : List Byte := []
  /-- The URI that the boot loader fetches from (R446). -/
  bootFrom : List Byte := []
  fq      : FaultQueue := {}
  pstat   : BitVec 64 := 0
  migwm   : BitVec 64 := 0
  /-- The channel of each die-to-die link that the partition's routes use (R91). -/
  channels : Tab Nat := []
  /-- Members before the resize in progress. -/
  oldMembers : Tab Nat := []
  /-- The slice that keeps its slot while its units move away, and is no part of the new map (R447). -/
  gone    : Option Nat := none
  /-- Request blocks in the order of the FWREQ writes, the one in progress first (R452). -/
  reqs    : List Nat := []
  fwBusy  : Bool := false
  evt     : BitVec 64 := 0
  evtrt   : BitVec 64 := 0
  bootInfo : List Byte := []
  windows : Tab Window := []
  meterLog : List (List Byte) := []
  meterSeq : Nat := 0
  /-- GTC of the last turn that the partition used on a CXL port (R92, R465). -/
  cxlLast : Tab Nat := []
  retries : Nat := 0
  bootAt  : Option Nat := none
  draining : Bool := false
  /-- The running manifest entry, and the SHA-384 of its kernel image (R440, R446, R459). -/
  entry   : List Byte := []
  kernel  : List Byte := []
  /-- GTC at which the next boot attempt may start (R446). -/
  retryAt : Option Nat := none
  /-- Slices that the manifest adds (with their slots) and removes, and the resize in progress (R441, R447). -/
  joining : List (Nat × Nat) := []
  parting : List Nat := []
  adding  : Option Nat := none
  removing : Option Nat := none
  /-- Metering (R458): usage records so far, the last CHAIN, ticks of teams that have gone, MACs and bytes of the second. -/
  meterUsage : Nat := 0
  meterChain : List Byte := []
  meterTicks : Nat := 0
  meterMacs : Nat := 0
  meterBytes : Nat := 0
  /-- A placement decision is due; the function whose turn it is and the decisions it has begun (R396). -/
  decide  : Bool := false
  turn    : Nat := 0
  turnUsed : Nat := 0
  deriving DecidableEq, Repr

/-- A queued launch record (R395, R402). -/
structure QRecord where
  bytes : List Byte
  ptb   : BitVec 64
  priv  : Priv
  world : Nat
  src   : Nat
  stamp : Nat
  params : List Byte := []
  pod   : Option Nat := none
  deriving DecidableEq, Repr

/-- A saved context at the head of its queue (R432). (log 22) -/
structure Saved where
  unit   : Nat
  core   : Core
  ticks  : Nat
  /-- Its qualified accesses that wait at bank ports (R433). -/
  gran   : List GranWait := []
  deriving DecidableEq, Repr

/-- A notify on its way to a function core (R349, R395). -/
structure Notify where
  queue : Nat
  rcd   : QRecord
  unit  : Nat
  stripe : Nat
  lane  : Nat
  dst   : Nat
  /-- Where SRC and STAMP are written back (R349). -/
  va     : Nat
  pa     : Nat
  key    : Nat
  /-- The rest of what that store's translation and thread give it (R39, R65). -/
  isSealed : Bool := false
  compress : Bool := false
  world  : BitVec 6 := 0
  pass   : Bool := false
  pod    : Bool := false
  /-- The packet has reached the function core (R395). -/
  there  : Bool := false
  deriving DecidableEq, Repr

/-- A virtual function (R393 to R436, R455): the queue state is what its core keeps in its 1 MiB of private memory (R454), which no address names. (log 52) -/
structure Function where
  part    : Option Nat := none
  qctl    : Tab (BitVec 64) := []
  qsave   : Tab (BitVec 64) := []
  qptb    : Tab (BitVec 64) := []
  /-- Launches of each queue, the head first (R393). -/
  queues  : Tab (List Nat) := []
  saved   : List (Nat × Saved) := []
  swpq    : BitVec 64 := 0
  resetting : Bool := false
  nodes   : Tab Nat := []
  up      : Bool := true
  /-- GTC at which the core has started, from which its heartbeats count (R455). -/
  since   : Nat := 0
  crashes : List Nat := []
  notifies : List Notify := []
  deriving DecidableEq, Repr

/-- Where a launch stands (R396 to R412). -/
inductive LaunchState where
  | queued | placing | dealing | draining
  deriving DecidableEq, Repr

/-- A launch from its acceptance to its completion (R393 to R412): queued behind a head; a head to be placed; a head with teams; past its head, with teams that have not exited. -/
structure Launch where
  part   : Nat
  func   : Nat
  queue  : Nat
  rcd    : QRecord
  state  : LaunchState := .queued
  /-- Head state 1: its node is not ready (R408). -/
  nodeWait : Bool := false
  t0     : Nat := 0
  /-- First linear index not dealt, and the end of the undealt ones. -/
  next   : Nat := 0
  total  : Nat := 0
  /-- Pod launches: the pod chunks held, as first index and end, and whether the pod dispatcher has none left (R414). -/
  podChunks : List (Nat × Nat) := []
  podDone : Bool := false
  started : Bool := false
  remnants : List (Nat × Nat) := []
  /-- A pod chunk has been requested (R414). -/
  podWant : Bool := false
  /-- Units that hold teams of the launch; units that teams have left, with the access number at which their writes end (R405); and a group reserved for it (R400). -/
  teams  : List Nat := []
  flush  : List (Nat × Nat) := []
  reserved : List Nat := []
  /-- Indices dispensed, and the highest plus one. -/
  disp   : Nat := 0
  high   : Nat := 0
  nflt   : Nat := 0
  firstFault : Option Record := none
  /-- Counts of the attributed records by cause (R417). -/
  causes : Tab Nat := []
  cancelAt : Option Nat := none
  cancelled : Bool := false
  /-- Completes with CST 3 (R402, R436). -/
  failed : Bool := false
  preempt : Bool := false
  /-- Cores whose latch sequence this head has started (R397). -/
  latches : List Nat := []
  /-- The decision for the crossing of AGE has been asked for (R396). -/
  crossed : Bool := false
  /-- A slice of it was drained, or a core removed, since it took a team (R411). -/
  yielded : Bool := false
  /-- A requeued member of a pod launch that requests chunks when it is placed again (R414). -/
  podAgain : Bool := false
  deriving DecidableEq, Repr

/-- The pod launch as its pod dispatcher keeps it (R413 to R418). -/
structure PodLaunch where
  rcd     : List Byte
  src     : Nat
  stamp   : Nat
  /-- What the launching thread had: partition, sr.ptb, privilege (R402). -/
  part    : Nat := 0
  ptb     : BitVec 64 := 0
  priv    : Priv := .u
  members : List Nat
  /-- Function of the launching package whose node SNODE names (R405). -/
  func    : Nat := 0
  remnants : List (Nat × Nat) := []
  next    : Nat := 0
  total   : Nat := 0
  /-- Pod chunks dealt to each member, and the GTC of the last word from a member or the dispatcher (R415). -/
  given   : Tab (List (Nat × Nat)) := []
  heard   : Nat := 0
  /-- GTC of the last report, deal or returned remnant (R415), and the request served last: its GTC and member (R414). -/
  quiet   : Nat := 0
  asked   : Option (Nat × Nat) := none
  /-- The fault summary has been posted (R417). -/
  summed  : Bool := false
  reports : Tab PodReport := []
  lost    : List Nat := []
  cancelAt : Option Nat := none
  complete : Bool := false
  deriving DecidableEq, Repr

/-- Where the boot of the package stands (R439). -/
structure Boot where
  stage    : Nat := 0
  released : Bool := false
  manifest : List Byte := []
  version  : Nat := 0
  images   : List SignedImage := []
  deriving DecidableEq, Repr

/-- One-time state of the package (R437, R442, R461). (log 7) -/
structure Fuses where
  signers  : List (List Byte) := []
  revoked  : BitVec 4 := 0
  operator : List Byte := []
  minVersion : Nat := 0
  serial   : List Byte := []
  deriving DecidableEq, Repr

/-- A barrow packet to a peer's window (R109, R112): the package, the window and the offset in it, and the sealed bytes; none asks for that packet. (log 53) -/
structure PeerPacket where
  part   : Nat
  stream : Nat
  pkg    : Nat
  win    : Nat
  addr   : Nat
  bytes  : Option (List Byte)
  deriving DecidableEq, Repr

/-- One item of the environment's schedule: an event, the issue of a word of a quadrant's group, or time passing. -/
inductive Agendum where
  | event (i : Instr)
  | issue (unit quad : Nat) (groupB : Bool)
  | ticks (n : Nat)
  /-- An uncorrectable error of a line, found at its next read; true is a MAC failure (R51). -/
  | lineError (slice line : Nat) (mac : Bool)
  /-- An uncorrectable error of an integrity-tree node: slice, level, first frame (R52). -/
  | treeError (slice level frame : Nat)
  /-- Firmware acting for the slice's partition gives a barrow engine a command (R107): a fill or a copy, with its command block. -/
  | firmwareBarrow (slice eng : Nat) (fill : Bool) (block : List Byte)
  /-- A peer answers a request for a packet of its window (R112). -/
  | peerAnswer (packet : PeerPacket)
  deriving DecidableEq, Repr

/-- The word being issued (R139): unit, stripe, quadrant and group, the lanes of the issue group, and the address of the word. -/
structure Cur where
  unit   : Nat
  stripe : Nat
  quad   : Nat := 0
  groupB : Bool := false
  lanes  : LaneMask
  pc     : VAddr
  deriving DecidableEq, Repr

/-- Link state of a pod port (R464, R466). (log 53) -/
structure Link where
  rxSeq   : Nat := 0
  nak     : Bool := false
  /-- Credits returned by the neighbour (R464). -/
  credits : Nat := 0
  key     : Option (List Byte) := none
  nextKey : Option (List Byte) := none
  delivered : List (List Byte) := []
  forwarded : List (Nat × List Byte) := []
  deriving DecidableEq, Repr

/-- The pod side of the package (R23, R413, R463 to R467). -/
structure Pod where
  config  : Option PodConfig := none
  joined  : Bool := false
  synced  : Bool := false
  /-- Offset measured at the last exchange, which the GTC slews away, and the GTC of that exchange (R23, R467). -/
  offset  : Int := 0
  measured : Nat := 0
  inbox   : List PodRecord := []
  launches : Tab PodLaunch := []
  cancels : List (Nat × Nat × Nat) := []
  /-- Barrow packets sent to peers, and packets that peers have answered with (R112, R464). -/
  packets : List PeerPacket := []
  responses : List PeerPacket := []
  links   : Tab Link := []
  deriving DecidableEq, Repr

/-- A store to the control window that its register has not applied yet (R444): partition, address, bytes, value, privilege. -/
structure RegWrite where
  part : Nat
  pa   : Nat
  n    : Nat
  v    : Nat
  priv : Priv
  deriving DecidableEq, Repr

/-- The whole package. -/
structure State where
  gtc       : Nat
  /-- Eighteenths of a tick that the arithmetic clock has run past the last tick (log 4). -/
  phase     : Nat
  /-- Draws of free values so far (log 2). -/
  freeCount : Nat
  agenda    : List Agendum
  /-- Window stores of the step, applied at its end in order. -/
  regWrites : List RegWrite
  focus     : Option (Nat × Nat × Bool)
  cur       : Cur
  cores     : Tab Core
  slices    : Tab Slice
  banks     : Tab Bank
  ports     : Tab Port
  parts     : Tab Partition
  funcs     : Tab Function
  launches  : Tab Launch
  nextLaunch : Nat
  granq     : List GranWait
  commits   : List Commit
  nextTx    : Nat
  /-- Data-region bytes, keyed by slice * 2^35 + local address (R31). -/
  mem       : List Host.Cell
  /-- Poison maps of lines, keyed by slice * 2^28 + line (R36, R51). -/
  poison    : Tab (BitVec 8)
  metas     : Tab LineMeta
  /-- Frames by slice * 2^22 + frame. -/
  frames    : Tab Frame
  /-- Errors that a line's next read finds (R30, R51). -/
  latent    : Tab LineErr
  tier      : List Host.Cell
  tierHdr   : Tab (List Byte)
  cxlFailed : BitVec 16
  health    : Nat
  healthLog : List (List Byte)
  crashes   : List (List Byte)
  /-- Units that have failed and are neither cores, pseudo-channels nor CXL ports, by number (R27, R460). -/
  lostUnits : List Nat
  rootUp    : Bool
  /-- GTC at which the root core has started (R456). -/
  rootSince : Nat
  boot      : Boot
  fuses     : Fuses
  pod       : Pod
  mgmt      : List (List Byte)
  packageIdx : Nat
  deriving DecidableEq, Repr

/-- Power-on (R9, R22, R439): every table empty, so every register reads its reset value; nothing scheduled. (log 8) -/
def State.reset : State :=
  { gtc := 0, phase := 0, freeCount := 0, agenda := [], regWrites := [], focus := none, cur := { unit := 0, stripe := 0, lanes := 0, pc := 0 },
    cores := [], slices := [], banks := [], ports := [], parts := [], funcs := [], launches := [], nextLaunch := 0, granq := [], commits := [], nextTx := 0,
    mem := [], poison := [], metas := [], frames := [], latent := [], tier := [], tierHdr := [], cxlFailed := 0, health := 0, healthLog := [],
    crashes := [], lostUnits := [], rootUp := true, rootSince := 0, boot := {}, fuses := {}, pod := {}, mgmt := [], packageIdx := 0 }

end Sys2Proof.Machine
end

