-- ==== Sys2Proof/WellFormed.lean ====
section
/-!
DEFINITION. When a term of Instr is an instruction word: its row's form bits hold and no encoding check of R230 refuses it.
-/
namespace Sys2Proof

/-- A well-formed instruction word: the checks of R11 and R230 pass. Events are not words. -/
def Instr.wellFormed (i : Instr) : Bool := i.form && i.encFault.isNone

end Sys2Proof
end

