-- ==== Sys2Proof/Machine/Ops.lean ====
section
/-!
DEFINITION. The named operations over the state: units and threads, memory at its home, translation, records, taking a trap and returning from it, and how a word ends.
-/
namespace Sys2Proof.Machine

/-! ## Units -/

/-- The kinds of core (R25, R497). -/
inductive Kind where
  | simt | booth | host | func | root | other
  deriving DecidableEq, Repr

/-- The kind a unit number names (R25). -/
def kindOf (u : Nat) : Kind :=
  if u < 0x240 then .simt
  else if 0xC00 ≤ u ∧ u < 0xD40 then .booth
  else if 0xE00 ≤ u ∧ u < 0xE80 then .host
  else if 0x1600 ≤ u ∧ u < 0x1610 then .func
  else if u = 0x1610 then .root
  else .other

/-- The slice a unit belongs to (R17, R25). -/
def sliceOf (u : Nat) : Nat :=
  match kindOf u with
  | .simt => u / 18
  | .booth => (u - 0xC00) / 10
  | .host => (u - 0xE00) / 4
  | _ => 0

/-- The arcade of a SIMT core or booth core within its slice (R17, R25). -/
def arcadeOf (u : Nat) : Nat :=
  match kindOf u with
  | .simt => u / 9 % 2
  | .booth => (u - 0xC00) / 5 % 2
  | _ => 0

/-- Physical position of a core within its arcade (R18). -/
def posOf (u : Nat) : Nat :=
  match kindOf u with
  | .simt => u % 9
  | .booth => (u - 0xC00) % 5
  | _ => 0

/-- A core of the package. -/
def State.core (s : State) (u : Nat) : Core := Tab.get s.cores u {}
/-- The state with a core replaced. -/
def State.setCore (s : State) (u : Nat) (c : Core) : State := { s with cores := Tab.set s.cores u c }
/-- The state with a core changed. -/
def State.onCore (s : State) (u : Nat) (f : Core → Core) : State := s.setCore u (f (s.core u))

/-- A stripe of a core. -/
def Core.stripe (c : Core) (i : Nat) : Stripe := Tab.get c.stripes i {}
/-- A core with a stripe changed. -/
def Core.onStripe (c : Core) (i : Nat) (f : Stripe → Stripe) : Core := { c with stripes := Tab.set c.stripes i (f (c.stripe i)) }
/-- A thread of a stripe. -/
def Stripe.lane (t : Stripe) (l : Nat) : Thread := Tab.get t.lanes l {}
/-- A stripe with a thread changed. -/
def Stripe.onLane (t : Stripe) (l : Nat) (f : Thread → Thread) : Stripe := { t with lanes := Tab.set t.lanes l (f (t.lane l)) }
/-- A stripe with every thread mapped; f gets the lane number. -/
def Stripe.mapLanes (t : Stripe) (f : Nat → Thread → Thread) : Stripe := { t with lanes := Tab.tabulate 32 fun l => f l (t.lane l) }

/-- A stripe of the state. -/
def State.stripe (s : State) (u i : Nat) : Stripe := (s.core u).stripe i
/-- The state with a stripe changed. -/
def State.onStripe (s : State) (u i : Nat) (f : Stripe → Stripe) : State := s.onCore u fun c => c.onStripe i f
/-- A thread of the state: unit, stripe, lane. -/
def State.thread (s : State) (u i l : Nat) : Thread := (s.stripe u i).lane l
/-- The state with a thread changed. -/
def State.onThread (s : State) (u i l : Nat) (f : Thread → Thread) : State := s.onStripe u i fun t => t.onLane l f

/-- The value of a register (R150). -/
def Thread.reg (t : Thread) (r : Nat) : Word := Tab.get t.g r 0
/-- A register written and left full (R152). -/
def Thread.setReg (t : Thread) (r : Nat) (v : Word) : Thread := { t with g := Tab.set t.g r v, empty := setBit t.empty r false }
/-- A register marked empty by a producer (R152). -/
def Thread.mark (t : Thread) (r : Nat) : Thread := { t with empty := setBit t.empty r true }
/-- Consecutive registers written from r upward (R202). -/
def Thread.setRegs (t : Thread) (r : Nat) (vs : List Word) : Thread :=
  match vs with
  | [] => t
  | v :: rest => Thread.setRegs (t.setReg r v) (r + 1) rest
/-- A pair as one value (R5). -/
def Thread.pair (t : Thread) (r : Nat) : DWord := pairVal (t.reg r) (t.reg (r + 1))
/-- A pair written (R5). -/
def Thread.setPair (t : Thread) (r : Nat) (v : DWord) : Thread := (t.setReg r (pairLo v)).setReg (r + 1) (pairHi v)
/-- A predicate of a thread. -/
def Thread.pred (t : Thread) (p : Nat) : Bool := predGet t.preds p
/-- A predicate written. -/
def Thread.setPred (t : Thread) (p : Nat) (v : Bool) : Thread := { t with preds := predSet t.preds p v }
/-- Whether a register may be named: g0 to g31, or a mapped block (R150); a host or firmware core maps every block. -/
def Thread.mapped (t : Thread) (k : Kind) (r : Nat) : Bool :=
  decide (r < 32) || k == .host || k == .func || k == .root || t.blocks.getLsbD ((r - 32) / 8)

/-- A slice of the package. -/
def State.slice (s : State) (k : Nat) : Slice := Tab.get s.slices k {}
/-- The state with a slice changed. -/
def State.onSlice (s : State) (k : Nat) (f : Slice → Slice) : State := { s with slices := Tab.set s.slices k (f (s.slice k)) }
/-- A partition. -/
def State.part (s : State) (p : Nat) : Partition := Tab.get s.parts p {}
/-- The state with a partition changed. -/
def State.onPart (s : State) (p : Nat) (f : Partition → Partition) : State := { s with parts := Tab.set s.parts p (f (s.part p)) }
/-- A function. -/
def State.func (s : State) (f : Nat) : Function := Tab.get s.funcs f {}
/-- The state with a function changed. -/
def State.onFunc (s : State) (k : Nat) (f : Function → Function) : State := { s with funcs := Tab.set s.funcs k (f (s.func k)) }
/-- A cache bank, numbered 4 slice + bank. -/
def State.bank (s : State) (b : Nat) : Bank := Tab.get s.banks b {}
/-- The state with a bank changed. -/
def State.onBank (s : State) (b : Nat) (f : Bank → Bank) : State := { s with banks := Tab.set s.banks b (f (s.bank b)) }

/-- The partition number of a slice, if its firewall enables it (R94). -/
def Slice.part (k : Slice) : Option Nat := if k.fwctl.getLsbD 8 then some (k.fwctl.toNat % 32) else none
/-- The slice is in drain (R93). -/
def Slice.drain (k : Slice) : Bool := k.fwctl.getLsbD 9

/-- A core whose slice is in drain sends no packet (R93). -/
def State.inDrain (s : State) (u : Nat) : Bool := (kindOf u == .simt || kindOf u == .booth || kindOf u == .host) && (s.slice (sliceOf u)).drain

/-- The partition a core works for: its slice's, or its function's (R21, R440). -/
def State.partOf (s : State) (u : Nat) : Option Nat :=
  match kindOf u with
  | .func => (s.func (u - 0x1600)).part
  | .root | .other => none
  | _ => (s.slice (sliceOf u)).part

/-- The core and the place of the thread that runs at a place: an ejected thread belongs to its home (R385, R386). -/
def State.home (s : State) (u i l : Nat) : Nat × Nat × Nat :=
  match kindOf u with
  | .booth =>
    match Tab.find (s.core u).guests i with
    | some g => (g.home, g.stripe, g.lane)
    | none => (u, i, l)
  | _ => (u, i, l)

/-- The source number of a unit of this package (R25). -/
def State.src (s : State) (u : Nat) : Nat := 2 ^ 14 * s.packageIdx + u

/-- The unit at a logical position of an arcade, from the base unit of its n physical ones and the spare's place (R18); none when it has failed without substitute. (log 7) -/
def State.unitAt (s : State) (sl base n spare pos : Nat) : Option Nat :=
  match ((List.range n).filter fun c => c != spare)[pos]? with
  | none => none
  | some c =>
    let u := (Tab.find (s.slice sl).subs (base + c)).getD (base + c)
    if (s.core u).failed then none else some u

/-- The SIMT core at a logical position (R18). -/
def State.coreAt (s : State) (sl a pos : Nat) : Option Nat := s.unitAt sl (18 * sl + 9 * a) 9 (((s.slice sl).coreSpare[a]?).getD 8) pos
/-- The booth core at a logical position (R18). -/
def State.boothAt (s : State) (sl a pos : Nat) : Option Nat := s.unitAt sl (0xC00 + 10 * sl + 5 * a) 5 (((s.slice sl).boothSpare[a]?).getD 4) pos
/-- The enabled booth cores of an arcade in logical order. -/
def State.booths (s : State) (sl a : Nat) : List Nat := (List.range 4).filterMap fun k => s.boothAt sl a k
/-- The enabled SIMT cores of a slice with their arcade and logical position. -/
def State.coresOf (s : State) (sl : Nat) : List Nat := (List.range 16).filterMap fun k => s.coreAt sl (k / 8) (k % 8)

/-- Logical position of a SIMT core within its slice: 8 arcade + position (R18). -/
def State.logical (s : State) (u : Nat) : Nat := ((List.range 16).find? fun k => s.coreAt (sliceOf u) (k / 8) (k % 8) == some u).getD 0

/-- The slot of a slice in its partition (R19). -/
def Partition.slotOf (p : Partition) (sl : Nat) : Nat := ((p.members.find? fun m => m.2 == sl).map (·.1)).getD 0

/-- The partition-relative rank of a SIMT core (R19). -/
def State.rankOf (s : State) (u : Nat) : Nat := 16 * (s.part ((s.partOf u).getD 0)).slotOf (sliceOf u) + s.logical u

/-- The core that a rank names, if any (R19, R56): none of a slice whose teams have exited to leave (R447). -/
def State.coreOfRank (s : State) (part rank : Nat) : Option Nat :=
  match (Tab.find (s.part part).members (rank / 16)).filter fun sl => some sl != (s.part part).gone with
  | none => none
  | some sl => s.coreAt sl (rank % 16 / 8) (rank % 8)

/-! ## Home slices and frames -/

/-- Frames of 8 KiB in a slice's data region (R28). -/
def sliceFrames : Nat := 3866624

/-- The map of R31 over a list of member slices: home slice and local address. -/
def mapHome (ms : List Nat) (pa : Nat) : Option (Nat × Nat) :=
  let n := ms.length
  if n = 0 then none
  else
    let u := pa / 8192
    let g := u / n
    let j := u % n
    let h := (g ^^^ (g >>> 5) ^^^ (g >>> 11)) % n
    if g < sliceFrames then (ms[(j + h) % n]?).map fun m => (m, g * 8192 + pa % 8192) else none

/-- The member slices of the map in force, or, while units move, of the new map (R31, R447): a slice that leaves keeps its slot to the end. -/
def Partition.mapSlices (p : Partition) : List Nat := (p.members.filter fun m => some m.2 != p.gone).map (·.2)

/-- Interleave units of the larger map during a resize (R449). -/
def Partition.resizeUnits (p : Partition) : Nat := sliceFrames * max p.members.length p.oldMembers.length

/-- The member slices whose map a physical address uses: during a migration the watermark decides (R31, R449). -/
def Partition.mapFor (p : Partition) (pa : Nat) : List Nat :=
  if p.migwm.getLsbD 63 then
    let u := pa / 8192
    let pos := if p.migwm.getLsbD 62 then p.resizeUnits - 1 - u else u
    if pos < p.migwm.toNat % 2 ^ 27 then p.mapSlices else p.oldMembers.map (·.2)
  else p.mapSlices

/-- Bytes of physical memory (R28, R31); while a slice is added, the map of the old members still bounds it. -/
def Partition.size (p : Partition) : Nat :=
  8192 * (sliceFrames * if p.migwm.getLsbD 63 && !p.migwm.getLsbD 62 then p.oldMembers.length else p.mapSlices.length)

/-- Home slice and channel-group-local address of a partition physical address (R31). -/
def State.homeOf (s : State) (part pa : Nat) : Option (Nat × Nat) :=
  if pa < (s.part part).size then mapHome ((s.part part).mapFor pa) pa else none

/-- The partition physical address of a local address of a member slice (log 31): the inverse of R31, while units move under the map that holds for the unit (R449). -/
def State.paOf (s : State) (part sl loc : Nat) : Nat :=
  let under (n : Nat) : Option Nat := ((List.range n).map fun j => (loc / 8192 * n + j) * 8192).find? fun pa => s.homeOf part pa == some (sl, loc / 8192 * 8192)
  (((under (s.part part).mapSlices.length).or (under (s.part part).oldMembers.length)).map fun pa => pa + loc % 8192).getD loc

/-- The key of a byte in State.mem. -/
def memKey (sl loc : Nat) : Nat := 2 ^ 35 * sl + loc
/-- The key of a line in the tables of lines. -/
def lineKey (sl loc : Nat) : Nat := 2 ^ 28 * sl + loc / 128
/-- The key of a frame. -/
def frameKey (sl loc : Nat) : Nat := 2 ^ 22 * sl + loc / 8192
/-- The bank of a local address (R81). -/
def bankOf (sl loc : Nat) : Nat := 4 * sl + (bits loc 8 7 ^^^ bits loc 16 15)
/-- The set of a local line address within its bank (R81). -/
def setOf (line : Nat) : Nat := line * 128 / 512 % 4096

/-- A frame's entry. -/
def State.frame (s : State) (k : Nat) : Frame := Tab.get s.frames k {}
/-- The state with a frame's entry changed. -/
def State.onFrame (s : State) (k : Nat) (f : Frame → Frame) : State := { s with frames := Tab.set s.frames k (f (s.frame k)) }
/-- A key slot of a slice's controller. -/
def State.keySlot (s : State) (sl k : Nat) : KeySlot := Tab.get (s.slice sl).keys k {}

/-- MACs and bytes count for the metering of a partition (R458). -/
def State.meter (s : State) (part macs bytes : Nat) : State := s.onPart part fun p => { p with meterMacs := p.meterMacs + macs, meterBytes := p.meterBytes + bytes }

/-! ## Records (R426 to R429) -/

/-- The state with a record produced for a partition's fault queue; it is written by FAULT_RECORD_POST (R428). (log 60) -/
def State.post (s : State) (part : Nat) (r : Record) : State :=
  s.onPart part fun p => { p with fq := { p.fq with made := p.fq.made ++ [r] } }

/-- Records in the order of R26: stamp, then source. -/
def Record.before (a b : Record) : Bool := decide (a.stamp < b.stamp) || (a.stamp == b.stamp && decide (a.src < b.src))

/-- A record made by a unit of a core while it runs a team counts for the team's launch (R406, R415, R417). -/
def State.attribute (s : State) (u : Nat) (r : Record) : State :=
  match (s.core u).team with
  | none => s
  | some t =>
    match Tab.find s.launches t.launch with
    | none => s
    | some x =>
      let first := match x.firstFault with
        | some f => if r.before f then r else f
        | none => r
      { s with launches := Tab.set s.launches t.launch { x with nflt := min (x.nflt + 1) (2 ^ 32 - 1), firstFault := some first, causes := Tab.modify x.causes r.cause 0 (· + 1) } }

/-- The privilege code of a record or of PPRIV: 0 U, 1 K, 2 H (R420). -/
def Priv.code (p : Priv) : Nat :=
  match p with
  | .u => 0
  | .k => 1
  | .h => 2
  | .f => 3

/-- Privilege K or above. -/
def Priv.atK (p : Priv) : Bool := p != .u

/-- The context a thread shows: its core's, or its own on a host core (R355). -/
def State.ctxOf (s : State) (u i l : Nat) : BitVec 16 :=
  match kindOf u with
  | .host => (s.thread u i l).ctx
  | _ => (s.core u).ctx

/-- The world of a thread: the latch of its home core, or its own on a host core (R39, R355). -/
def State.worldOf (s : State) (u i l : Nat) : BitVec 6 :=
  let (hu, hi, hl) := s.home u i l
  match kindOf hu with
  | .host => (s.thread hu hi hl).world
  | _ => (s.core hu).world

/-- sr.ptb of a thread (R58). -/
def State.ptbOf (s : State) (u i l : Nat) : BitVec 64 :=
  let (hu, hi, hl) := s.home u i l
  match kindOf hu with
  | .host => (s.thread hu hi hl).ptb
  | _ => (s.core hu).ptb

/-- A record of one of a thread's words (R426): the thread is named by its home. -/
def State.threadRecord (s : State) (u i l pc : Nat) (t : Trap) : Record :=
  let (hu, hi, hl) := s.home u i l
  let (src, pc, stamp) := t.origin.getD (s.src hu, pc, s.gtc)
  { stamp := stamp, src := src, cause := t.cause, dcode := t.dcode, ppriv := (s.thread u i l).priv.code,
    world := (s.worldOf u i l).toNat, pc := pc, addr := t.addr, lane := hl, stripe := hi,
    part := (s.partOf hu).getD 0, ctx := (s.ctxOf hu hi hl).toNat, det := t.det }

/-- The 64 bytes of a record (R426). -/
def Record.bytes (r : Record) : List Byte :=
  leBytes 8 r.stamp ++ leBytes 4 (r.src % 2 ^ 24)
    ++ leBytes 4 (r.cause + r.dcode * 2 ^ 8 + r.ncont * 2 ^ 16 + (if r.sum then 2 ^ 20 else 0) + (if r.async then 2 ^ 21 else 0) + r.ppriv % 4 * 2 ^ 22 + r.world * 2 ^ 24)
    ++ leBytes 8 r.pc ++ leBytes 8 r.addr ++ leBytes 4 (r.lane + r.stripe * 2 ^ 5 + r.part * 2 ^ 9 + r.ctx * 2 ^ 16)
    ++ ((List.range 7).map fun i => leBytes 4 ((r.det[i]?).getD 0).toNat).flatten

/-! ## Memory at its home slice -/

/-- An entry of the health log (R461, log 27): GTC, source number, old and new level, reason (1 a failed unit, 2 an error in a frame without owner, 3 a failed pseudo-channel), what it names, and the device's signature over bytes 0x00 to 0x1F. -/
def State.healthEntry (s : State) (src old new reason what : Nat) : List Byte :=
  let b := leBytes 8 s.gtc ++ leBytes 4 src ++ leBytes 1 old ++ leBytes 1 new ++ leBytes 2 reason ++ leBytes 8 what ++ List.replicate 8 0
  (b ++ Config.deviceSign b ++ List.replicate 96 0).take 128

/-- An error in a frame without owner is counted in the health log (R54). -/
def State.noteFree (s : State) (sl what : Nat) : State :=
  { s with healthLog := s.healthLog ++ [s.healthEntry (s.src (0x1100 + sl)) (s.slice sl).level (s.slice sl).level 2 what] }

/-- Poison map of a line (R36, R51). -/
def State.poisonOf (s : State) (k : Nat) : BitVec 8 := Tab.get s.poison k 0
/-- The state with a line's poison map set. -/
def State.setPoison (s : State) (k : Nat) (m : BitVec 8) : State :=
  { s with poison := if m = 0 then Tab.erase s.poison k else Tab.set s.poison k m }

/-- A line is held by its bank: resident or in the write-back buffer (R82). -/
def State.resident (s : State) (sl loc : Nat) : Bool := ((s.bank (bankOf sl loc)).lines ++ (s.bank (bankOf sl loc)).wbuf).any fun b => b.line == loc / 128

/-- A record for the kernel that owns a frame, with detail "channel" (R54); a frame without owner is counted in the health log. -/
def State.channelRecord (s : State) (sl fr : Nat) : State :=
  match (s.frame (2 ^ 22 * sl + fr)).owner, (s.slice sl).part with
  | some key, some p =>
    s.post p { stamp := s.gtc, src := s.src (0x1100 + sl), cause := 0x13, dcode := 0x1A, world := (s.keySlot sl key).world.toNat, addr := s.paOf p sl (fr * 8192) }
  | _, _ => s.noteFree sl (fr * 64)

/-- The world of the key slot that owns the frame of a physical address, which a record of that frame shows (R426). -/
def State.ownerWorld (s : State) (part pa : Nat) : Nat :=
  match s.homeOf part pa with
  | none => 0
  | some (sl, loc) => ((s.frame (frameKey sl loc)).owner).elim 0 fun k => (s.keySlot sl k).world.toNat

/-- The one record of a frame for the loss of a pseudo-channel (R54). -/
def State.channelPoison (s : State) (sl fr chan : Nat) : State :=
  if (s.frame (2 ^ 22 * sl + fr)).chanNoted.contains chan then s
  else (s.channelRecord sl fr).onFrame (2 ^ 22 * sl + fr) fun f => { f with chanNoted := f.chanNoted ++ [chan] }

/-- The controller reads a line from HBM4E: a latent error poisons every granule and posts one record (R30, R51, R54). A clear line is not fetched (R35). (log 13) -/
def State.fillLine (s : State) (part sl loc : Nat) : State :=
  let k := lineKey sl loc
  match Tab.find s.latent k with
  | none => s
  | some err =>
    if (Tab.get s.metas k {}).clear then s
    else
      let s := { s with latent := Tab.erase s.latent k, poison := Tab.set s.poison k 0xFF }
      match err, (s.frame (frameKey sl loc)).owner with
      | .channel chan, _ => s.channelPoison sl (loc / 8192) chan
      | _, none => s.noteFree sl (loc / 128)
      | e, some key =>
        s.post part { stamp := s.gtc, src := s.src (0x1100 + sl), cause := 0x13, dcode := if e = .mac then 0x19 else 0x18,
                      world := (s.keySlot sl key).world.toNat, addr := s.paOf part sl (loc / 128 * 128) }

/-- A line may be chosen as victim: no miss register holds it and its last write-back is 16 ticks old (R37, R82). -/
def Bank.victim? (b : Bank) (gtc : Nat) (x : BankLine) : Bool :=
  !(b.misses.any fun m => m.line == x.line) && !(b.wbuf.any fun w => w.line == x.line) && (match x.wrote with
    | none => true
    | some w => decide (w + 16 ≤ gtc))

/-- The lines of the bank in the set of a line, the least recently used first. -/
def Bank.setLines (b : Bank) (line : Nat) : List BankLine := b.lines.filter fun x => setOf x.line == setOf line

/-- Room for a line in its set (R82): at most 16 lines a set; otherwise the least recently used victim leaves, a dirty one into the buffer of 64. None when nothing can leave. -/
def Bank.makeRoom (b : Bank) (gtc line : Nat) : Option Bank :=
  if (b.setLines line).length < 16 then some b
  else
    match (b.setLines line).find? (b.victim? gtc) with
    | none => none
    | some v =>
      if v.dirty then
        if b.wbuf.length < 64 then some { b with lines := b.lines.filter (·.line != v.line), wbuf := b.wbuf ++ [v] } else none
      else some { b with lines := b.lines.filter (·.line != v.line) }

/-- The write-back of a line (R34, R36, R37, R51): poisoned granules become zero, the counter rises, the class is found, the line is no longer clear; a copy in the bank has now been written back. (log 19) -/
def State.writeBackLine (s : State) (bank : Nat) (x : BankLine) : State :=
  let k := 2 ^ 28 * (bank / 4) + x.line
  let base := memKey (bank / 4) (x.line * 128)
  let m := Tab.get s.metas k {}
  let map_ := s.poisonOf k
  let mem := (List.range 8).foldl (fun mem g => if map_.getLsbD g then bytesClear mem (base + 16 * g) 16 else mem) s.mem
  let cls := if x.compress then Config.sizeClass (bytesGet mem base 128) else 3
  let s : State := { s with mem := mem, latent := Tab.erase s.latent k, metas := Tab.set s.metas k { counter := m.counter + 1, cls := cls, clear := false, wrote := some s.gtc } }
  s.onBank bank fun b => { b with lines := mapIf (fun y : BankLine => y.line == x.line) (fun y => { y with wrote := some s.gtc }) b.lines }

/-- The oldest entry of a write-back buffer leaves it (R82): written back, or discarded with its record when its frame is lost or withdrawn (R30, R52). -/
def State.popBuffer (s : State) (bank : Nat) (discard : State → Nat → State) : State :=
  match (s.bank bank).wbuf with
  | [] => s
  | x :: rest =>
    let s := s.onBank bank fun b => { b with wbuf := rest }
    let f := s.frame (frameKey (bank / 4) (x.line * 128))
    if f.withdrawn || f.lost.isSome then discard s (x.line * 128) else s.writeBackLine bank x

/-- The marks of a frame that make every read poisoned and every write lost: withdrawn or integrity-lost (R30, R52). -/
def Frame.dead (f : Frame) : Bool := f.withdrawn || f.lost.isSome

/-- The record of an access to a withdrawn frame, and of a write to an integrity-lost one (R30, R52). (log 31) (log 60) -/
def State.deadRecord (s : State) (part sl loc : Nat) (write : Bool) : State :=
  let f := s.frame (frameKey sl loc)
  let world := f.owner.elim 0 fun key => (s.keySlot sl key).world.toNat
  if f.withdrawn then s.post part { stamp := s.gtc, src := s.src (0x1100 + sl), cause := 0x13, dcode := 0x1A, world := world, addr := s.paOf part sl (loc / 8192 * 8192) }
  else if write && f.lost.isSome then s.post part { stamp := s.gtc, src := s.src (0x1100 + sl), cause := 0x13, dcode := 0x1C, world := world, addr := s.paOf part sl (loc / 128 * 128) }
  else s

/-- The controller may accept the oldest line of a buffer: its last write-back is 16 ticks old (R37). -/
def State.mayDrain (s : State) (bank : Nat) : Bool :=
  match (s.bank bank).wbuf with
  | [] => false
  | x :: _ => (Tab.get s.metas (2 ^ 28 * (bank / 4) + x.line) {}).wrote.all fun w => decide (w + 16 ≤ s.gtc)

/-- The oldest buffered line of a bank leaves the buffer. -/
def State.drainOne (s : State) (bank : Nat) : State := s.popBuffer bank fun s loc => s.deadRecord (((s.slice (bank / 4)).part).getD 0) (bank / 4) loc true

/-- A way for a line whose access cannot wait for one (R82, log 61): where the buffer is full, its oldest entry leaves first if the controller may accept it. None when no line may leave. -/
def State.claimWay (s : State) (bank line : Nat) : Option State :=
  match (s.bank bank).makeRoom s.gtc line with
  | some b => some (s.onBank bank fun _ => b)
  | none =>
    if s.mayDrain bank then
      let s := s.drainOne bank
      ((s.bank bank).makeRoom s.gtc line).map fun b => s.onBank bank fun _ => b
    else none

/-- A line becomes the most recently used of its bank (R82), dirty when written; one that the bank does not hold takes a way. What is written where no way can be had, or in a bank that has failed and holds nothing, waits for the controller in the write-back buffer (logs 61 and 62). -/
def State.touchLine (s : State) (sl loc key : Nat) (dirty compress : Bool) : State :=
  let bn := bankOf sl loc
  let new : BankLine := { line := loc / 128, key := key, dirty := dirty, compress := compress, wrote := (Tab.get s.metas (lineKey sl loc) {}).wrote }
  let buffer (s : State) : State := if dirty then s.onBank bn fun b => { b with wbuf := (b.wbuf.filter fun y => y.line != loc / 128) ++ [new] } else s
  if (s.bank bn).failed then buffer s
  else
    match (s.bank bn).lines.find? fun x => x.line == loc / 128 with
    | some x => s.onBank bn fun b => { b with lines := (b.lines.filter fun y => y.line != loc / 128) ++ [{ x with dirty := x.dirty || dirty, key := key, compress := compress }] }
    | none =>
      match s.claimWay bn (loc / 128) with
      | some s => s.onBank bn fun b => { b with lines := b.lines ++ [new] }
      | none => buffer s

/-- Granules of a line that n bytes at a local address touch. -/
def granMask (loc n : Nat) : BitVec 8 :=
  BitVec.ofNat 8 ((List.range 8).foldl (fun a g => if g * 16 < loc % 128 + n ∧ loc % 128 < g * 16 + 16 then a + 2 ^ g else a) 0)
/-- Granules that n bytes at a local address cover in full (R51). -/
def granFull (loc n : Nat) : BitVec 8 :=
  BitVec.ofNat 8 ((List.range 8).foldl (fun a g => if loc % 128 ≤ g * 16 ∧ g * 16 + 16 ≤ loc % 128 + n then a + 2 ^ g else a) 0)

/-- A line is held in a way of its bank (R81). -/
def State.inBank (s : State) (sl loc : Nat) : Bool := (s.bank (bankOf sl loc)).lines.any fun b => b.line == loc / 128

/-- The bank can serve an access of an agent that acts in one step (R82, R84, R85): the line is held; or no miss register holds it, and a whole-line write finds a way, a register and a way are free, or a read that may bypass finds no entry for its line in the write-back buffer. -/
def State.bankTakes (s : State) (sl loc : Nat) (write whole bypass : Bool) : Bool :=
  let b := s.bank (bankOf sl loc)
  let room := (b.makeRoom s.gtc (loc / 128)).isSome
  b.failed || s.inBank sl loc
    || (!(b.misses.any fun m => m.line == loc / 128)
        && ((write && whole && room) || (decide (b.misses.length < 128) && room) || (!write && bypass && decide (128 ≤ b.misses.length) && !b.wbuf.any fun x => x.line == loc / 128)))

/-- The value of a read within one line at its home: bytes and whether a granule it touches is poisoned (R51, R52). The line is filled first if the bank does not hold it. (log 13) -/
def State.readHome (s : State) (part sl loc n : Nat) : State × List Byte × Bool :=
  let f := s.frame (frameKey sl loc)
  if f.dead then (s.deadRecord part sl loc false, List.replicate n 0, true)
  else
    let s := if s.resident sl loc then s else s.fillLine part sl loc
    (s, bytesGet s.mem (memKey sl loc) n, s.poisonOf (lineKey sl loc) &&& granMask loc n != 0)

/-- A line that a read has found is installed, or becomes the last used (R82, R84); a read that bypasses installs nothing (R85). -/
def State.installHome (s : State) (sl loc : Nat) (compress : Bool) : State :=
  let b := s.bank (bankOf sl loc)
  match b.lines.find? fun x => x.line == loc / 128 with
  | some x => s.touchLine sl loc x.key false x.compress
  | none =>
    if (s.frame (frameKey sl loc)).dead || b.misses.any (fun m => m.line == loc / 128) || decide (128 ≤ b.misses.length) || (b.makeRoom s.gtc (loc / 128)).isNone then s
    else s.touchLine sl loc ((s.frame (frameKey sl loc)).owner.getD 0) false compress

/-- A write within one line at its home (R51, R52): a full granule loses its poison; a write of all 128 bytes fetches nothing. (log 13) -/
def State.writeHome (s : State) (part sl loc key : Nat) (compress : Bool) (bs : List Byte) : State :=
  let f := s.frame (frameKey sl loc)
  let n := bs.length
  if f.dead then s.deadRecord part sl loc true
  else
    let k := lineKey sl loc
    let s := if n = 128 then { s with latent := Tab.erase s.latent k } else if s.resident sl loc then s else s.fillLine part sl loc
    let s := { s with mem := bytesSet s.mem (memKey sl loc) bs }
    let s := s.setPoison k (s.poisonOf k &&& ~~~(granFull loc n))
    s.touchLine sl loc key true compress

/-- The granules a run of bytes touches become poisoned, zero-filled on write-back (R51, R78); a line that the bank does not hold is filled first. -/
def State.poisonHome (s : State) (part sl loc key : Nat) (compress : Bool) (n : Nat) : State :=
  let f := s.frame (frameKey sl loc)
  if f.dead then s.deadRecord part sl loc true
  else
    let s := if s.resident sl loc then s else s.fillLine part sl loc
    (s.setPoison (lineKey sl loc) (s.poisonOf (lineKey sl loc) ||| granMask loc n)).touchLine sl loc key true compress

/-- A read by partition physical address of up to 128 bytes within one line. (log 61) -/
def State.readPa (s : State) (part pa n : Nat) (compress : Bool := false) : State × List Byte × Bool :=
  match s.homeOf part pa with
  | none => (s, List.replicate n 0, true)
  | some (sl, loc) =>
    let r := s.readHome part sl loc n
    (r.1.installHome sl loc compress, r.2)

/-- Bytes by partition physical address as they stand at their home. -/
def State.plainBytes (s : State) (part pa n : Nat) : List Byte :=
  match s.homeOf part pa with
  | none => List.replicate n 0
  | some (sl, loc) => bytesGet s.mem (memKey sl loc) n

/-- A write by partition physical address within one line. (log 61) -/
def State.writePa (s : State) (part pa key : Nat) (compress : Bool) (bs : List Byte) : State :=
  match s.homeOf part pa with
  | none => s
  | some (sl, loc) => s.writeHome part sl loc key compress bs

/-! ## Key checks (R39, R40) -/

/-- An access as the home slice sees it: partition, world, whether the world test passes anyway, key id, sealed leaf. -/
structure KeyReq where
  part   : Nat
  world  : BitVec 6
  pass   : Bool
  key    : Nat
  isSealed : Bool
  deriving DecidableEq, Repr

/-- A release of the frame of an address is under way (R41). (log 47) -/
def State.releasing (s : State) (sl loc : Nat) : Bool := (s.slice sl).releases.any fun r => r.1 == loc / 8192

/-- The owner that an access meets now: one accepted behind an MCFREL sees the released frame (R40, R41). (log 47) -/
def State.ownerOf (s : State) (sl loc : Nat) : Option Nat := if s.releasing sl loc then none else (s.frame (frameKey sl loc)).owner

/-- The key checks of R39 hold for a frame of a slice. A slot whose stamp equals the loss stamp does not take a quarantined frame: R39 names only a slot programmed before, R53 only one programmed after (DESIGN CHOICE, log 63). -/
def State.keyOk (s : State) (r : KeyReq) (sl loc : Nat) : Bool :=
  let k := s.keySlot sl r.key
  let f := s.frame (frameKey sl loc)
  k.valid && (r.pass || k.world == r.world) && (r.isSealed == k.weight)
    && (match s.ownerOf sl loc with
      | none => true
      | some o => o == r.key)
    && (match f.quarantined with
      | none => true
      | some st => decide (st < k.stamp))

/-- The first access that passes takes the frame (R40, R53); an integrity-lost frame is not taken, nor one whose release is under way. (log 72) -/
def State.takeFrame (s : State) (r : KeyReq) (sl loc : Nat) : State :=
  let f := s.frame (frameKey sl loc)
  if f.owner.isNone && f.lost.isNone && !s.releasing sl loc then s.onFrame (frameKey sl loc) fun f => { f with owner := some r.key, quarantined := none } else s

/-- The key checks at a home slice, with the frame taken when they pass. (log 72) -/
def State.keyCheck (s : State) (r : KeyReq) (pa : Nat) : State × Bool :=
  match s.homeOf r.part pa with
  | none => (s, false)
  | some (sl, loc) => if s.keyOk r sl loc then (s.takeFrame r sl loc, true) else (s, false)

/-! ## Translation (R58 to R68) -/

/-- The accesses that a translation distinguishes (R65 check 4). -/
inductive Need where
  | read | write | fetch
  deriving DecidableEq, Repr

/-- Why checks 3 to 5 of R65 fail; a PAGE carries its detail code and level. -/
inductive XFault where
  | page (dcode lvl : Nat)
  /-- A table entry cannot be read or marked yet: a commit holds its word reserved (R323), its frame is being released (R41), or its bank cannot take the access (R82 to R85). -/
  | held (w : Wait)
  | keyAlias
  | poison
  | perm
  | isSealed
  deriving DecidableEq, Repr

/-- A translation: physical address, key id, sealed and compressible bits of the leaf (R61). -/
structure Xlat where
  pa       : Nat
  key      : Nat
  isSealed : Bool
  compress : Bool
  deriving DecidableEq, Repr

/-- Shift of a level's index (R59). -/
def lvlShift (lvl : Nat) : Nat := 13 + 10 * lvl
/-- Index of a virtual address at a level (R59). -/
def lvlIndex (lvl va : Nat) : Nat := va / 2 ^ lvlShift lvl % (if lvl = 3 then 512 else 1024)

/-- A frame number that a walk may not name (R62): at or above the partition's size, or withdrawn. -/
def State.badFrame (s : State) (part fr : Nat) : Bool :=
  match s.homeOf part (8192 * fr) with
  | none => true
  | some (sl, loc) => (s.frame (frameKey sl loc)).withdrawn

/-- The format checks of R62 of an entry with V = 1. -/
def entryBad (lvl : Nat) (e : BitVec 64) : Bool :=
  let n := e.toNat
  if e.getLsbD 62 then
    lvl == 3 || bits n 5 0 != 0 || (lvl == 1 && bits n 22 13 != 0) || (lvl == 2 && bits n 32 13 != 0)
      || (e.getLsbD 52 && (e.getLsbD 12 || e.getLsbD 9))
  else lvl == 0 || bits n 61 52 != 0 || bits n 12 0 != 0

/-- Where a translation is made (R66, R67): a quadrant of a SIMT core, the TLB of a unit (of a SIMT core the second level), its walk-ahead TLB, a barrow engine's, or none kept. -/
inductive Tlb where
  | quad (u q : Nat)
  | core (u : Nat)
  | ahead (u : Nat)
  | barrow (sl eng : Nat)
  | keep
  deriving DecidableEq, Repr

/-- A request for a translation. -/
structure Req where
  part : Nat
  ptb  : BitVec 64
  priv : Priv
  need : Need
  tlb  : Tlb
  /-- A fill for a non-speculative access sets A (R64). -/
  setA : Bool := true
  /-- The write follows at once, so D is set with the translation (R64). -/
  setD : Bool := true
  /-- A barrow engine writes sealed pages (R45). -/
  sealedOk : Bool := false
  deriving DecidableEq, Repr

/-- The address-space identifier of a request (R58). -/
def Req.asid (r : Req) : Nat := r.ptb.toNat % 4096

/-- The entries that serve a TLB's lookups, its own last (R66): a quadrant and the walk-ahead TLB share the core's second level. -/
def State.tlbOf (s : State) (t : Tlb) : List TlbEntry :=
  match t with
  | .quad u q => (s.core u).tlb ++ Tab.get (s.core u).quadTlb q []
  | .core u => (s.core u).tlb
  | .ahead u => (s.core u).tlb ++ (s.core u).walkAhead
  | .barrow sl e => (Tab.get (s.slice sl).barrows e {}).tlb
  | .keep => []

/-- Entries that the TLB of a unit holds (R66). (log 21) -/
def tlbSize (u : Nat) : Nat := if kindOf u == .simt then 2048 else 256

/-- The last n elements of a list. -/
def lastN {α : Type} (n : Nat) (l : List α) : List α := l.drop (l.length - n)

/-- An entry translates an address in an address space (R58, R61, R66). -/
def TlbEntry.covers (e : TlbEntry) (asid va : Nat) : Bool := e.vpn == va / 2 ^ lvlShift e.level && (e.leaf.getLsbD 61 || e.asid == asid)

/-- A list of entries with a new one in place of those that cover an address; those used least recently leave beyond the size (log 21). -/
def keepEntry (n asid va : Nat) (e : TlbEntry) (l : List TlbEntry) : List TlbEntry := lastN n ((l.filter fun x => !x.covers asid va) ++ [e])

/-- A translation is kept where it was made, and in the second level behind it (R66, R67). (log 21) -/
def State.keepTlb (s : State) (t : Tlb) (asid va : Nat) (e : TlbEntry) : State :=
  match t with
  | .quad u q => s.onCore u fun c => { c with tlb := keepEntry (tlbSize u) asid va e c.tlb, quadTlb := Tab.modify c.quadTlb q [] (keepEntry 64 asid va e) }
  | .core u => s.onCore u fun c => { c with tlb := keepEntry (tlbSize u) asid va e c.tlb }
  | .ahead u => s.onCore u fun c => { c with tlb := keepEntry (tlbSize u) asid va e c.tlb, walkAhead := keepEntry 256 asid va e c.walkAhead }
  | .barrow sl k => s.onSlice sl fun x => { x with barrows := Tab.modify x.barrows k {} fun b => { b with tlb := keepEntry 256 asid va e b.tlb } }
  | .keep => s

/-- A table entry of a walk cache leads to an address in an address space. -/
def WalkEntry.covers (e : WalkEntry) (asid va : Nat) : Bool := e.asid == asid && e.vpn == va / 2 ^ lvlShift e.level

/-- The walk cache of the walker that serves a TLB (R66). -/
def State.walkCacheOf (s : State) (t : Tlb) : List WalkEntry :=
  match t with
  | .quad u _ | .core u | .ahead u => (s.core u).walkCache
  | .barrow sl _ => (s.slice sl).walkCache
  | .keep => []

/-- A list of table entries with a new one; the oldest beyond 64 leave (R66). -/
def keepWalk (e : WalkEntry) (l : List WalkEntry) : List WalkEntry := lastN 64 ((l.filter fun x => !(x.level == e.level && x.asid == e.asid && x.vpn == e.vpn)) ++ [e])

/-- A valid table entry enters its walker's cache (R63, R66). -/
def State.cacheWalk (s : State) (t : Tlb) (e : WalkEntry) : State :=
  match t with
  | .quad u _ | .core u | .ahead u => s.onCore u fun c => { c with walkCache := keepWalk e c.walkCache }
  | .barrow sl _ => s.onSlice sl fun x => { x with walkCache := keepWalk e x.walkCache }
  | .keep => s

/-- A reserved word makes an access wait (R323): writers for any reservation, readers for an exclusive one. -/
def Bank.holds (b : Bank) (pa n : Nat) (write : Bool) : Bool :=
  b.reserved.any fun r => (write || r.write) && decide (r.pa < pa + n) && decide (pa < r.pa + r.size)

/-- What makes an access at a home slice wait: a reserved word (R323), a release of the frame that is not done (R41, log 47), or a line that its bank cannot take now (R82, R84, R85). -/
def State.homeWait (s : State) (part pa n : Nat) (write bypass : Bool) : Option Wait :=
  match s.homeOf part pa with
  | none => none
  | some (sl, loc) =>
    if (s.bank (bankOf sl loc)).holds pa n write then some (.reserved (bankOf sl loc) pa n)
    else if s.releasing sl loc || !s.bankTakes sl loc write (n == 128) bypass then some (.line sl loc)
    else none

/-- A table entry as a walk reads it (R63): key-checked under key 0, not while its home makes it wait, and not poisoned. -/
def State.readEntry (s : State) (part pa : Nat) : State × Except XFault (BitVec 64) :=
  match s.keyCheck { part := part, world := 0, pass := true, key := 0, isSealed := false } pa with
  | (s, false) => (s, .error .keyAlias)
  | (s, true) =>
    match s.homeWait part pa 8 false true with
    | some w => (s, .error (.held w))
    | none =>
      match s.readPa part pa 8 with
      | (s, _, true) => (s, .error .poison)
      | (s, bs, false) => (s, .ok (BitVec.ofNat 64 (leNat bs)))

/-- A walk from the table at frame fr of a level down to a leaf (R59, R62, R63): the leaf, its level and the address of its entry. -/
def State.walk (s : State) (r : Req) (va : Nat) (lvl fr : Nat) : State × Except XFault (BitVec 64 × Nat × Nat) :=
  let pa := 8192 * fr + 8 * lvlIndex lvl va
  if fr < 1024 then (s, .error (.page 0x0A lvl))
  else
    match s.readEntry r.part pa with
    | (s, .error e) => (s, .error e)
    | (s, .ok e) =>
      if !e.getLsbD 63 then (s, .error (.page 0x0B lvl))
      else if entryBad lvl e then (s, .error (.page 0x09 lvl))
      else if s.badFrame r.part (bits e.toNat 51 13) then (s, .error (.page 0x0A lvl))
      else if e.getLsbD 62 then (s, .ok (e, lvl, pa))
      else
        match lvl with
        | 0 => (s, .error (.page 0x09 0))
        | l + 1 => State.walk (s.cacheWalk r.tlb { level := l + 1, asid := r.asid, vpn := va / 2 ^ lvlShift (l + 1), next := bits e.toNat 51 13 }) r va l (bits e.toNat 51 13)

/-- The checks on a translation with a leaf (R62, R65 checks 4 and 5): the byte lies below the size, the access is permitted, and no store meets a sealed page. -/
def State.leafCheck (s : State) (r : Req) (va : Nat) (leaf : BitVec 64) (lvl : Nat) : Except XFault Xlat :=
  let pa := bits leaf.toNat 51 13 * 8192 + va % 2 ^ lvlShift lvl
  if (s.part r.part).size ≤ pa then .error (.page 0x0A lvl)
  else
    let ok := match r.need with
      | .read => leaf.getLsbD 11
      | .write => leaf.getLsbD 10
      | .fetch => leaf.getLsbD 9
    if !ok || (r.priv == .u && !leaf.getLsbD 8) then .error .perm
    else if r.need == Need.write && leaf.getLsbD 52 && !r.sealedOk then .error .isSealed
    else .ok { pa := pa, key := bits leaf.toNat 60 53, isSealed := leaf.getLsbD 52, compress := leaf.getLsbD 12 }

/-- Conditional update of a leaf at its home: A and D bits are set if the entry still holds the value (R64). (log 24) -/
def State.setLeafBits (s : State) (part pa : Nat) (old new : BitVec 64) : State :=
  let (s, bs, _) := s.readPa part pa 8
  if old != new && leNat bs == old.toNat then s.writePa part pa 0 false (leBytes 8 new.toNat) else s

/-- Whether an invalidation covers an entry (R361): kind 0 a page, 1 an address space, 2 everything. -/
def Invalidation.covers (v : Invalidation) (e : TlbEntry) : Bool :=
  match v.kind with
  | 0 => v.items.any fun x => e.covers x.2 x.1
  | 1 => v.items.any fun x => e.asid == x.2 && !e.leaf.getLsbD 61
  | _ => true

/-- A TLBINV of the partition that covers an entry is in progress: the entry is used and not kept (R69, log 44). -/
def State.invalidating (s : State) (part : Nat) (e : TlbEntry) : Bool := s.cores.any fun x => x.2.invals.any fun v => v.covers e && s.partOf x.1 == some part

/-- The walk has found a leaf (R64, R66): its A bit, and for a write that passes its checks its D bit, are set, and the leaf is kept. -/
def State.useLeaf (s : State) (r : Req) (va : Nat) (leaf : BitVec 64) (lvl pa : Nat) : State × Except XFault Xlat :=
  let marked := setBit leaf 7 true
  let passes := match s.leafCheck r va leaf lvl with
    | .ok _ => true
    | .error _ => false
  let new := if r.setD && r.need == Need.write && passes then setBit marked 6 true else marked
  match (if r.setA && new != leaf then s.homeWait r.part pa 8 true false else none) with
  | some w => (s, .error (.held w))
  | none =>
    let (s, leaf) := if r.setA then (s.setLeafBits r.part pa leaf new, new) else (s, leaf)
    let e : TlbEntry := { vpn := va / 2 ^ lvlShift lvl, level := lvl, asid := r.asid, leaf := leaf }
    (if s.invalidating r.part e then s else s.keepTlb r.tlb r.asid va e, s.leafCheck r va leaf lvl)

/-- A translation by a walk from a table (R59 to R65). -/
def State.viaTable (s : State) (r : Req) (va lvl fr : Nat) : State × Except XFault Xlat :=
  match s.walk r va lvl fr with
  | (s, .error e) => (s, .error e)
  | (s, .ok (leaf, lvl, pa)) => s.useLeaf r va leaf lvl pa

/-- A held copy of a leaf serves a request (R64, R68): its checks pass with it, and no bit is due, which a first use or a first write sets. (log 21) -/
def State.heldLeaf (s : State) (r : Req) (va : Nat) : Option (TlbEntry × Xlat) :=
  match ((s.tlbOf r.tlb).filter fun e => e.covers r.asid va).getLast? with
  | none => none
  | some e =>
    match s.leafCheck r va e.leaf e.level with
    | .error _ => none
    | .ok x => if r.setA && (!e.leaf.getLsbD 7 || (r.setD && r.need == Need.write && !e.leaf.getLsbD 6)) then none else some (e, x)

/-- The deepest cached table that a walk may start from (R66): the level of that table and its frame. (log 21) -/
def State.cachedTable (s : State) (r : Req) (va : Nat) : Option (Nat × Nat) :=
  (List.range 3).findSome? fun l => ((s.walkCacheOf r.tlb).find? fun e => e.level == l + 1 && e.covers r.asid va).map fun e => (l, e.next)

/-- Checks 3 to 5 of R65 for an address of the global space: from a held leaf, else by a walk from a cached table, else from the root. What a held copy refuses is looked up again, so that a widened entry needs no invalidation (R68). Translation off carries level 3, which the spec leaves open (DESIGN CHOICE, log 64). (log 21) -/
def State.translate (s : State) (r : Req) (va : Nat) : State × Except XFault Xlat :=
  if !r.ptb.getLsbD 12 then (s, .error (.page 0x08 3))
  else
    match s.heldLeaf r va with
    | some (e, x) => (s.keepTlb r.tlb r.asid va e, .ok x)
    | none =>
      let root (s : State) : State × Except XFault Xlat :=
        if s.badFrame r.part (bits r.ptb.toNat 51 13) then (s, .error (.page 0x0A 3)) else s.viaTable r va 3 (bits r.ptb.toNat 51 13)
      match s.cachedTable r va with
      | none => root s
      | some (lvl, fr) =>
        match s.viaTable r va lvl fr with
        | (s', .ok x) => (s', .ok x)
        | (_, .error _) => root s

/-- The trap of a failed check 3 to 5 at an address; a PAGE is delivered as a batch (R65, R419). -/
def XFault.trap (f : XFault) (addr : Nat) : Trap :=
  match f with
  | .page d _ => { cause := 0x0E, dcode := d, addr := addr }
  | .held _ => { cause := 0x0E, addr := addr }
  | .keyAlias => { cause := 0x10, dcode := 0x0C, addr := addr }
  | .poison => { cause := 0x13, dcode := 0x0C, addr := addr }
  | .perm => { cause := 0x0F, addr := addr }
  | .isSealed => { cause := 0x11, addr := addr }

/-! ## Outgoing accesses (R371) -/

/-- An access of the outgoing queue that writes and is not performed. -/
def Access.writes (a : Access) : Bool :=
  match a.kind with
  | .store => !a.performed
  | .amo _ => !a.performed
  | _ => false

/-- Two accesses touch a common byte. -/
def Access.overlaps (a : Access) (pa n : Nat) : Bool := decide (a.pa < pa + n) && decide (pa < a.pa + a.size)

/-- The die-to-die links from one die to another in the order of R80, each with its direction (R15, R16): along the row to the column, then along the column; horizontal link m of a row is 3 row + m, the vertical link of a column 6 + column. -/
def dieLegs (a b : Nat) : List (Nat × Bool) :=
  let ca := a % 4
  let cb := b % 4
  (if ca ≤ cb then (List.range (cb - ca)).map fun k => (3 * (a / 4) + ca + k, true) else (List.range (ca - cb)).map fun k => (3 * (a / 4) + ca - 1 - k, false))
    ++ (if a / 4 = b / 4 then [] else [(6 + cb, decide (a / 4 < b / 4))])

/-- The outputs of R79: a bank port is numbered as its bank, and then follow the arcade uplinks, the slice I/O ports, the way down to an arcade and to a slice, a channel of a link, and the core side and the booth side of an arcade crossbar. (log 14) -/
def uplinkPort (sl a : Nat) : Nat := 128 + 2 * sl + a
@[inherit_doc uplinkPort] def sliceOutPort (sl : Nat) : Nat := 192 + sl
@[inherit_doc uplinkPort] def downlinkPort (sl a : Nat) : Nat := 224 + 2 * sl + a
@[inherit_doc uplinkPort] def sliceInPort (sl : Nat) : Nat := 288 + sl
@[inherit_doc uplinkPort] def linkPort (link : Nat) (up : Bool) (chan : Nat) : Nat := 320 + 8 * link + (if up then 4 else 0) + chan % 4
@[inherit_doc uplinkPort] def corePort (u : Nat) : Nat := 400 + u
@[inherit_doc uplinkPort] def boothPort (sl a : Nat) : Nat := 1000 + 2 * sl + a
@[inherit_doc uplinkPort] def firmwarePort : Nat := 1100

/-- The arbiters that input k of an output's n inputs passes, each with the input it takes there (R87): an output of more than four inputs is served by a tree of arbiters of four. (log 14) -/
def treeRoute (port n k : Nat) : List (Nat × Nat) :=
  let node (depth i : Nat) : Nat := 4096 * (16 * depth + i) + port
  if n ≤ 4 then [(port, k % 4)]
  else if n ≤ 16 then [(node 1 (k / 4), k % 4), (port, k / 4)]
  else [(node 2 (k / 4), k % 4), (node 1 (k / 16), k / 4 % 4), (port, k / 16)]

/-- Inputs of a die crossbar (R79): the 30 agent ports, the ports of up to three links, and the firmware complex, which joins at die 0. (log 14) -/
def uplinkInput (sl a : Nat) : Nat := 2 * (sl % 4) + a
@[inherit_doc uplinkInput] def bankInput (bank : Nat) : Nat := 8 + bank % 16
@[inherit_doc uplinkInput] def sliceInput (sl : Nat) : Nat := 24 + sl % 4
@[inherit_doc uplinkInput] def linkInput : Nat := 30
@[inherit_doc uplinkInput] def firmwareInput : Nat := 33

/-- The ways over the links between two dies, in the partition's channels, then to an output of the last die; a channel of a link has at most four inputs (R80, R91). (log 14) -/
def State.dieRoute (s : State) (part a b from_ out : Nat) : List (Nat × Nat) :=
  match dieLegs a b with
  | [] => treeRoute out 34 from_
  | legs => legs.zipIdx.map (fun (l, k) => (linkPort l.1 l.2 (Tab.get (s.part part).channels l.1 0), (if k = 0 then from_ else linkInput) % 4)) ++ treeRoute out 34 linkInput

/-- The arbiters that a packet of a unit passes on its way to an output of a die (R79, R80). (log 14) -/
def State.sendRoute (s : State) (u part die out : Nat) : List (Nat × Nat) :=
  let sl := sliceOf u
  let a := arcadeOf u
  match kindOf u with
  | .simt => treeRoute (uplinkPort sl a) 10 (posOf u) ++ s.dieRoute part (sl / 4) die (uplinkInput sl a) out
  | .booth => treeRoute (uplinkPort sl a) 10 9 ++ s.dieRoute part (sl / 4) die (uplinkInput sl a) out
  | .host => treeRoute (sliceOutPort sl) 8 ((u - 0xE00) % 4) ++ s.dieRoute part (sl / 4) die (sliceInput sl) out
  | _ => s.dieRoute part 0 die firmwareInput out

/-- The arbiters that a request of a unit passes on its way to a bank (R79, R80). -/
def State.requestRoute (s : State) (u part bank : Nat) : List (Nat × Nat) := s.sendRoute u part (bank / 16) bank

/-- The arbiters that the response passes on its way back (R79, R80); at the core side of an arcade crossbar the uplink is input 10. (log 14) -/
def State.responseRoute (s : State) (u part bank : Nat) : List (Nat × Nat) :=
  let sl := sliceOf u
  let a := arcadeOf u
  let down (out : Nat) : List (Nat × Nat) := s.dieRoute part (bank / 16) (sl / 4) (bankInput bank) out
  match kindOf u with
  | .simt => down (downlinkPort sl a) ++ treeRoute (corePort u) 11 10
  | .booth => down (downlinkPort sl a) ++ treeRoute (boothPort sl a) 11 10
  | .host => down (sliceInPort sl)
  | _ => []

/-- An access of the queue changed by its id. -/
def Core.onAccess (c : Core) (id : Nat) (f : Access → Access) : Core := { c with outq := mapIf (fun a : Access => a.id == id) f c.outq }
/-- An access leaves the queue. -/
def Core.dropAccess (c : Core) (id : Nat) : Core := { c with outq := c.outq.filter fun a : Access => a.id != id }

/-- The partition tag of a packet (R89): stamped by the firewall of the slice that it leaves; a function core's names its function's partition. -/
def State.stamp (s : State) (k : Packet) : Packet :=
  match kindOf k.unit with
  | .func => { k with tag := (s.func (k.unit - 0x1600)).part }
  | .root | .other => k
  | _ => { k with tag := (s.slice (sliceOf k.unit)).part }

/-- The firewall of a slice has failed, and nothing passes it (R27, R460). (log 52) -/
def State.noFirewall (s : State) (sl : Nat) : Bool := s.lostUnits.contains (0x1520 + sl)

/-- The firewall lets a packet leave a slice (R90): the slice has a partition, is not in drain, and its mask names the destination. -/
def State.mayLeave (s : State) (sl dst : Nat) : Bool := (s.slice sl).part.isSome && !(s.slice sl).drain && (s.slice sl).fwctl.getLsbD (32 + dst) && !s.noFirewall sl

/-- The firewall lets a packet enter a slice (R90): the tag is valid and the slice's partition's, and the slice is not in drain. The root core acts for the package and not for a partition, and is no sender that it checks. -/
def State.mayEnter (s : State) (k : Packet) (sl : Nat) : Bool :=
  match kindOf k.unit with
  | .root | .other => true
  | _ => k.tag.isSome && k.tag == (s.slice sl).part && !(s.slice sl).drain && !s.noFirewall sl

/-- The firewalls let a packet pass from a unit to a slice (R90, R94). -/
def State.firewall (s : State) (u dst : Nat) : Bool :=
  let k := s.stamp { input := 0, cls := 1, unit := u, id := 0 }
  (match kindOf u with
    | .func | .root | .other => true
    | _ => s.mayLeave (sliceOf u) dst) && s.mayEnter k dst

/-- The firewall of a slice answers a packet with a negative response (R90). -/
def State.deny (s : State) (k : Packet) (sl : Nat) : State := s.onCore k.unit fun c => c.onAccess k.id fun a => { a with arrived := true, refused := true, deniedBy := sl }

/-- The firewall of a slice counts a refusal, and its one record goes to the sender's kernel (R90). (log 73) -/
def State.noteDenied (s : State) (sl part : Nat) (r : Record) : State :=
  (s.onSlice sl fun k => { k with deny := min (k.deny + 1) 0xFFFFFFFF }).post part r

/-- A packet of a partition in reset (R93). -/
def State.resetting (s : State) (k : Packet) : Bool := (s.part ((s.partOf k.unit).getD 0)).draining

/-- The notify of a thread reaches its function core (R395): the order of arrival is that of the list. -/
def State.arriveNotify (s : State) (k : Packet) : State :=
  let mine (n : Notify) : Bool := n.unit == k.unit && 32 * n.stripe + n.lane == k.id
  { s with funcs := s.funcs.map fun e : Nat × Function =>
      (e.1, { e.2 with notifies := (e.2.notifies.filter fun n => !mine n) ++ (e.2.notifies.filter mine).map fun n => { n with there := true } }) }

/-- An arbiter stands before a port that a slice owns, on the way in (R79, R92). -/
def ownPort (p : Nat) : Bool := decide (p % 4096 < 128) || (decide (224 ≤ p % 4096) && decide (p % 4096 < 320))

/-- A packet goes on to the next arbiter of its route, or arrives: a request at its bank, a response at its core (R79, R80, R87). The firewall of the slice that it enters checks it before it meets a port of that slice (R90, R92); a packet of a partition in reset is discarded on arrival, its response at the firewall (R93). (log 14) -/
def State.passOn (s : State) (k : Packet) : State :=
  let gone (s : State) : State := s.onCore k.unit fun c => c.dropAccess k.id
  let dst := if k.response then sliceOf k.unit else k.slice
  match k.route with
  | (p, input) :: rest =>
    let push (s : State) : State := { s with ports := Tab.modify s.ports p {} fun x => { x with packets := x.packets ++ [{ k with input := input, route := rest, inside := k.inside || ownPort p }] } }
    if !ownPort p || k.inside then push s
    else if k.response && s.inDrain k.unit then gone s
    else if s.resetting k || s.mayEnter k dst then push s
    else s.deny k dst
  | [] => if k.notify then s.arriveNotify k
    else if k.response then s.onCore k.unit fun c => c.onAccess k.id fun a => { a with back := true }
    else if s.resetting k then gone s
    else s.onCore k.unit fun c => c.onAccess k.id fun a => { a with arrived := true }

/-- An access enters the outgoing queue of a core, and its packet the fabric on the way to its bank (R79, R86, R87, R371). (log 14) -/
def State.enqueue (s : State) (u part : Nat) (a : Access) : State :=
  let id := (s.core u).nextId
  let s := s.onCore u fun c => { c with outq := c.outq ++ [{ a with id := id }], nextId := id + 1 }
  match s.homeOf part a.pa with
  | none => s
  | some (sl, loc) =>
    let k : Packet := { input := 0, cls := if a.kind == .pref then 0 else 1, unit := u, id := id, slice := sl, route := s.requestRoute u part (bankOf sl loc) }
    s.passOn (if kindOf u == .func then s.stamp k else k)

/-- The response of a performed access sets out for its core, past the firewall of its home slice (R80, R86, R90). -/
def State.respond (s : State) (u part bank id : Nat) : State :=
  let k : Packet := { input := 0, cls := 3, unit := u, id := id, slice := bank / 4, response := true, tag := (s.slice (bank / 4)).part, route := s.responseRoute u part bank }
  match kindOf u with
  | .simt | .booth | .host => if s.resetting k || s.mayLeave (bank / 4) (sliceOf u) then s.passOn k else s.deny k (bank / 4)
  | _ => s.passOn k

/-- A store updates a present line of the core cache (R121). -/
def CoreLine.store (l : CoreLine) (pa : Nat) (bs : List Byte) : CoreLine :=
  if l.pa ≤ pa ∧ pa + bs.length ≤ l.pa + 128 then
    let o := pa - l.pa
    { l with bytes := l.bytes.take o ++ bs ++ l.bytes.drop (o + bs.length), poison := l.poison &&& ~~~(granFull pa bs.length) }
  else l

/-! ## Ends of threads -/

/-- Entries of a join stack that are complete are removed with those above them, the lowest complete entry first found from the top; the released lanes go on behind their JOIN (R333). -/
def settleJoins (fuel : Nat) (t : Stripe) : Stripe :=
  match fuel with
  | 0 => t
  | n + 1 =>
    match t.join.findIdx? fun e => e.mask &&& ~~~e.arrived == 0 with
    | none => t
    | some i =>
      let gone := t.join.take (i + 1)
      let free := gone.foldl (fun m e => m ||| e.arrived) 0
      let t := { t with join := t.join.drop (i + 1) }
      settleJoins n (t.mapLanes fun l th => if free.getLsbD l && th.status == .joined then { th with status := .ready, pc := th.pc + 8 } else th)

/-- A lane leaves every join-stack mask (R333, R385); the stack is listed top first. -/
def Stripe.leaveJoins (t : Stripe) (l : Nat) : Stripe :=
  settleJoins 9 { t with join := t.join.map fun e => { e with mask := setBit e.mask l false, arrived := setBit e.arrived l false } }

/-- A rendezvous without a participant that has not arrived (R146). -/
def Rendezvous.drop (r : Rendezvous) (i l : Nat) : Rendezvous :=
  { r with parts := r.parts.filter fun p => p != (i, l) || r.arrivals.any fun a => a.stripe == i && a.lane == l }

/-- A thread drops out of every open rendezvous that waits for it (R144, R146). -/
def Core.dropFromGangs (c : Core) (i l : Nat) : Core := { c with gangs := c.gangs.map fun (g, r) => (g, r.drop i l) }

/-- A stop of the matrix engine that an exiting thread has not taken goes to the fault queue (R177). -/
def State.postDeferred (s : State) (u i l : Nat) : State :=
  let th := s.thread u i l
  match th.deferred with
  | none => s
  | some d =>
    let s := s.attribute u { stamp := d.stamp, src := d.src, cause := d.cause }
    let s := s.post ((s.partOf u).getD 0)
      { stamp := d.stamp, src := d.src, cause := d.cause, dcode := d.dcode, ppriv := th.priv.code, world := (s.worldOf u i l).toNat, pc := d.pc, addr := d.addr,
        lane := l, stripe := i, part := (s.partOf u).getD 0, ctx := (s.ctxOf u i l).toNat, det := d.det }
    (s.onThread u i l fun t => { t with deferred := none }).onCore u fun c => { c with matrix := { c.matrix with stop := none } }

/-- EXIT of a thread (R144): pending register writes go, its waits at bank ports end (R123), gangs are left, blocks return to the pool, an open transaction is discarded (R328). -/
def State.exitThread (s : State) (u i l : Nat) : State :=
  let s := s.postDeferred u i l
  let s := { s with granq := s.granq.filter fun g => !(g.unit == u && g.stripe == i && g.lane == l) }
  let n := (List.range 12).countP fun b => (s.thread u i l).blocks.getLsbD b
  let s := s.onCore u fun c =>
    let c : Core := { c with outq := c.outq.filterMap fun (a : Access) =>
      if a.stripe == i && a.lane == l then (if a.kind == AccKind.load && a.booth.isNone then none else some { a with dst := none }) else some a }
    let c := c.dropFromGangs i l
    { c with team := c.team.map fun t => { t with used := t.used - n } }
  s.onStripe u i fun t =>
    let t := t.onLane l fun th => { th with status := .exited, gangs := 0, blocks := 0, tx := {}, empty := 0 }
    let t := t.leaveJoins l
    let group := setBit t.xgroup l false
    if t.xin then (if group &&& ~~~t.xback == 0 then { t with xin := false, xgroup := 0, xback := 0 } else { t with xgroup := group }) else t

/-! ## The word being issued -/

/-- The stripe that issues. -/
def State.curStripe (s : State) : Stripe := s.stripe s.cur.unit s.cur.stripe
/-- A thread of the stripe that issues. -/
def State.curThread (s : State) (l : Nat) : Thread := s.curStripe.lane l
/-- The lanes of the issue group, ascending. -/
def State.curLanes (s : State) : List Nat := maskLanes s.cur.lanes
/-- The kind of the core that issues. -/
def State.curKind (s : State) : Kind := kindOf s.cur.unit
/-- The state with the issuing stripe changed. -/
def State.onCur (s : State) (f : Stripe → Stripe) : State := s.onStripe s.cur.unit s.cur.stripe f
/-- The TLB that the lanes of the issuing group use (R66). -/
def State.curTlb (s : State) : Tlb := if s.curKind == .simt then .quad s.cur.unit s.cur.quad else .core s.cur.unit
/-- The privilege of the issue group: its lanes share it. -/
def State.curPriv (s : State) : Priv := (s.curThread ((s.curLanes.head?).getD 0)).priv
/-- The home core of the issuing thread. -/
def State.curHome (s : State) : Nat := (s.home s.cur.unit s.cur.stripe 0).1
/-- The partition of the issuing core. -/
def State.curPart (s : State) : Nat := (s.partOf s.cur.unit).getD 0

/-- The active lanes of a full word (R212). -/
def State.active (s : State) (h : Hdr) : List Nat := s.curLanes.filter fun l => guardVal h (s.curThread l).preds

/-- A group of the turn stops (R139); the turn ends when both have stopped. -/
def State.stopGroup (s : State) : State :=
  s.onCore s.cur.unit fun c =>
    { c with quads := Tab.modify c.quads s.cur.quad {} fun q =>
        match q.turn with
        | none => q
        | some t =>
          let t := if s.cur.groupB then { t with b := 0 } else { t with a := 0 }
          if t.a = 0 ∧ t.b = 0 then { q with turn := none } else { q with turn := some t } }

/-- The turn ends: a word blocked, trapped, parked or yielded (R140). The other group first completes its word of the same clk. -/
def State.endTurn (s : State) : State :=
  s.onCore s.cur.unit fun c => { c with quads := Tab.modify c.quads s.cur.quad {} fun q =>
    { q with turn := q.turn.bind fun t =>
        if (if s.cur.groupB then t.a != 0 && decide (t.ca < t.cb) else t.b != 0 && decide (t.cb < t.ca)) then
          some (if s.cur.groupB then { t with b := 0, ending := true } else { t with a := 0, ending := true })
        else none } }

/-- Every lane of the stripe in serial mode whose overflow counts are all zero leaves the mode at the end of the turn (R381). -/
def Stripe.leaveSerial (t : Stripe) : Stripe :=
  if t.serial && ((List.range 32).all fun l => (t.lane l).status == .exited || (t.lane l).status == .absent || (t.lane l).lov == 0) then { t with serial := false } else t

/-- The run count of a lane after a word (R138). -/
def runAfter (b : Bool) (n : Nat) : Nat := if b then 0 else n + 1

/-- A lane moves behind the word it has executed (R138, R212). -/
def Thread.advance (t : Thread) (b : Bool) : Thread := { t with pc := t.pc + 8, run := runAfter b t.run, done := false, begun := false }

/-- The word is complete for its group: f changes each lane, then each lane moves on (R212); B = 1 stops the group (R139). -/
def State.finish (s : State) (b : Bool) (f : Nat → Thread → Thread) : State :=
  let s := s.onCur fun t => t.mapLanes fun l th => if s.cur.lanes.getLsbD l then (f l th).advance b else th
  if b then (s.onCur Stripe.leaveSerial).stopGroup else s

/-- The word is complete and changes no lane but its PC. -/
def State.finishPlain (s : State) (b : Bool) : State := s.finish b fun _ t => t

/-- Lanes of a stripe leave the groups of its open turn; the turn ends when both are empty. -/
def Core.leaveTurn (c : Core) (i : Nat) (out : LaneMask) : Core :=
  { c with quads := c.quads.map fun (q, x) => (q, match x.turn with
      | none => x
      | some t =>
        if t.stripe != i then x
        else
          let a := t.a &&& ~~~out
          let b := t.b &&& ~~~out
          { x with turn := if a = 0 ∧ b = 0 then none else some { t with a := a, b := b } }) }

/-! ## Stops of a word -/

/-- Why a word does not complete: a precise trap, missing pages, a wait, or a word that sends a booth thread home (R65, R70, R140, R388). -/
inductive Stop where
  | trap (t : Trap)
  | page (es : List BatchEntry)
  | block (w : Wait)
  | goHome
  deriving DecidableEq, Repr

/-- The result of a check. -/
abbrev Chk (α : Type) := Except Stop α

/-- The waits that make lanes, and not the stripe, unready (R139). -/
def Wait.laneWise (w : Wait) : Bool :=
  match w with
  | .regs _ | .barrier _ _ _ | .ring _ _ _ | .gang _ | .take _ => true
  | _ => false

/-- A word blocks (R140): its lanes keep their PC, the turn ends, and the lanes or the stripe wait. -/
def State.blockWord (s : State) (w : Wait) : State :=
  let s := if w.laneWise then
      s.onCur fun t => t.mapLanes fun l th => if s.cur.lanes.getLsbD l then { th with status := .waiting w } else th
    else s.onCur fun t => { t with wait := some w }
  (s.onCur Stripe.leaveSerial).endTurn

/-- The turn ends behind a word that holds threads of its group (R140). -/
def State.holdTurn (s : State) : State := (s.onCur Stripe.leaveSerial).endTurn

/-- A word blocks part-way (R123, R244, R258): lanes that reach it later begin it apart. -/
def State.blockPart (s : State) (w : Wait) : State :=
  (s.onCur fun t => t.mapLanes fun l th => if s.cur.lanes.getLsbD l then { th with begun := true } else th).blockWord w

/-- A booth thread is sent home with the state it had before the word (R388, R389): it is marked and stops. -/
def State.goHome (s : State) : State :=
  (s.onCore s.cur.unit fun c => { c with guests := Tab.modify c.guests s.cur.stripe { home := 0, stripe := 0, lane := 0, joinPc := 0 } fun g => { g with returning := true } }).endTurn

/-! ## Taking a trap and returning from it (R420 to R425) -/

/-- The level a trap is taken to (R421). -/
def Priv.target (p : Priv) : Priv := if p == .h then .h else .k

/-- sr.cbase of a level (R420). -/
def Core.cbaseAt (c : Core) (p : Priv) : BitVec 64 := if p == .h then c.cbaseH else c.cbase
/-- sr.xrec of a level (R420). -/
def Core.xrecAt (c : Core) (p : Priv) : BitVec 64 := if p == .h then c.xrecH else c.xrec

/-- sr.txcause of an abort (R326): XC, UCODE, ENTRY and CAUSE. -/
def txCause (cause : Nat) (xc ucode entry : Nat := 0) : BitVec 32 := BitVec.ofNat 32 (xc * 2 ^ 24 + ucode * 2 ^ 16 + entry * 2 ^ 4 + cause)

/-- A thread's transaction aborts (R325): the checkpoint returns, all full, the PC goes to the abort target, what it waits for no longer holds it, the run count restarts. Without a transaction nothing happens. -/
def Thread.abortTx (t : Thread) (cause : BitVec 32) : Thread :=
  if t.tx.depth = 0 then t
  else
    let t' := t.tx.check.g.zipIdx.foldl (fun x (v, r) => x.setReg r v) t
    { t' with preds := t.tx.check.preds, pc := t.tx.target, run := 0, done := false, begun := false, tx := {}, txcause := cause,
              status := match t.status with
                | .waiting _ => .ready
                | x => x }

/-- The operation word of TXEND.g at a rendezvous. -/
def txendKey : Nat := 0x211

/-- Pending producers of a thread into g0 to g31 write nothing (R325): loads, gang results and queued reads of the till lose their destination. A thread that TXEND.g holds has not arrived there once its transaction has aborted: it arrives after its retry (R320). -/
def Core.dropProducers (c : Core) (i l : Nat) (all : Bool) : Core :=
  { c with outq := c.outq.map (fun (a : Access) => if a.stripe == i && a.lane == l && (all || (a.dst.getD 0) < 32) then { a with dst := none } else a),
           matrix := { c.matrix with queue := mapIf (fun o : MatOp => o.op == 5 && o.stripe == i) (fun o => { o with masked := setBit o.masked l true }) c.matrix.queue },
           gangs := c.gangs.map fun (g, r) => (g, { r with arrivals := (r.arrivals.filter fun x => r.word != txendKey || x.stripe != i || x.lane != l).map fun x : Arrival =>
             if x.stripe == i && x.lane == l then { x with dst := if all || x.dst < 32 then 128 else x.dst, pd := 7 } else x }) }

/-- A lane's transaction aborts wherever it runs (R325). -/
def State.abortLane (s : State) (u i l : Nat) (cause : BitVec 32) : State :=
  if (s.thread u i l).tx.depth = 0 then s
  else
    let (hu, hi, hl) := s.home u i l
    (s.onCore hu fun c => c.dropProducers hi hl false).onThread u i l fun t => t.abortTx cause

/-- Every lane of the issuing group with an open transaction aborts it with cause FAULT (R326, R328). -/
def State.abortFault (s : State) (xc : Nat) : State :=
  (maskLanes s.cur.lanes).foldl (fun s l => s.abortLane s.cur.unit s.cur.stripe l (txCause 5 xc)) s

/-- Lanes enter the handler: the registers of a trap, the level and the PC (R421). -/
def Thread.enter (t : Thread) (tr : Trap) (base : BitVec 64) : Thread :=
  { t with xpc := t.pc, pPriv := t.priv, cause := BitVec.ofNat 8 tr.cause, dcode := BitVec.ofNat 8 tr.dcode, priv := t.priv.target, status := .ready, done := false, begun := false,
           pc := BitVec.ofNat 52 (bits base.toNat 51 12 * 4096 + 128 * tr.cause) }

/-- Where the record of a trap of a thread goes, and the translation that its write asks for (R421). -/
def State.recordVa (s : State) (u i l : Nat) : Nat := bits ((s.core u).xrecAt (s.thread u i l).priv.target).toNat 51 10 * 1024 + 64 * i
@[inherit_doc State.recordVa]
def State.recordReq (s : State) (u i l : Nat) : Req := { part := (s.partOf u).getD 0, ptb := s.ptbOf u i l, priv := .k, need := .write, tlb := .core u }

/-- The trap would be a double trap (R423). -/
def State.isDouble (s : State) (u i l : Nat) : Bool := (s.stripe u i).xin && (s.thread u i l).priv == (s.thread u i l).priv.target

/-- What the write of a trap record waits for (R41, R82, R323): the trap is taken after it. A double trap writes none, and a firmware core takes none. -/
def State.recordWait (s : State) (u i l : Nat) : Option Wait :=
  if kindOf u == .func || kindOf u == .root || kindOf u == .booth || s.isDouble u i l then none
  else match (s.translate (s.recordReq u i l) (s.recordVa u i l % 2 ^ 52)).2 with
  | .error (.held w) => some w
  | .error _ => none
  | .ok x => match s.homeOf ((s.partOf u).getD 0) x.pa with
    | some (sl, loc) => if s.releasing sl loc then some (.line sl loc) else none
    | none => none

/-- The trap-record write: translated at K under the current sr.ptb and key-checked (R421); none when a check fails, among them that of the control window, which takes no store of 64 bytes (R444). -/
def State.writeTrapRecord (s : State) (u i l pc : Nat) (tr : Trap) : Option State :=
  let part := (s.partOf u).getD 0
  let va := s.recordVa u i l
  let r := s.recordReq u i l
  match s.translate { r with setD := false } (va % 2 ^ 52) with
  | (_, .error _) => none
  | (s', .ok x) =>
    let (s'', ok) := s'.keyCheck { part := part, world := s.worldOf u i l, pass := kindOf u == .host, key := x.key, isSealed := x.isSealed } x.pa
    if !ok || decide (x.pa < 0x800000) then none
    else
      let bs := ({ s.threadRecord u i l pc tr with async := false } : Record).bytes
      let s'' := (s''.translate r (va % 2 ^ 52)).1.onCore u fun c => { c with lines := c.lines.map fun ln => ln.store x.pa bs }
      some (s''.enqueue u part { id := 0, kind := .store, stripe := i, lane := l, ppriv := Priv.code .k, pa := x.pa, va := va, key := x.key, size := 64, data := leNat bs,
                                  world := s.worldOf u i l, pass := kindOf u == .host, isSealed := x.isSealed, compress := x.compress })

/-- TAKING A PRECISE TRAP (R421, R423): the lanes of a group of a stripe at an address enter the handler of their level, after the record is written; a second trap in the handler, or a record that cannot be written, ends them. On the root core and the function cores it leaves the core for its crash (R419). -/
def State.takeTrap (s : State) (u i : Nat) (group : LaneMask) (pc : VAddr) (tr : Trap) : State :=
  let th := s.thread u i tr.lane
  let die (s : State) : State :=
    let s := s.attribute u (s.threadRecord u i tr.lane pc.toNat tr)
    let s := (s.post ((s.partOf u).getD 0) (s.threadRecord u i tr.lane pc.toNat { tr with dcode := 0x28 })).onCore u fun c => c.leaveTurn i group
    ((maskLanes group).foldl (fun s l => s.exitThread u i l) s).onStripe u i Stripe.leaveSerial
  if s.isDouble u i tr.lane then die s
  else
    match s.writeTrapRecord u i tr.lane pc.toNat tr with
    | none => die s
    | some s' =>
      let base := (s'.core u).cbaseAt th.priv.target
      let s' := (s'.attribute u (s.threadRecord u i tr.lane pc.toNat tr)).onCore u fun c => c.leaveTurn i group
      s'.onStripe u i fun t =>
        { t with xin := true, xgroup := group, xback := 0, wait := none }.mapLanes fun l x => if group.getLsbD l then x.enter tr base else x

/-- ERET of lanes (R422, R357): each continues at XPC at PPRIV; it is ready once every lane of the trapping group is back or gone, and XIN then clears. -/
def Stripe.eret (t : Stripe) (lanes : LaneMask) (b : Bool) : Stripe :=
  let back := t.xback ||| lanes
  let clear := t.xgroup &&& ~~~back == 0
  let t := t.mapLanes fun l x => if lanes.getLsbD l then { x with pc := x.xpc, priv := x.pPriv, run := runAfter b x.run } else x
  if t.xin then (if clear then { t with xin := false, xgroup := 0, xback := 0 } else { t with xback := back }) else t

/-- An interrupt of a host-core thread (R424): CAUSE and DCODE 0, level K, the PC at BASE * 4096, no record. -/
def State.takeInterrupt (s : State) (u i : Nat) : State :=
  let base := (s.core u).cbaseAt .k
  s.onStripe u i fun t =>
    Stripe.onLane { t with xin := true, xgroup := 1, xback := 0, wait := none } 0 fun x =>
      { x with xpc := x.pc, pPriv := x.priv, cause := 0, dcode := 0, priv := .k, status := .ready, pc := BitVec.ofNat 52 (bits base.toNat 51 12 * 4096) }

/-! ## Batches (R70 to R76) -/

/-- A batch entry as its 64 bits (R74). (log 64) -/
def BatchEntry.bits (e : BatchEntry) : Nat :=
  e.idx * 2 ^ 55 + e.lvl * 2 ^ 53 + e.va / 8192 * 8192 + e.lane * 2 ^ 8 + (if e.xf then 4 else 0) + (if e.wr then 2 else 0) + (if e.rd then 1 else 0)

/-- Entries merged by page in the order of their first appearance (R72); at most cap entries, of which entries already present may still be merged. -/
def mergeEntries (cap : Nat) (acc : List BatchEntry) (es : List BatchEntry) : List BatchEntry :=
  match es with
  | [] => acc
  | e :: r =>
    if acc.any fun a => a.va / 8192 == e.va / 8192 then
      mergeEntries cap (acc.map fun a => if a.va / 8192 == e.va / 8192 then { a with xf := a.xf || e.xf, wr := a.wr || e.wr, rd := a.rd || e.rd } else a) r
    else if acc.length < cap then mergeEntries cap (acc ++ [e]) r
    else mergeEntries cap acc r

/-- Groups of eight entries, zero-filled (R73). -/
def groups8 (fuel : Nat) (l : List Nat) : List (List Nat) :=
  match fuel, l with
  | 0, _ => []
  | _, [] => []
  | n + 1, l => (l.take 8 ++ List.replicate (8 - l.length) 0) :: groups8 n (l.drop 8)

/-- One batch of a stripe (R73): the header record and its continuation records; SEQ rises. -/
def State.postBatch (s : State) (u i l pc : Nat) (es : List BatchEntry) (len reason : Nat) : State :=
  let seq := (s.stripe u i).seq % 256
  let first := ((es.head?).map BatchEntry.va).getD 0
  let word := BitVec.ofNat 32 (es.length + seq * 2 ^ 8 + i * 2 ^ 16 + len * 2 ^ 20 + reason * 2 ^ 29)
  let r := s.threadRecord u i l pc { cause := 0x0E, dcode := ((es.head?).map BatchEntry.dcode).getD 0x0B, addr := first, det := [word] }
  let cont := groups8 (es.length + 1) (es.map BatchEntry.bits)
  let s := s.post ((s.partOf u).getD 0) { r with ncont := cont.length, cont := cont }
  s.onStripe u i fun t => { t with seq := t.seq + 1 }

/-- The stripe parks at the faulting word after a batch (R70). -/
def State.park (s : State) : State := (s.onCur fun t => { t with parked := true }).endTurn

/-! ## Finishing a checked word -/

/-- Run-ahead is supplied by the file that knows every word (R70, R71): entries, length and end reason. -/
abbrev RunAhead := State → List BatchEntry → List BatchEntry × Nat × Nat

/-- Run-ahead of a fetch or of a word inside a transaction: none (R76). -/
def noRunAhead : RunAhead := fun _ es => (es, 0, 4)

/-- A precise trap of lanes of a stripe (R328, R419, R421): their open transactions abort with cause FAULT, and they enter their handler. On a function core or the root core it is the core's crash (R455, R456). -/
def State.trapGroup (s : State) (u i : Nat) (group : LaneMask) (pc : VAddr) (tr : Trap) : State :=
  match kindOf u with
  | .func => { s with agenda := .event (.functionCoreCrash (u - 0x1600) (BitVec.ofNat 8 tr.cause) pc) :: s.agenda }
  | .root => { s with agenda := .event (.rootCoreCrash (BitVec.ofNat 8 tr.cause) pc) :: s.agenda }
  | _ => ((maskLanes group).foldl (fun s l => s.abortLane u i l (txCause 5 tr.cause)) s).takeTrap u i group pc tr

/-- A word stops (R70, R140, R388, R421). On a function core or the root core a trap is its crash (R419, R455, R456). On a booth every trap and every missing page sends the thread home (R389). Inside a transaction a trap or a page first aborts it (R76, R328). (log 18) -/
def State.stopWord (ra : RunAhead) (s : State) (st : Stop) : State :=
  let inTx := s.curLanes.any fun l => decide (0 < (s.curThread l).tx.depth)
  if s.curKind == .booth && (match st with
    | .block _ => false
    | _ => true) then
    let note (xc : Nat) (f : Guest → Guest) : State :=
      if inTx then ((s.abortFault xc).onCore s.cur.unit fun c => { c with guests := c.guests.map fun (k, g) => (k, if k == s.cur.stripe then f g else g) }).goHome
      else s.goHome
    match st with
    | .trap tr => note tr.cause fun g => { g with trap := some tr, trapPc := s.cur.pc.toNat }
    | .page es => note 0x0E fun g => { g with pages := es, trapPc := s.cur.pc.toNat }
    | _ => s.goHome
  else
    match st with
    | .goHome => s
    | .block w => s.blockWord w
    | .trap tr =>
      -- Group A has trapped in the same clk: the word of group B is not performed (R421).
      if s.curStripe.xin && s.curStripe.xgroup &&& s.cur.lanes == 0 then s.endTurn
      else match s.recordWait s.cur.unit s.cur.stripe tr.lane with
      | some w => s.blockWord w
      | none => (s.trapGroup s.cur.unit s.cur.stripe s.cur.lanes s.cur.pc tr).endTurn
    | .page es =>
      let l := ((es.head?).map (·.lane)).getD 0
      let (es', len, why) := if inTx then (es, 0, 4) else ra s es
      let s' := s.postBatch s.cur.unit s.cur.stripe l s.cur.pc.toNat es' len why
      (s'.abortFault 0x0E).park

end Sys2Proof.Machine
end

