-- ==== Sys2Proof/Machine/Compute.lean ====
section
/-!
DEFINITION. The words that compute in registers: one description of a word's reads, checks and writes (Sem), and its execution in the order of R271.
-/
namespace Sys2Proof.Machine

/-- What a compute word does to a lane. -/
structure Sem where
  /-- Source registers, each with its empty policy: true is trap (R153, R213). -/
  srcs  : List (Nat × Bool)
  /-- Destination registers. -/
  dsts  : List Nat := []
  /-- Predicates read and written, for run-ahead (R71). -/
  preds : List Nat := []
  predDsts : List Nat := []
  /-- The check of NPACK and NUNPACK: true is a bad format (R300, R301). -/
  badFormat : Thread → Bool := fun _ => false
  /-- The lane after the word, from its old state and the state to be changed (R216). -/
  apply : (old new : Thread) → Thread

/-- Registers a word names. -/
def Sem.named (m : Sem) : List Nat := m.srcs.map (·.1) ++ m.dsts

/-- Both halves of a dual word in one lane (R221): every source is read before any destination is written. -/
def Sem.both (a b : Sem) : Sem :=
  { srcs := a.srcs ++ b.srcs, dsts := a.dsts ++ b.dsts, preds := a.preds ++ b.preds, predDsts := a.predDsts ++ b.predDsts,
    badFormat := fun t => a.badFormat t || b.badFormat t, apply := fun old new => b.apply old (a.apply old new) }

/-- XREG with detail "register" at the lowest lane that names an unmapped block (R150); a booth sends a word that names g32 to g127 home (R388). rs gives the registers each lane's word names. -/
def State.checkMapped (s : State) (lanes : List Nat) (rs : Nat → List Nat) : Chk Unit :=
  if s.curKind == .booth then (if lanes.any fun l => (rs l).any fun r => decide (32 ≤ r) then .error .goHome else .ok ())
  else
    match lanes.find? fun l => (rs l).any fun r => !(s.curThread l).mapped s.curKind r with
    | some l => .error (.trap { cause := 0x05, dcode := 0x24, lane := l })
    | none => .ok ()

/-- The empty tests of the sources (R153): the trap policy governs and names the lowest lane and its first such register; then the block policy waits. -/
def State.checkSources (s : State) (lanes : List Nat) (srcs : Nat → List (Nat × Bool)) : Chk Unit :=
  match lanes.findSome? fun l => ((srcs l).find? fun x => x.2 && (s.curThread l).empty.getLsbD x.1).map fun x => (l, x.1) with
  | some (l, r) => .error (.trap { cause := 0x06, lane := l, det := [BitVec.ofNat 32 r] })
  | none =>
    let held := lanes.flatMap fun l => ((srcs l).filter fun x => (s.curThread l).empty.getLsbD x.1).map fun x => (l, x.1)
    if held.isEmpty then .ok () else .error (.block (.regs held))

/-- The wait for an empty destination (R153). -/
def State.checkDests (s : State) (lanes : List Nat) (dsts : Nat → List Nat) : Chk Unit :=
  let held := lanes.flatMap fun l => ((dsts l).filter fun r => (s.curThread l).empty.getLsbD r).map fun r => (l, r)
  if held.isEmpty then .ok () else .error (.block (.regs held))

/-- The checks of R271 steps 2 to 4, then the format checks of NPACK and NUNPACK; m gives each lane's word. -/
def State.checkSem (s : State) (lanes : List Nat) (m : Nat → Sem) : Chk Unit :=
  match s.checkMapped lanes fun l => (m l).named with
  | .error e => .error e
  | .ok _ =>
    match s.checkSources lanes fun l => (m l).srcs with
    | .error e => .error e
    | .ok _ =>
      match s.checkDests lanes fun l => (m l).dsts with
      | .error e => .error e
      | .ok _ =>
        match lanes.find? fun l => (m l).badFormat (s.curThread l) with
        | some l => .error (.trap { cause := 0x02, dcode := 0x09, lane := l })
        | none => .ok ()

/-- A compute word is performed (R271, R272): every active lane takes the word's effect, and every lane of the group moves on. -/
def State.compute (s : State) (h : Hdr) (m : Sem) : State :=
  match s.checkSem (s.active h) fun _ => m with
  | .error e => s.stopWord noRunAhead e
  | .ok _ => s.finish h.b fun _ t => if guardVal h t.preds then m.apply t t else t

end Sys2Proof.Machine
end

