-- ==== Sys2Proof/Machine/Integer.lean ====
section
/-!
DEFINITION. Integer arithmetic, shifts, logic, bit fields, compares, selects, moves and pointers (R275 to R288).
-/
namespace Sys2Proof.Machine

/-! ## Shapes of words -/

/-- One destination register from the lane's old state. -/
def semReg (srcs : List (Nat × Bool)) (dst : BitVec 7) (f : Thread → Word) : Sem :=
  { srcs := srcs, dsts := [dst.toNat], apply := fun old new => new.setReg dst.toNat (f old) }

/-- A destination pair from the lane's old state. -/
def semPair (srcs : List (Nat × Bool)) (dst : BitVec 7) (f : Thread → DWord) : Sem :=
  { srcs := srcs, dsts := [dst.toNat, dst.toNat + 1], apply := fun old new => new.setPair dst.toNat (f old) }

/-- A destination predicate from the lane's old state. -/
def semPred (srcs : List (Nat × Bool)) (p : Nat) (f : Thread → Bool) : Sem :=
  { srcs := srcs, predDsts := [p], apply := fun old new => new.setPred p (f old) }

/-- A source register with its policy. -/
def srcOf (r : BitVec 7) (trap : Bool) : List (Nat × Bool) := [(r.toNat, trap)]
/-- A source pair with its policy (R213). -/
def srcPair (r : BitVec 7) (trap : Bool) : List (Nat × Bool) := [(r.toNat, trap), (r.toNat + 1, trap)]

/-- A two-source R form: MA and MB act on the type ty (R214). -/
def semAB (f : FmtR) (ty : Nat) (op : Word → Word → Word) : Sem :=
  semReg (srcOf f.sa f.fa ++ srcOf f.sb f.fb) f.dst fun t => op (modify f.ma ty (t.reg f.sa.toNat)) (modify f.mb ty (t.reg f.sb.toNat))

/-- A two-source R form whose SB takes no modifier. -/
def semAb (f : FmtR) (ty : Nat) (op : Word → Word → Word) : Sem :=
  semReg (srcOf f.sa f.fa ++ srcOf f.sb f.fb) f.dst fun t => op (modify f.ma ty (t.reg f.sa.toNat)) (t.reg f.sb.toNat)

/-- A three-source R form. -/
def semABC (f : FmtR) (ty : Nat) (op : Word → Word → Word → Word) : Sem :=
  semReg (srcOf f.sa f.fa ++ srcOf f.sb f.fb ++ srcOf f.sc f.fc) f.dst fun t =>
    op (modify f.ma ty (t.reg f.sa.toNat)) (modify f.mb ty (t.reg f.sb.toNat)) (t.reg f.sc.toNat)

/-- A one-source R form. -/
def semA (f : FmtR) (ty : Nat) (op : Word → Word) : Sem :=
  semReg (srcOf f.sa f.fa) f.dst fun t => op (modify f.ma ty (t.reg f.sa.toNat))

/-- An I form: the immediate stands for gSB, with no modifier (R210, R276). -/
def semI (f : FmtI) (op : Word → Word → Word) : Sem :=
  semReg (srcOf f.sa f.fa) f.dst fun t => op (t.reg f.sa.toNat) (immWord f.imm)

/-! ## Values -/

/-- An operation on each pair of elements, wrapped to the element width (R272, R275). -/
def perElem (ty : Nat) (op : Int → Int → Int) (a b : Word) : Word :=
  let w := tyWidth ty
  BitVec.ofNat 32 (joinElems w ((List.range (32 / w)).map fun i => wrapNat (op (elemInt ty (elem a w i)) (elemInt ty (elem b w i))) w))

/-- An operation on each element, wrapped. -/
def perElem1 (ty : Nat) (op : Int → Int) (a : Word) : Word := perElem ty (fun x _ => op x) a a

/-- IADD (R275). -/
def iaddVal (ty : Nat) (a b : Word) : Word := perElem ty (· + ·) a b
/-- ISUB (R275). -/
def isubVal (ty : Nat) (a b : Word) : Word := perElem ty (· - ·) a b
/-- IMUL (R275). -/
def imulVal (ty : Nat) (a b : Word) : Word := perElem ty (· * ·) a b
/-- IMIN (R275). -/
def iminVal (ty : Nat) (a b : Word) : Word := perElem ty (fun x y => if x ≤ y then x else y) a b
/-- IMAX (R275). -/
def imaxVal (ty : Nat) (a b : Word) : Word := perElem ty (fun x y => if x ≤ y then y else x) a b
/-- IMULH (R275). -/
def imulhVal (ty : Nat) (a b : Word) : Word := BitVec.ofNat 32 (wrapNat (elemInt ty a.toNat * elemInt ty b.toNat) 64 / 2 ^ 32)
/-- IMAD (R275). -/
def imadVal (ty : Nat) (a b c : Word) : Word :=
  let w := tyWidth ty
  BitVec.ofNat 32 (joinElems w ((List.range (32 / w)).map fun i =>
    wrapNat (elemInt ty (elem a w i) * elemInt ty (elem b w i) + elemInt ty (elem c w i)) w))
/-- IMADW (R275). -/
def imadwVal (ty : Nat) (a b : Word) (c : DWord) : DWord := BitVec.ofNat 64 (wrapNat (elemInt ty a.toNat * elemInt ty b.toNat + c.toNat) 64)
/-- ISAT (R275): the clamp to the type's range. -/
def isatVal (sub : Bool) (ty : Nat) (a b : Word) : Word :=
  let w := tyWidth ty
  let lo : Int := if tySigned ty then -(2 ^ (w - 1)) else 0
  let hi : Int := if tySigned ty then 2 ^ (w - 1) - 1 else 2 ^ w - 1
  perElem ty (fun x y => clampInt (if sub then x - y else x + y) lo hi) a b

/-- The four shifts of R279. -/
inductive ShiftOp where
  | shl | shr | shra | rot
  deriving DecidableEq, Repr

/-- One element of width w shifted by n (R279). -/
def shiftElem (op : ShiftOp) (w x n : Nat) : Nat :=
  match op with
  | .shl => if n < w then x * 2 ^ n % 2 ^ w else 0
  | .shr => if n < w then x / 2 ^ n else 0
  | .shra => wrapNat (sext x w / 2 ^ (if n < w then n else w)) w
  | .rot => (x * 2 ^ (n % w) + x / 2 ^ (w - n % w)) % 2 ^ w

/-- A shift per element, each count the element of b read unsigned (R279). -/
def shiftVal (op : ShiftOp) (ty : Nat) (a b : Word) : Word :=
  let w := tyWidth ty
  BitVec.ofNat 32 (joinElems w ((List.range (32 / w)).map fun i => shiftElem op w (elem a w i) (elem b w i)))

/-- SHW (R280): form 0 .l, 1 .r, 3 .ra. -/
def shwVal (q : Nat) (a b c : Word) : Word :=
  let v := b.toNat * 2 ^ 32 + a.toNat
  let n := c.toNat % 64
  match q with
  | 0 => BitVec.ofNat 32 (v * 2 ^ n / 2 ^ 32)
  | 1 => BitVec.ofNat 32 (v / 2 ^ n)
  | _ => BitVec.ofNat 32 (wrapNat (sext v 64 / 2 ^ n) 64)

/-- LUT3 (R281). -/
def lut3Val (t : BitVec 8) (a b c : Word) : Word :=
  laneMask fun k => tableBit t (a.getLsbD k) (b.getLsbD k) (c.getLsbD k)

/-- POPC (R282). -/
def popcVal (a : Word) : Word := BitVec.ofNat 32 ((List.range 32).countP fun k => a.getLsbD k)
/-- CLZ (R282). -/
def clzVal (a : Word) : Word := BitVec.ofNat 32 (if a = 0 then 32 else 31 - Nat.log2 a.toNat)
/-- BREV (R282). -/
def brevVal (a : Word) : Word := laneMask fun k => a.getLsbD (31 - k)

/-- Position of a field word (R283). -/
def fieldPos (w : Word) : Nat := w.toNat % 256
/-- Length of a field word (R283). -/
def fieldLen (w : Word) : Nat := min (w.toNat / 256 % 256) 32

/-- BFX (R283). -/
def bfxVal (ty : Nat) (a fw : Word) : Word :=
  let p := fieldPos fw
  let l := fieldLen fw
  let v : Nat := if tySigned ty then wrapNat (sext a.toNat 32 / 2 ^ p) l else a.toNat / 2 ^ p % 2 ^ l
  if l = 0 then 0 else if tySigned ty then BitVec.ofInt 32 (sext v l) else BitVec.ofNat 32 v

/-- BFI (R283). -/
def bfiVal (a b fw : Word) : Word :=
  let p := fieldPos fw
  let l := fieldLen fw
  laneMask fun k => if p ≤ k ∧ k < p + l then b.getLsbD (k - p) else a.getLsbD k

/-- DOT4 and DOT8 (R278): element width w, signedness of a by the type, of b by Q[0], saturation by Q[1]. -/
def dotVal (w ty : Nat) (q : BitVec 3) (a b c : Word) : Word :=
  let s : Int := sext c.toNat 32 + ((List.range (32 / w)).map fun i =>
    (elemInt ty (elem a w i)) * (if q.getLsbD 0 then sext (elem b w i) w else (elem b w i : Nat))).sum
  BitVec.ofNat 32 (wrapNat (if q.getLsbD 1 then clampInt s (-(2 ^ 31)) (2 ^ 31 - 1) else s) 32)

/-- LEA (R287). -/
def leaVal (ty sh : Nat) (a : DWord) (b : Word) : DWord :=
  a + (if ty = 0 then b.signExtend 64 else b.setWidth 64) * BitVec.ofNat 64 (2 ^ sh)

/-- PTRMK (R288). -/
def ptrmkVal (q : Nat) (a : DWord) (b : Word) : DWord :=
  let off := a.toNat % 2 ^ 52
  BitVec.ofNat 64 (q * 2 ^ 61 + (if q = 1 ∨ q = 2 then b.toNat % 512 * 2 ^ 52 else 0) + off)

/-- PTRFLD (R288). -/
def ptrfldVal (q : Nat) (a : DWord) : Word :=
  match q with
  | 0 => BitVec.ofNat 32 (ptrSpace a.toNat)
  | 1 => BitVec.ofNat 32 (ptrRank a.toNat)
  | 2 => BitVec.ofNat 32 (ptrOff a.toNat)
  | _ => BitVec.ofNat 32 (bits a.toNat 51 32)

/-! ## Descriptions -/

/-- IADDC and ISUBB (R277): carry-in from SC, carry-out to Q. -/
def semCarry (op : Word → Word → Bool → Word × Bool) (f : FmtR) : Sem :=
  { srcs := srcOf f.sa f.fa ++ srcOf f.sb f.fb, dsts := [f.dst.toNat], preds := [f.sc.toNat % 8], predDsts := [f.q.toNat],
    apply := fun old new =>
      let r := op (modify f.ma 1 (old.reg f.sa.toNat)) (modify f.mb 1 (old.reg f.sb.toNat)) (carryIn old.preds (f.sc.toNat % 8))
      (new.setReg f.dst.toNat r.1).setPred f.q.toNat r.2 }

/-- IMADW (R275). -/
def semImadw (f : FmtR) : Sem :=
  semPair (srcOf f.sa f.fa ++ srcOf f.sb f.fb ++ srcPair f.sc f.fc) f.dst fun t =>
    imadwVal f.ty.toNat (modify f.ma f.ty.toNat (t.reg f.sa.toNat)) (modify f.mb f.ty.toNat (t.reg f.sb.toNat)) (t.pair f.sc.toNat)

/-- SEL (R285). -/
def semSel (f : FmtR) : Sem :=
  { semAB f 0 (fun a _ => a) with
    preds := [f.sc.toNat % 8]
    apply := fun old new => new.setReg f.dst.toNat
      (if old.pred (f.sc.toNat % 8) then modBits f.ma (old.reg f.sa.toNat) else modBits f.mb (old.reg f.sb.toNat)) }

/-- PLUT (R286). -/
def semPlut (f : FmtR) : Sem :=
  { semPred [] (f.dst.toNat % 8) (fun t => tableBit f.table (t.pred (f.sa.toNat % 8)) (t.pred (f.sb.toNat % 8)) (t.pred (f.sc.toNat % 8))) with
    preds := [f.sa.toNat % 8, f.sb.toNat % 8, f.sc.toNat % 8] }

/-- ICMP (R284). -/
def semIcmp (f : FmtR) : Sem :=
  semPred (srcOf f.sa f.fa ++ srcOf f.sb f.fb) (f.dst.toNat % 8) fun t =>
    icmpHolds f.q.toNat f.ty.toNat (modify f.ma f.ty.toNat (t.reg f.sa.toNat)) (modify f.mb f.ty.toNat (t.reg f.sb.toNat))

/-- The I form of ICMP (R284). -/
def semIcmpI (f : FmtI) : Sem :=
  semPred (srcOf f.sa f.fa) (f.dst.toNat % 8) fun t => icmpHolds f.q.toNat f.ty.toNat (t.reg f.sa.toNat) (immWord f.imm)

/-- LEA (R287). -/
def semLea (f : FmtR) : Sem :=
  semPair (srcPair f.sa f.fa ++ srcOf f.sb f.fb) f.dst fun t => leaVal f.ty.toNat f.q.toNat (t.pair f.sa.toNat) (t.reg f.sb.toNat)

/-- The I form of LEA (R287). -/
def semLeaI (f : FmtI) : Sem :=
  semPair (srcPair f.sa f.fa) f.dst fun t => leaVal f.ty.toNat f.q.toNat (t.pair f.sa.toNat) (immWord f.imm)

/-- PTRMK (R288): SB is read only for codes 1 and 2. -/
def semPtrmk (f : FmtR) : Sem :=
  let ranked := f.q == 1 || f.q == 2
  semPair (srcPair f.sa f.fa ++ (if ranked then srcOf f.sb f.fb else [])) f.dst fun t =>
    ptrmkVal f.q.toNat (t.pair f.sa.toNat) (t.reg f.sb.toNat)

/-- PTRFLD (R288). -/
def semPtrfld (f : FmtR) : Sem := semReg (srcPair f.sa f.fa) f.dst fun t => ptrfldVal f.q.toNat (t.pair f.sa.toNat)

/-- MOVI (R285). -/
def semMovi (f : FmtL) : Sem := semReg [] f.dst fun _ => f.imm
/-- MOVH (R285). -/
def semMovh (f : FmtL) : Sem := semPair [] f.dst fun _ => pairVal 0 f.imm

/-! ## What each word does to a lane -/

/-- IADD (R275). -/
def wordIadd (f : FmtR) : Sem := semAB f f.ty.toNat (iaddVal f.ty.toNat)
/-- IADD, I form (R276). -/
def wordIaddI (f : FmtI) : Sem := semI f (iaddVal f.ty.toNat)
/-- ISUB (R275). -/
def wordIsub (f : FmtR) : Sem := semAB f f.ty.toNat (isubVal f.ty.toNat)
/-- ISUB, I form (R276). -/
def wordIsubI (f : FmtI) : Sem := semI f (isubVal f.ty.toNat)
/-- IADDC (R277). -/
def wordIaddc (f : FmtR) : Sem := semCarry addCarry f
/-- ISUBB (R277). -/
def wordIsubb (f : FmtR) : Sem := semCarry subBorrow f
/-- IMUL (R275). -/
def wordImul (f : FmtR) : Sem := semAB f f.ty.toNat (imulVal f.ty.toNat)
/-- IMUL, I form (R276). -/
def wordImulI (f : FmtI) : Sem := semI f (imulVal f.ty.toNat)
/-- IMULH (R275). -/
def wordImulh (f : FmtR) : Sem := semAB f f.ty.toNat (imulhVal f.ty.toNat)
/-- IMAD (R275). -/
def wordImad (f : FmtR) : Sem := semABC f f.ty.toNat (imadVal f.ty.toNat)
/-- IMADW (R275). -/
def wordImadw (f : FmtR) : Sem := semImadw f
/-- IMIN (R275). -/
def wordImin (f : FmtR) : Sem := semAB f f.ty.toNat (iminVal f.ty.toNat)
/-- IMIN, I form (R276). -/
def wordIminI (f : FmtI) : Sem := semI f (iminVal f.ty.toNat)
/-- IMAX (R275). -/
def wordImax (f : FmtR) : Sem := semAB f f.ty.toNat (imaxVal f.ty.toNat)
/-- IMAX, I form (R276). -/
def wordImaxI (f : FmtI) : Sem := semI f (imaxVal f.ty.toNat)
/-- IABS (R275). -/
def wordIabs (f : FmtR) : Sem := semA f f.ty.toNat (perElem1 f.ty.toNat fun x => x.natAbs)
/-- INEG (R275). -/
def wordIneg (f : FmtR) : Sem := semA f f.ty.toNat (perElem1 f.ty.toNat fun x => -x)
/-- ISAT (R275). -/
def wordIsat (f : FmtR) : Sem := semAB f f.ty.toNat (isatVal (f.q == 1) f.ty.toNat)
/-- SHL (R279). -/
def wordShl (f : FmtR) : Sem := semAb f f.ty.toNat (shiftVal .shl f.ty.toNat)
/-- SHL, I form (R279). -/
def wordShlI (f : FmtI) : Sem := semI f (shiftVal .shl f.ty.toNat)
/-- SHR (R279). -/
def wordShr (f : FmtR) : Sem := semAb f f.ty.toNat (shiftVal .shr f.ty.toNat)
/-- SHR, I form (R279). -/
def wordShrI (f : FmtI) : Sem := semI f (shiftVal .shr f.ty.toNat)
/-- SHRA (R279). -/
def wordShra (f : FmtR) : Sem := semAb f f.ty.toNat (shiftVal .shra f.ty.toNat)
/-- SHRA, I form (R279). -/
def wordShraI (f : FmtI) : Sem := semI f (shiftVal .shra f.ty.toNat)
/-- ROT (R279). -/
def wordRot (f : FmtR) : Sem := semAb f f.ty.toNat (shiftVal .rot f.ty.toNat)
/-- ROT, I form (R279). -/
def wordRotI (f : FmtI) : Sem := semI f (shiftVal .rot f.ty.toNat)
/-- SHW (R280). -/
def wordShw (f : FmtR) : Sem := semReg (srcOf f.sa f.fa ++ srcOf f.sb f.fb ++ srcOf f.sc f.fc) f.dst fun t =>
  shwVal f.q.toNat (modBits f.ma (t.reg f.sa.toNat)) (modBits f.mb (t.reg f.sb.toNat)) (t.reg f.sc.toNat)
/-- AND (R281). -/
def wordAnd (f : FmtR) : Sem := semAB f 0 (· &&& ·)
/-- AND, I form (R281). -/
def wordAndI (f : FmtI) : Sem := semI f (· &&& ·)
/-- OR (R281). -/
def wordOr (f : FmtR) : Sem := semAB f 0 (· ||| ·)
/-- OR, I form (R281). -/
def wordOrI (f : FmtI) : Sem := semI f (· ||| ·)
/-- XOR (R281). -/
def wordXor (f : FmtR) : Sem := semAB f 0 (· ^^^ ·)
/-- XOR, I form (R281). -/
def wordXorI (f : FmtI) : Sem := semI f (· ^^^ ·)
/-- ANDN (R281). -/
def wordAndn (f : FmtR) : Sem := semAB f 0 fun a b => a &&& ~~~b
/-- ANDN, I form (R281). -/
def wordAndnI (f : FmtI) : Sem := semI f fun a b => a &&& ~~~b
/-- LUT3 (R281). -/
def wordLut3 (f : FmtR) : Sem := semABC f 0 (lut3Val f.table)
/-- POPC (R282). -/
def wordPopc (f : FmtR) : Sem := semA f 0 popcVal
/-- CLZ (R282). -/
def wordClz (f : FmtR) : Sem := semA f 0 clzVal
/-- BREV (R282). -/
def wordBrev (f : FmtR) : Sem := semA f 0 brevVal
/-- BFX (R283). -/
def wordBfx (f : FmtR) : Sem := semAb f f.ty.toNat (bfxVal f.ty.toNat)
/-- BFI (R283). -/
def wordBfi (f : FmtR) : Sem := semABC f 0 bfiVal
/-- DOT4 (R278). -/
def wordDot4 (f : FmtR) : Sem := semABC f f.ty.toNat (dotVal 8 f.ty.toNat f.q)
/-- DOT8 (R278). -/
def wordDot8 (f : FmtR) : Sem := semABC f f.ty.toNat (dotVal 4 f.ty.toNat f.q)
/-- ICMP (R284). -/
def wordIcmp (f : FmtR) : Sem := semIcmp f
/-- ICMP, I form (R284). -/
def wordIcmpI (f : FmtI) : Sem := semIcmpI f
/-- SEL (R285). -/
def wordSel (f : FmtR) : Sem := semSel f
/-- MOV (R285). -/
def wordMov (f : FmtR) : Sem := semA f 0 id
/-- MOVI (R285). -/
def wordMovi (f : FmtL) : Sem := semMovi f
/-- MOVH (R285). -/
def wordMovh (f : FmtL) : Sem := semMovh f
/-- LEA (R287). -/
def wordLea (f : FmtR) : Sem := semLea f
/-- LEA, I form (R287). -/
def wordLeaI (f : FmtI) : Sem := semLeaI f
/-- PTRMK (R288). -/
def wordPtrmk (f : FmtR) : Sem := semPtrmk f
/-- PTRFLD (R288). -/
def wordPtrfld (f : FmtR) : Sem := semPtrfld f
/-- PLUT (R286). -/
def wordPlut (f : FmtR) : Sem := semPlut f

/-! ## Meanings -/

/-- IADD (R275, R271). -/
def execIadd (f : FmtR) (s : State) : Host.Outcome State Fault Refusal := .next (s.compute f.hdr (wordIadd f))
/-- IADD, I form (R276, R271). -/
def execIaddI (f : FmtI) (s : State) : Host.Outcome State Fault Refusal := .next (s.compute f.hdr (wordIaddI f))
/-- ISUB (R275, R271). -/
def execIsub (f : FmtR) (s : State) : Host.Outcome State Fault Refusal := .next (s.compute f.hdr (wordIsub f))
/-- ISUB, I form (R276, R271). -/
def execIsubI (f : FmtI) (s : State) : Host.Outcome State Fault Refusal := .next (s.compute f.hdr (wordIsubI f))
/-- IADDC (R277, R271). -/
def execIaddc (f : FmtR) (s : State) : Host.Outcome State Fault Refusal := .next (s.compute f.hdr (wordIaddc f))
/-- ISUBB (R277, R271). -/
def execIsubb (f : FmtR) (s : State) : Host.Outcome State Fault Refusal := .next (s.compute f.hdr (wordIsubb f))
/-- IMUL (R275, R271). -/
def execImul (f : FmtR) (s : State) : Host.Outcome State Fault Refusal := .next (s.compute f.hdr (wordImul f))
/-- IMUL, I form (R276, R271). -/
def execImulI (f : FmtI) (s : State) : Host.Outcome State Fault Refusal := .next (s.compute f.hdr (wordImulI f))
/-- IMULH (R275, R271). -/
def execImulh (f : FmtR) (s : State) : Host.Outcome State Fault Refusal := .next (s.compute f.hdr (wordImulh f))
/-- IMAD (R275, R271). -/
def execImad (f : FmtR) (s : State) : Host.Outcome State Fault Refusal := .next (s.compute f.hdr (wordImad f))
/-- IMADW (R275, R271). -/
def execImadw (f : FmtR) (s : State) : Host.Outcome State Fault Refusal := .next (s.compute f.hdr (wordImadw f))
/-- IMIN (R275, R271). -/
def execImin (f : FmtR) (s : State) : Host.Outcome State Fault Refusal := .next (s.compute f.hdr (wordImin f))
/-- IMIN, I form (R276, R271). -/
def execIminI (f : FmtI) (s : State) : Host.Outcome State Fault Refusal := .next (s.compute f.hdr (wordIminI f))
/-- IMAX (R275, R271). -/
def execImax (f : FmtR) (s : State) : Host.Outcome State Fault Refusal := .next (s.compute f.hdr (wordImax f))
/-- IMAX, I form (R276, R271). -/
def execImaxI (f : FmtI) (s : State) : Host.Outcome State Fault Refusal := .next (s.compute f.hdr (wordImaxI f))
/-- IABS (R275, R271). -/
def execIabs (f : FmtR) (s : State) : Host.Outcome State Fault Refusal := .next (s.compute f.hdr (wordIabs f))
/-- INEG (R275, R271). -/
def execIneg (f : FmtR) (s : State) : Host.Outcome State Fault Refusal := .next (s.compute f.hdr (wordIneg f))
/-- ISAT (R275, R271). -/
def execIsat (f : FmtR) (s : State) : Host.Outcome State Fault Refusal := .next (s.compute f.hdr (wordIsat f))
/-- SHL (R279, R271). -/
def execShl (f : FmtR) (s : State) : Host.Outcome State Fault Refusal := .next (s.compute f.hdr (wordShl f))
/-- SHL, I form (R279, R271). -/
def execShlI (f : FmtI) (s : State) : Host.Outcome State Fault Refusal := .next (s.compute f.hdr (wordShlI f))
/-- SHR (R279, R271). -/
def execShr (f : FmtR) (s : State) : Host.Outcome State Fault Refusal := .next (s.compute f.hdr (wordShr f))
/-- SHR, I form (R279, R271). -/
def execShrI (f : FmtI) (s : State) : Host.Outcome State Fault Refusal := .next (s.compute f.hdr (wordShrI f))
/-- SHRA (R279, R271). -/
def execShra (f : FmtR) (s : State) : Host.Outcome State Fault Refusal := .next (s.compute f.hdr (wordShra f))
/-- SHRA, I form (R279, R271). -/
def execShraI (f : FmtI) (s : State) : Host.Outcome State Fault Refusal := .next (s.compute f.hdr (wordShraI f))
/-- ROT (R279, R271). -/
def execRot (f : FmtR) (s : State) : Host.Outcome State Fault Refusal := .next (s.compute f.hdr (wordRot f))
/-- ROT, I form (R279, R271). -/
def execRotI (f : FmtI) (s : State) : Host.Outcome State Fault Refusal := .next (s.compute f.hdr (wordRotI f))
/-- SHW (R280, R271). -/
def execShw (f : FmtR) (s : State) : Host.Outcome State Fault Refusal := .next (s.compute f.hdr (wordShw f))
/-- AND (R281, R271). -/
def execAnd (f : FmtR) (s : State) : Host.Outcome State Fault Refusal := .next (s.compute f.hdr (wordAnd f))
/-- AND, I form (R281, R271). -/
def execAndI (f : FmtI) (s : State) : Host.Outcome State Fault Refusal := .next (s.compute f.hdr (wordAndI f))
/-- OR (R281, R271). -/
def execOr (f : FmtR) (s : State) : Host.Outcome State Fault Refusal := .next (s.compute f.hdr (wordOr f))
/-- OR, I form (R281, R271). -/
def execOrI (f : FmtI) (s : State) : Host.Outcome State Fault Refusal := .next (s.compute f.hdr (wordOrI f))
/-- XOR (R281, R271). -/
def execXor (f : FmtR) (s : State) : Host.Outcome State Fault Refusal := .next (s.compute f.hdr (wordXor f))
/-- XOR, I form (R281, R271). -/
def execXorI (f : FmtI) (s : State) : Host.Outcome State Fault Refusal := .next (s.compute f.hdr (wordXorI f))
/-- ANDN (R281, R271). -/
def execAndn (f : FmtR) (s : State) : Host.Outcome State Fault Refusal := .next (s.compute f.hdr (wordAndn f))
/-- ANDN, I form (R281, R271). -/
def execAndnI (f : FmtI) (s : State) : Host.Outcome State Fault Refusal := .next (s.compute f.hdr (wordAndnI f))
/-- LUT3 (R281, R271). -/
def execLut3 (f : FmtR) (s : State) : Host.Outcome State Fault Refusal := .next (s.compute f.hdr (wordLut3 f))
/-- POPC (R282, R271). -/
def execPopc (f : FmtR) (s : State) : Host.Outcome State Fault Refusal := .next (s.compute f.hdr (wordPopc f))
/-- CLZ (R282, R271). -/
def execClz (f : FmtR) (s : State) : Host.Outcome State Fault Refusal := .next (s.compute f.hdr (wordClz f))
/-- BREV (R282, R271). -/
def execBrev (f : FmtR) (s : State) : Host.Outcome State Fault Refusal := .next (s.compute f.hdr (wordBrev f))
/-- BFX (R283, R271). -/
def execBfx (f : FmtR) (s : State) : Host.Outcome State Fault Refusal := .next (s.compute f.hdr (wordBfx f))
/-- BFI (R283, R271). -/
def execBfi (f : FmtR) (s : State) : Host.Outcome State Fault Refusal := .next (s.compute f.hdr (wordBfi f))
/-- DOT4 (R278, R271). -/
def execDot4 (f : FmtR) (s : State) : Host.Outcome State Fault Refusal := .next (s.compute f.hdr (wordDot4 f))
/-- DOT8 (R278, R271). -/
def execDot8 (f : FmtR) (s : State) : Host.Outcome State Fault Refusal := .next (s.compute f.hdr (wordDot8 f))
/-- ICMP (R284, R271). -/
def execIcmp (f : FmtR) (s : State) : Host.Outcome State Fault Refusal := .next (s.compute f.hdr (wordIcmp f))
/-- ICMP, I form (R284, R271). -/
def execIcmpI (f : FmtI) (s : State) : Host.Outcome State Fault Refusal := .next (s.compute f.hdr (wordIcmpI f))
/-- SEL (R285, R271). -/
def execSel (f : FmtR) (s : State) : Host.Outcome State Fault Refusal := .next (s.compute f.hdr (wordSel f))
/-- MOV (R285, R271). -/
def execMov (f : FmtR) (s : State) : Host.Outcome State Fault Refusal := .next (s.compute f.hdr (wordMov f))
/-- MOVI (R285, R271). -/
def execMovi (f : FmtL) (s : State) : Host.Outcome State Fault Refusal := .next (s.compute f.hdr (wordMovi f))
/-- MOVH (R285, R271). -/
def execMovh (f : FmtL) (s : State) : Host.Outcome State Fault Refusal := .next (s.compute f.hdr (wordMovh f))
/-- LEA (R287, R271). -/
def execLea (f : FmtR) (s : State) : Host.Outcome State Fault Refusal := .next (s.compute f.hdr (wordLea f))
/-- LEA, I form (R287, R271). -/
def execLeaI (f : FmtI) (s : State) : Host.Outcome State Fault Refusal := .next (s.compute f.hdr (wordLeaI f))
/-- PTRMK (R288, R271). -/
def execPtrmk (f : FmtR) (s : State) : Host.Outcome State Fault Refusal := .next (s.compute f.hdr (wordPtrmk f))
/-- PTRFLD (R288, R271). -/
def execPtrfld (f : FmtR) (s : State) : Host.Outcome State Fault Refusal := .next (s.compute f.hdr (wordPtrfld f))
/-- PLUT (R286, R271). -/
def execPlut (f : FmtR) (s : State) : Host.Outcome State Fault Refusal := .next (s.compute f.hdr (wordPlut f))

end Sys2Proof.Machine
end

