-- ==== Sys2Proof/Decode.lean ====
section
/-!
DEFINITION. The decoder, total on every 64-bit word, and after it the encoder, both from the layouts of R200, R201, R211, R217 and the opcode map of
R222 to R230.
-/
namespace Sys2Proof

/-- What a word decodes to: an instruction that passes the checks of R230, or one of its two traps (R11). -/
inductive Decoded where
  /-- A well-formed instruction. -/
  | ok (i : Instr)
  /-- ILLEGAL (R11, R230 steps 1 to 3). -/
  | illegal
  /-- RESERVED (R11, R230 step 4). -/
  | reserved
  deriving DecidableEq, Repr

/-- OPC of a full word (R200). -/
def wordOpc (w : BitVec 64) : BitVec 10 := w.extractLsb' 48 10
/-- The fields every full word shares (R200). -/
def Hdr.ofWord (w : BitVec 64) : Hdr := { b := w.getLsbD 63, n := w.getLsbD 61, p := w.extractLsb' 58 3 }
/-- The R fields of a word (R201). -/
def FmtR.ofWord (w : BitVec 64) : FmtR :=
  { hdr := Hdr.ofWord w, dst := w.extractLsb' 41 7, sa := w.extractLsb' 34 7, sb := w.extractLsb' 27 7, sc := w.extractLsb' 20 7,
    ma := w.extractLsb' 16 4, mb := w.extractLsb' 12 4, fa := w.getLsbD 11, fb := w.getLsbD 10, fc := w.getLsbD 9, x := w.extractLsb' 0 9 }
/-- The I fields of a word (R201). -/
def FmtI.ofWord (w : BitVec 64) : FmtI :=
  { hdr := Hdr.ofWord w, dst := w.extractLsb' 41 7, sa := w.extractLsb' 34 7, imm := w.extractLsb' 10 24, fa := w.getLsbD 9, x := w.extractLsb' 0 9 }
/-- The L fields of a word (R201). -/
def FmtL.ofWord (w : BitVec 64) : FmtL :=
  { hdr := Hdr.ofWord w, dst := w.extractLsb' 41 7, imm := w.extractLsb' 9 32, x := w.extractLsb' 0 9 }
/-- The M fields of a word (R201). -/
def FmtM.ofWord (w : BitVec 64) : FmtM :=
  { hdr := Hdr.ofWord w, dst := w.extractLsb' 41 7, sa := w.extractLsb' 34 7, sb := w.extractLsb' 27 7, off := w.extractLsb' 10 17,
    fa := w.getLsbD 9, x := w.extractLsb' 0 9 }
/-- The B fields of a word (R201, R211). -/
def FmtB.ofWord (w : BitVec 64) : FmtB :=
  { hdr := Hdr.ofWord w, off := w.extractLsb' 10 38, bit9 := w.getLsbD 9, x := w.extractLsb' 0 9 }
/-- The E fields of a word (R201). -/
def FmtE.ofWord (w : BitVec 64) : FmtE :=
  { hdr := Hdr.ofWord w, dst := w.extractLsb' 41 7, sa := w.extractLsb' 34 7, sb := w.extractLsb' 27 7, sc := w.extractLsb' 20 7,
    imm8 := w.extractLsb' 12 8, fa := w.getLsbD 11, fb := w.getLsbD 10, fc := w.getLsbD 9, x := w.extractLsb' 0 9 }
/-- The fields of one half of a dual word, bit 0 of the half at bit lo of the word (R217). -/
def Half.ofWord (lo : Nat) (w : BitVec 64) : Half :=
  { ps := w.extractLsb' (lo + 29) 2, op := w.extractLsb' (lo + 22) 7, d := w.extractLsb' (lo + 15) 7, s := w.extractLsb' (lo + 8) 7,
    ms := w.extractLsb' (lo + 4) 4, fs := w.getLsbD (lo + 3), t := w.extractLsb' lo 3 }
/-- The fields of a dual word (R217). -/
def FmtD.ofWord (w : BitVec 64) : FmtD := { b := w.getLsbD 63, hi := Half.ofWord 31 w, lo := Half.ofWord 0 w }

/-- Class 000, integer and logic: the rows of R222. -/
def decodeClass0 (code : Nat) (w : BitVec 64) : Option Instr :=
  match code with
  | 0 => some (.iadd (FmtR.ofWord w))
  | 1 => some (.isub (FmtR.ofWord w))
  | 2 => some (.iaddc (FmtR.ofWord w))
  | 3 => some (.isubb (FmtR.ofWord w))
  | 4 => some (.imul (FmtR.ofWord w))
  | 5 => some (.imulh (FmtR.ofWord w))
  | 6 => some (.imad (FmtR.ofWord w))
  | 7 => some (.imadw (FmtR.ofWord w))
  | 8 => some (.imin (FmtR.ofWord w))
  | 9 => some (.imax (FmtR.ofWord w))
  | 10 => some (.iabs (FmtR.ofWord w))
  | 11 => some (.ineg (FmtR.ofWord w))
  | 12 => some (.isat (FmtR.ofWord w))
  | 13 => some (.shl (FmtR.ofWord w))
  | 14 => some (.shr (FmtR.ofWord w))
  | 15 => some (.shra (FmtR.ofWord w))
  | 16 => some (.rot (FmtR.ofWord w))
  | 17 => some (.shw (FmtR.ofWord w))
  | 18 => some (.and (FmtR.ofWord w))
  | 19 => some (.or (FmtR.ofWord w))
  | 20 => some (.xor (FmtR.ofWord w))
  | 21 => some (.andn (FmtR.ofWord w))
  | 22 => some (.lut3 (FmtR.ofWord w))
  | 23 => some (.popc (FmtR.ofWord w))
  | 24 => some (.clz (FmtR.ofWord w))
  | 25 => some (.brev (FmtR.ofWord w))
  | 26 => some (.bfx (FmtR.ofWord w))
  | 27 => some (.bfi (FmtR.ofWord w))
  | 28 => some (.dot4 (FmtR.ofWord w))
  | 29 => some (.dot8 (FmtR.ofWord w))
  | 30 => some (.icmp (FmtR.ofWord w))
  | 31 => some (.sel (FmtR.ofWord w))
  | 32 => some (.mov (FmtR.ofWord w))
  | 33 => some (.lea (FmtR.ofWord w))
  | 34 => some (.ptrmk (FmtR.ofWord w))
  | 35 => some (.ptrfld (FmtR.ofWord w))
  | 36 => some (.plut (FmtR.ofWord w))
  | 48 => some (.movi (FmtL.ofWord w))
  | 49 => some (.movh (FmtL.ofWord w))
  | 64 => some (.iaddI (FmtI.ofWord w))
  | 65 => some (.isubI (FmtI.ofWord w))
  | 68 => some (.imulI (FmtI.ofWord w))
  | 72 => some (.iminI (FmtI.ofWord w))
  | 73 => some (.imaxI (FmtI.ofWord w))
  | 77 => some (.shlI (FmtI.ofWord w))
  | 78 => some (.shrI (FmtI.ofWord w))
  | 79 => some (.shraI (FmtI.ofWord w))
  | 80 => some (.rotI (FmtI.ofWord w))
  | 82 => some (.andI (FmtI.ofWord w))
  | 83 => some (.orI (FmtI.ofWord w))
  | 84 => some (.xorI (FmtI.ofWord w))
  | 85 => some (.andnI (FmtI.ofWord w))
  | 94 => some (.icmpI (FmtI.ofWord w))
  | 97 => some (.leaI (FmtI.ofWord w))
  | _ => none

/-- Class 001, floating point and conversion: the rows of R223. -/
def decodeClass1 (code : Nat) (w : BitVec 64) : Option Instr :=
  match code with
  | 0 => some (.fadd (FmtR.ofWord w))
  | 1 => some (.fsub (FmtR.ofWord w))
  | 2 => some (.fmul (FmtR.ofWord w))
  | 3 => some (.ffma (FmtR.ofWord w))
  | 4 => some (.fmin (FmtR.ofWord w))
  | 5 => some (.fmax (FmtR.ofWord w))
  | 6 => some (.frcp (FmtR.ofWord w))
  | 7 => some (.frsq (FmtR.ofWord w))
  | 8 => some (.fsqrt (FmtR.ofWord w))
  | 9 => some (.fexp2 (FmtR.ofWord w))
  | 10 => some (.flog2 (FmtR.ofWord w))
  | 11 => some (.fsin (FmtR.ofWord w))
  | 12 => some (.fcos (FmtR.ofWord w))
  | 13 => some (.ftanh (FmtR.ofWord w))
  | 14 => some (.fclass (FmtR.ofWord w))
  | 15 => some (.fscale (FmtR.ofWord w))
  | 16 => some (.fcmp (FmtR.ofWord w))
  | 17 => some (.fdot2 (FmtR.ofWord w))
  | 24 => some (.fcvt (FmtR.ofWord w))
  | 25 => some (.icvt (FmtR.ofWord w))
  | 26 => some (.fcvti (FmtR.ofWord w))
  | 28 => some (.npack (FmtR.ofWord w))
  | 29 => some (.nunpack (FmtR.ofWord w))
  | _ => none

/-- Class 010, load, store, AMO and fence: the rows of R224. -/
def decodeClass2 (code : Nat) (w : BitVec 64) : Option Instr :=
  match code with
  | 0 => some (.ld (FmtM.ofWord w))
  | 1 => some (.ldsx (FmtM.ofWord w))
  | 2 => some (.st (FmtM.ofWord w))
  | 3 => some (.ldx (FmtM.ofWord w))
  | 4 => some (.stx (FmtM.ofWord w))
  | 5 => some (.ldc (FmtM.ofWord w))
  | 6 => some (.pref (FmtM.ofWord w))
  | 7 => some (.ldRem (FmtM.ofWord w))
  | 8 => some (.granset (FmtE.ofWord w))
  | 9 => some (.granclr (FmtE.ofWord w))
  | 16 => some (.amoAdd (FmtM.ofWord w))
  | 17 => some (.amoMin (FmtM.ofWord w))
  | 18 => some (.amoMax (FmtM.ofWord w))
  | 19 => some (.amoAnd (FmtM.ofWord w))
  | 20 => some (.amoOr (FmtM.ofWord w))
  | 21 => some (.amoXor (FmtM.ofWord w))
  | 22 => some (.amoExch (FmtM.ofWord w))
  | 23 => some (.amoFadd (FmtM.ofWord w))
  | 24 => some (.fence (FmtM.ofWord w))
  | 25 => some (.waitc (FmtE.ofWord w))
  | 26 => some (.waitt (FmtE.ofWord w))
  | 27 => some (.rdgtc (FmtR.ofWord w))
  | 28 => some (.invl1 (FmtR.ofWord w))
  | _ => none

/-- Class 011, engines, channels and allotment: the rows of R225. -/
def decodeClass3 (code : Nat) (w : BitVec 64) : Option Instr :=
  match code with
  | 0 => some (.sload (FmtE.ofWord w))
  | 1 => some (.sstore (FmtE.ofWord w))
  | 2 => some (.sgather (FmtE.ofWord w))
  | 3 => some (.sscatter (FmtE.ofWord w))
  | 4 => some (.spref (FmtE.ofWord w))
  | 8 => some (.bcopy (FmtE.ofWord w))
  | 9 => some (.bfill (FmtE.ofWord w))
  | 16 => some (if w.getLsbD 8 then .chsendS (FmtE.ofWord w) else .chsend (FmtE.ofWord w))
  | 17 => some (if w.getLsbD 8 then .chrecvS (FmtE.ofWord w) else .chrecv (FmtE.ofWord w))
  | 18 => some (.chpoll (FmtE.ofWord w))
  | 24 => some (.takeR (FmtE.ofWord w))
  | 25 => some (.takeS (FmtE.ofWord w))
  | 26 => some (.takeK (FmtE.ofWord w))
  | 28 => some (.giveR (FmtE.ofWord w))
  | 29 => some (.giveS (FmtE.ofWord w))
  | 30 => some (.giveK (FmtE.ofWord w))
  | _ => none

/-- Class 100, matrix and transactions: the rows of R226. -/
def decodeClass4 (code : Nat) (w : BitVec 64) : Option Instr :=
  match code with
  | 0 => some (.mxclaim (FmtE.ofWord w))
  | 1 => some (.mxfree (FmtE.ofWord w))
  | 2 => some (.mxldb (FmtE.ofWord w))
  | 3 => some (.mxmul (FmtE.ofWord w))
  | 4 => some (.mxdrain (FmtE.ofWord w))
  | 5 => some (.mxzero (FmtE.ofWord w))
  | 6 => some (.mxsave (FmtE.ofWord w))
  | 7 => some (.mxrest (FmtE.ofWord w))
  | 8 => some (.mxrd (FmtE.ofWord w))
  | 9 => some (.mxwr (FmtE.ofWord w))
  | 16 => some (.txbegin (FmtE.ofWord w))
  | 17 => some (if w.getLsbD 7 then .txendG (FmtE.ofWord w) else .txend (FmtE.ofWord w))
  | 18 => some (.txabort (FmtE.ofWord w))
  | _ => none

/-- Class 101, branch and divergence: the rows of R227. -/
def decodeClass5 (code : Nat) (w : BitVec 64) : Option Instr :=
  match code with
  | 0 => some (.bra (FmtB.ofWord w))
  | 1 => some (.bru (FmtB.ofWord w))
  | 2 => some (.brd (FmtB.ofWord w))
  | 3 => some (.join (FmtR.ofWord w))
  | 4 => some (.brx (FmtR.ofWord w))
  | 5 => some (.call (FmtB.ofWord w))
  | 6 => some (.ret (FmtR.ofWord w))
  | 7 => some (.exit (FmtR.ofWord w))
  | 8 => some (.nop (FmtR.ofWord w))
  | 9 => some (.yield (FmtR.ofWord w))
  | _ => none

/-- Class 110, gangs, barriers, rings and launch: the rows of R228. -/
def decodeClass6 (code : Nat) (w : BitVec 64) : Option Instr :=
  match code with
  | 0 => some (.gjoin (FmtE.ofWord w))
  | 1 => some (.gleave (FmtE.ofWord w))
  | 2 => some (.gvote (FmtE.ofWord w))
  | 3 => some (.gshfl (FmtE.ofWord w))
  | 4 => some (.gred (FmtE.ofWord w))
  | 5 => some (.gelect (FmtE.ofWord w))
  | 8 => some (.barinit (FmtE.ofWord w))
  | 9 => some (.bararr (FmtE.ofWord w))
  | 10 => some (.barwait (FmtE.ofWord w))
  | 11 => some (.barsync (FmtE.ofWord w))
  | 12 => some (.bardrop (FmtE.ofWord w))
  | 16 => some (.ringinit (FmtE.ofWord w))
  | 17 => some (.rput (FmtE.ofWord w))
  | 18 => some (.rget (FmtE.ofWord w))
  | 19 => some (.rfree (FmtE.ofWord w))
  | 24 => some (if w.getLsbD 0 then .launchPod (FmtE.ofWord w) else .launch (FmtE.ofWord w))
  | 25 => some (.fetcht (FmtE.ofWord w))
  | 26 => some (.cancel (FmtE.ofWord w))
  | 27 => some (.nodesig (FmtE.ofWord w))
  | _ => none

/-- Class 111, system: the rows of R229. -/
def decodeClass7 (code : Nat) (w : BitVec 64) : Option Instr :=
  match code with
  | 0 => some (.rdsr (FmtI.ofWord w))
  | 1 => some (.wrsr (FmtI.ofWord w))
  | 2 => some (.trap (FmtI.ofWord w))
  | 3 => some (.eret (FmtR.ofWord w))
  | 4 => some (.bkpt (FmtI.ofWord w))
  | 5 => some (.wlatch (FmtR.ofWord w))
  | 6 =>
    match (w.extractLsb' 0 2).toNat with
    | 0 => some (.tlbinvPage (FmtE.ofWord w))
    | 1 => some (.tlbinvAsid (FmtE.ofWord w))
    | 2 => some (.tlbinvAll (FmtE.ofWord w))
    | _ => none
  | 7 => some (.halt (FmtR.ofWord w))
  | _ => none

/-- The row of the opcode map a word selects (R222 to R230), if any. -/
def decodeRow (w : BitVec 64) : Option Instr :=
  if w.getLsbD 62 then some (.dualWord (FmtD.ofWord w))
  else
    let code := (wordOpc w).toNat % 128
    match (wordOpc w).toNat / 128 with
    | 0 => decodeClass0 code w
    | 1 => decodeClass1 code w
    | 2 => decodeClass2 code w
    | 3 => decodeClass3 code w
    | 4 => decodeClass4 code w
    | 5 => decodeClass5 code w
    | 6 => decodeClass6 code w
    | 7 => decodeClass7 code w
    | _ => none

/-- Decoding of a word: the row, then the checks of R230; a word without a row is ILLEGAL. -/
def decode (w : BitVec 64) : Decoded :=
  match decodeRow w with
  | none => .illegal
  | some i =>
    match i.encFault with
    | none => .ok i
    | some .illegal => .illegal
    | some .reserved => .reserved

/-- One bit of a word. -/
def bit1 (b : Bool) : BitVec 1 := BitVec.ofBool b
/-- The upper sixteen bits of a full word (R200). -/
def Hdr.toBits (h : Hdr) (opc : BitVec 10) : BitVec 16 := bit1 h.b ++ 0#1 ++ bit1 h.n ++ h.p ++ opc
/-- The word of an R form (R201). -/
def FmtR.toWord (opc : BitVec 10) (f : FmtR) : BitVec 64 :=
  f.hdr.toBits opc ++ f.dst ++ f.sa ++ f.sb ++ f.sc ++ f.ma ++ f.mb ++ bit1 f.fa ++ bit1 f.fb ++ bit1 f.fc ++ f.x
/-- The word of an I form (R201). -/
def FmtI.toWord (opc : BitVec 10) (f : FmtI) : BitVec 64 := f.hdr.toBits opc ++ f.dst ++ f.sa ++ f.imm ++ bit1 f.fa ++ f.x
/-- The word of an L form (R201). -/
def FmtL.toWord (opc : BitVec 10) (f : FmtL) : BitVec 64 := f.hdr.toBits opc ++ f.dst ++ f.imm ++ f.x
/-- The word of an M form (R201). -/
def FmtM.toWord (opc : BitVec 10) (f : FmtM) : BitVec 64 := f.hdr.toBits opc ++ f.dst ++ f.sa ++ f.sb ++ f.off ++ bit1 f.fa ++ f.x
/-- The word of a B form (R201). -/
def FmtB.toWord (opc : BitVec 10) (f : FmtB) : BitVec 64 := f.hdr.toBits opc ++ f.off ++ bit1 f.bit9 ++ f.x
/-- The word of an E form (R201). -/
def FmtE.toWord (opc : BitVec 10) (f : FmtE) : BitVec 64 :=
  f.hdr.toBits opc ++ f.dst ++ f.sa ++ f.sb ++ f.sc ++ f.imm8 ++ bit1 f.fa ++ bit1 f.fb ++ bit1 f.fc ++ f.x
/-- The 31 bits of a half (R217). -/
def Half.toBits (h : Half) : BitVec 31 := h.ps ++ h.op ++ h.d ++ h.s ++ h.ms ++ bit1 h.fs ++ h.t
/-- A dual word (R217). -/
def FmtD.toWord (f : FmtD) : BitVec 64 := bit1 f.b ++ 1#1 ++ f.hi.toBits ++ f.lo.toBits

/-- The word of an instruction; an event has none. -/
def encode : Instr → Option (BitVec 64)
  | .iadd f => some (f.toWord 0x000)
  | .iaddI f => some (f.toWord 0x040)
  | .isub f => some (f.toWord 0x001)
  | .isubI f => some (f.toWord 0x041)
  | .iaddc f => some (f.toWord 0x002)
  | .isubb f => some (f.toWord 0x003)
  | .imul f => some (f.toWord 0x004)
  | .imulI f => some (f.toWord 0x044)
  | .imulh f => some (f.toWord 0x005)
  | .imad f => some (f.toWord 0x006)
  | .imadw f => some (f.toWord 0x007)
  | .imin f => some (f.toWord 0x008)
  | .iminI f => some (f.toWord 0x048)
  | .imax f => some (f.toWord 0x009)
  | .imaxI f => some (f.toWord 0x049)
  | .iabs f => some (f.toWord 0x00A)
  | .ineg f => some (f.toWord 0x00B)
  | .isat f => some (f.toWord 0x00C)
  | .shl f => some (f.toWord 0x00D)
  | .shlI f => some (f.toWord 0x04D)
  | .shr f => some (f.toWord 0x00E)
  | .shrI f => some (f.toWord 0x04E)
  | .shra f => some (f.toWord 0x00F)
  | .shraI f => some (f.toWord 0x04F)
  | .rot f => some (f.toWord 0x010)
  | .rotI f => some (f.toWord 0x050)
  | .shw f => some (f.toWord 0x011)
  | .and f => some (f.toWord 0x012)
  | .andI f => some (f.toWord 0x052)
  | .or f => some (f.toWord 0x013)
  | .orI f => some (f.toWord 0x053)
  | .xor f => some (f.toWord 0x014)
  | .xorI f => some (f.toWord 0x054)
  | .andn f => some (f.toWord 0x015)
  | .andnI f => some (f.toWord 0x055)
  | .lut3 f => some (f.toWord 0x016)
  | .popc f => some (f.toWord 0x017)
  | .clz f => some (f.toWord 0x018)
  | .brev f => some (f.toWord 0x019)
  | .bfx f => some (f.toWord 0x01A)
  | .bfi f => some (f.toWord 0x01B)
  | .dot4 f => some (f.toWord 0x01C)
  | .dot8 f => some (f.toWord 0x01D)
  | .icmp f => some (f.toWord 0x01E)
  | .icmpI f => some (f.toWord 0x05E)
  | .sel f => some (f.toWord 0x01F)
  | .mov f => some (f.toWord 0x020)
  | .movi f => some (f.toWord 0x030)
  | .movh f => some (f.toWord 0x031)
  | .lea f => some (f.toWord 0x021)
  | .leaI f => some (f.toWord 0x061)
  | .ptrmk f => some (f.toWord 0x022)
  | .ptrfld f => some (f.toWord 0x023)
  | .plut f => some (f.toWord 0x024)
  | .fadd f => some (f.toWord 0x080)
  | .fsub f => some (f.toWord 0x081)
  | .fmul f => some (f.toWord 0x082)
  | .ffma f => some (f.toWord 0x083)
  | .fmin f => some (f.toWord 0x084)
  | .fmax f => some (f.toWord 0x085)
  | .frcp f => some (f.toWord 0x086)
  | .frsq f => some (f.toWord 0x087)
  | .fsqrt f => some (f.toWord 0x088)
  | .fexp2 f => some (f.toWord 0x089)
  | .flog2 f => some (f.toWord 0x08A)
  | .fsin f => some (f.toWord 0x08B)
  | .fcos f => some (f.toWord 0x08C)
  | .ftanh f => some (f.toWord 0x08D)
  | .fclass f => some (f.toWord 0x08E)
  | .fscale f => some (f.toWord 0x08F)
  | .fcmp f => some (f.toWord 0x090)
  | .fdot2 f => some (f.toWord 0x091)
  | .fcvt f => some (f.toWord 0x098)
  | .icvt f => some (f.toWord 0x099)
  | .fcvti f => some (f.toWord 0x09A)
  | .npack f => some (f.toWord 0x09C)
  | .nunpack f => some (f.toWord 0x09D)
  | .dualWord f => some (f.toWord)
  | .ld f => some (f.toWord 0x100)
  | .ldsx f => some (f.toWord 0x101)
  | .st f => some (f.toWord 0x102)
  | .ldx f => some (f.toWord 0x103)
  | .stx f => some (f.toWord 0x104)
  | .ldc f => some (f.toWord 0x105)
  | .pref f => some (f.toWord 0x106)
  | .ldRem f => some (f.toWord 0x107)
  | .amoAdd f => some (f.toWord 0x110)
  | .amoMin f => some (f.toWord 0x111)
  | .amoMax f => some (f.toWord 0x112)
  | .amoAnd f => some (f.toWord 0x113)
  | .amoOr f => some (f.toWord 0x114)
  | .amoXor f => some (f.toWord 0x115)
  | .amoExch f => some (f.toWord 0x116)
  | .amoFadd f => some (f.toWord 0x117)
  | .fence f => some (f.toWord 0x118)
  | .waitc f => some (f.toWord 0x119)
  | .waitt f => some (f.toWord 0x11A)
  | .rdgtc f => some (f.toWord 0x11B)
  | .invl1 f => some (f.toWord 0x11C)
  | .granset f => some (f.toWord 0x108)
  | .granclr f => some (f.toWord 0x109)
  | .sload f => some (f.toWord 0x180)
  | .sstore f => some (f.toWord 0x181)
  | .sgather f => some (f.toWord 0x182)
  | .sscatter f => some (f.toWord 0x183)
  | .spref f => some (f.toWord 0x184)
  | .bcopy f => some (f.toWord 0x188)
  | .bfill f => some (f.toWord 0x189)
  | .chsend f => some (f.toWord 0x190)
  | .chsendS f => some (f.toWord 0x190)
  | .chrecv f => some (f.toWord 0x191)
  | .chrecvS f => some (f.toWord 0x191)
  | .chpoll f => some (f.toWord 0x192)
  | .takeR f => some (f.toWord 0x198)
  | .takeS f => some (f.toWord 0x199)
  | .takeK f => some (f.toWord 0x19A)
  | .giveR f => some (f.toWord 0x19C)
  | .giveS f => some (f.toWord 0x19D)
  | .giveK f => some (f.toWord 0x19E)
  | .mxclaim f => some (f.toWord 0x200)
  | .mxfree f => some (f.toWord 0x201)
  | .mxldb f => some (f.toWord 0x202)
  | .mxmul f => some (f.toWord 0x203)
  | .mxdrain f => some (f.toWord 0x204)
  | .mxzero f => some (f.toWord 0x205)
  | .mxsave f => some (f.toWord 0x206)
  | .mxrest f => some (f.toWord 0x207)
  | .mxrd f => some (f.toWord 0x208)
  | .mxwr f => some (f.toWord 0x209)
  | .txbegin f => some (f.toWord 0x210)
  | .txend f => some (f.toWord 0x211)
  | .txendG f => some (f.toWord 0x211)
  | .txabort f => some (f.toWord 0x212)
  | .bra f => some (f.toWord 0x280)
  | .bru f => some (f.toWord 0x281)
  | .brd f => some (f.toWord 0x282)
  | .join f => some (f.toWord 0x283)
  | .brx f => some (f.toWord 0x284)
  | .call f => some (f.toWord 0x285)
  | .ret f => some (f.toWord 0x286)
  | .exit f => some (f.toWord 0x287)
  | .nop f => some (f.toWord 0x288)
  | .yield f => some (f.toWord 0x289)
  | .gjoin f => some (f.toWord 0x300)
  | .gleave f => some (f.toWord 0x301)
  | .gvote f => some (f.toWord 0x302)
  | .gshfl f => some (f.toWord 0x303)
  | .gred f => some (f.toWord 0x304)
  | .gelect f => some (f.toWord 0x305)
  | .barinit f => some (f.toWord 0x308)
  | .bararr f => some (f.toWord 0x309)
  | .barwait f => some (f.toWord 0x30A)
  | .barsync f => some (f.toWord 0x30B)
  | .bardrop f => some (f.toWord 0x30C)
  | .ringinit f => some (f.toWord 0x310)
  | .rput f => some (f.toWord 0x311)
  | .rget f => some (f.toWord 0x312)
  | .rfree f => some (f.toWord 0x313)
  | .launch f => some (f.toWord 0x318)
  | .launchPod f => some (f.toWord 0x318)
  | .fetcht f => some (f.toWord 0x319)
  | .cancel f => some (f.toWord 0x31A)
  | .nodesig f => some (f.toWord 0x31B)
  | .rdsr f => some (f.toWord 0x380)
  | .wrsr f => some (f.toWord 0x381)
  | .trap f => some (f.toWord 0x382)
  | .bkpt f => some (f.toWord 0x384)
  | .eret f => some (f.toWord 0x383)
  | .halt f => some (f.toWord 0x387)
  | .wlatch f => some (f.toWord 0x385)
  | .tlbinvPage f => some (f.toWord 0x386)
  | .tlbinvAsid f => some (f.toWord 0x386)
  | .tlbinvAll f => some (f.toWord 0x386)
  | .turnGrant _ _ => none
  | .loadDataReturn _ _ => none
  | .interruptTake _ _ => none
  | .walkAhead _ _ => none
  | .tlbinvComplete _ _ => none
  | .stageTransfer _ _ => none
  | .stageRetire _ _ => none
  | .barrowStart _ _ => none
  | .barrowTransfer _ _ => none
  | .barrowRetire _ _ => none
  | .podRetireReport _ _ _ => none
  | .mxldbPerform _ => none
  | .mxmulKstep _ => none
  | .matrixOpPerform _ => none
  | .drainApply _ => none
  | .drainRetire _ => none
  | .matrixClaimRelease _ => none
  | .gangRendezvousComplete _ _ => none
  | .takeGrant _ _ => none
  | .bankClearDone _ _ => none
  | .bankReturn _ _ => none
  | .granuleAccess _ _ _ => none
  | .channelSlotFull _ _ => none
  | .channelCreditReturn _ _ => none
  | .promotionRequest _ _ => none
  | .promotionAck _ _ => none
  | .txPrepare _ _ => none
  | .txDecide _ => none
  | .txCommitWrite _ _ => none
  | .txSingleBankCommit _ => none
  | .ejectHandoverDone _ _ => none
  | .boothTurn _ => none
  | .boothReturn _ _ => none
  | .repatriate _ _ => none
  | .boothTimeLimit _ _ => none
  | .handBackDone _ _ => none
  | .waittWake _ _ => none
  | .haltWake _ _ => none
  | .accessPerformed _ _ => none
  | .fillArrival _ _ => none
  | .bypassedRead _ _ => none
  | .lineWriteBack _ => none
  | .frameRelease _ _ => none
  | .packetArbitrate _ => none
  | .negativeResponse _ _ => none
  | .firewallDrainEnd _ => none
  | .faultRecordPost _ => none
  | .faultQueueFlush _ => none
  | .launchNotifyAccept _ => none
  | .placementDecision _ => none
  | .headAgeing _ _ => none
  | .paramFetch _ _ => none
  | .chunkRequest _ _ => none
  | .launchComplete _ => none
  | .preemptRequeue _ => none
  | .cancelEffect _ => none
  | .quantExpiry _ => none
  | .contextSave _ => none
  | .fnrstEnd _ => none
  | .wlatchComplete _ => none
  | .podRecordAppend _ => none
  | .podChunkRequest _ _ => none
  | .podComplete _ => none
  | .dispenseStart _ => none
  | .functionCoreRestart _ => none
  | .functionCoreCrash _ _ _ => none
  | .rootCoreCrash _ _ => none
  | .rootCoreRestart => none
  | .migrateUnit _ => none
  | .bootRetry _ => none
  | .mcfrel _ _ _ => none
  | .pfres _ _ => none
  | .engresResume _ _ _ => none
  | .engresPoison _ _ _ => none
  | .sramUncorrectable _ _ => none
  | .boothFailure _ => none
  | .pseudoChannelFailure _ _ _ => none
  | .fwctlWrite _ _ => none
  | .registerWrite _ _ _ _ => none
  | .nodeWrite _ _ _ => none
  | .lpreQueue _ _ => none
  | .lpreAll _ => none
  | .fnrst _ => none
  | .crierDeliver _ => none
  | .podMemberReport _ _ _ => none
  | .podMemberLost _ _ => none
  | .podDispatcherSilent _ => none
  | .podCancel _ _ _ => none
  | .powerOn _ => none
  | .manifestApply _ => none
  | .partitionReset _ => none
  | .networkBoot _ _ => none
  | .resizeRemove _ _ => none
  | .resizeAdd _ _ => none
  | .keyset _ => none
  | .keyclr _ => none
  | .attest _ => none
  | .meter _ => none
  | .health _ => none
  | .hcstart _ => none
  | .winexp _ => none
  | .strkey _ => none
  | .rotWatchdog _ => none
  | .meterAppend _ _ => none
  | .unitFailure _ => none
  | .podConfiguration _ => none
  | .flitReceive _ _ => none
  | .linkKeyAgree _ _ => none
  | .podJoin _ => none
  | .timeExchange _ => none
  | .tierPortFailure _ => none
  | .spdmGetVersion => none
  | .spdmGetCapabilities => none
  | .spdmNegotiateAlgorithms => none
  | .spdmGetMeasurements _ _ => none
  | .spdmUnsupported => none
  | .mgmtReadCrashRecords => none
  | .mgmtReadHealthLog => none
  | .mgmtReadMeteringLog _ => none
  | .mgmtBootStageReport => none

/-- The instruction the decoder reads from the low nbits of w, the bits above them zero. -/
def decodeTableWord (nbits w : Nat) : Option Instr :=
  match decode (BitVec.ofNat 64 (w % 2 ^ nbits)) with
  | .ok i => some i
  | .illegal => none
  | .reserved => none

end Sys2Proof
end

