-- ==== Sys2Proof/Machine/Sram.lean ====
section
/-!
DEFINITION. Core SRAM: bank modes, granules and their bits, the till, and the checks of a pointer (R55, R56, R116 to R134).
-/
namespace Sys2Proof.Machine

/-! ## Banks and granules -/

/-- MODE of a bank: 0 C, 1 S, 2 F (R117). -/
def Core.mode (c : Core) (b : Nat) : Nat := bits c.bmode.toNat (2 * b + 1) (2 * b)
/-- The mode word with a bank's mode set (R117). -/
def Core.setMode (c : Core) (b m : Nat) : Core :=
  { c with bmode := setBit (setBit c.bmode (2 * b) (m % 2 == 1)) (2 * b + 1) (2 ≤ m) }

/-- The bytes of a bank. -/
def bankBytes : Nat := 65536

/-- A bank enters S or F mode (R118): zero in every byte, granules full in S and empty in F, none poisoned; its lines of the core cache go with the way; the clearing starts. -/
def Core.enterBank (c : Core) (b m : Nat) : Core :=
  let c := c.setMode b m
  { c with
    sram := bytesClear c.sram (b * bankBytes) bankBytes,
    fbits := c.fbits.filter fun e => e.1 / 4096 != b,
    pbits := c.pbits.filter fun e => e.1 / 4096 != b,
    clearing := if c.clearing.contains b then c.clearing else c.clearing ++ [b] }

/-- The F bit of a granule, numbered by offset / 16: full in S mode and empty in F mode until it is changed (R118, R122). -/
def Core.full (c : Core) (g : Nat) : Bool := Tab.get c.fbits g (c.mode (g / 4096) == 1)
/-- A granule's F bit set (R124). -/
def Core.setFull (c : Core) (g : Nat) (v : Bool) : Core := { c with fbits := Tab.set c.fbits g v }
/-- The P bit of a granule (R122). -/
def Core.poisoned (c : Core) (g : Nat) : Bool := Tab.get c.pbits g false
/-- A granule's P bit set. -/
def Core.setPoisoned (c : Core) (g : Nat) (v : Bool) : Core := { c with pbits := if v then Tab.set c.pbits g true else Tab.erase c.pbits g }

/-- Granules that n bytes at an offset touch, ascending. -/
def granRange (off n : Nat) : List Nat := (List.range ((off + n + 15) / 16 - off / 16)).map (off / 16 + ·)

/-- A write at the bank port: a granule written whole loses its poison (R125). -/
def Core.writeSram (c : Core) (off : Nat) (bs : List Byte) : Core :=
  let c := { c with sram := bytesSet c.sram off bs }
  (granRange off bs.length).foldl (fun c g => if off ≤ 16 * g ∧ 16 * g + 16 ≤ off + bs.length then c.setPoisoned g false else c) c

/-- A read at the bank port: the bytes and whether a granule read is poisoned (R125). -/
def Core.readSram (c : Core) (off n : Nat) : List Byte × Bool := (bytesGet c.sram off n, (granRange off n).any c.poisoned)

/-- The F bit that a qualified access waits for is there, and its bank is clear (R118, R123). -/
def State.granFree (s : State) (g : GranWait) : Bool :=
  let c := s.core g.target
  !c.clearing.contains (g.off / bankBytes) && (match g.needs with
    | none => true
    | some f => c.full (g.off / 16) == f)

/-- A qualified access that waits at a granule of a run of bytes can go now, so that what arrives later waits for it (R124). -/
def State.portBusy (s : State) (u off n : Nat) : Bool :=
  s.granq.any fun g => g.value.isNone && g.target == u && (granRange off n).contains (g.off / 16) && s.granFree g

/-! ## The till -/

/-- Bytes of a run of the till window: element (i, j) of tile t at 4,096 t + 128 i + 4 j (R56, R130). -/
def Core.readTill (c : Core) (off n : Nat) : List Byte :=
  (List.range n).map fun k => BitVec.ofNat 8 ((Tab.get c.till ((off + k) / 4) 0).toNat / 2 ^ (8 * ((off + k) % 4)))

/-- Tile t is in the team's allotment (R130). -/
def Team.owns (t : Team) (tile : Nat) : Bool := decide (tile < t.tiles) || t.taken.contains tile

/-- A till access of a thread passes the owner test of sr.kown (R132). -/
def State.tillOk (s : State) (u i l : Nat) : Bool :=
  let (hu, hi, hl) := s.home u i l
  let k := (s.core hu).kown.toNat
  decide (2 ^ 31 ≤ k) && k % 65536 == (s.ctxOf hu hi hl).toNat

/-- A tile written with one value in every element. -/
def Core.clearTile (c : Core) (t : Nat) : Core := { c with till := c.till.filter fun e => e.1 / 1024 != t }
/-- A tile's dirty bit set (R133). -/
def Core.dirty (c : Core) (t : Nat) : Core := { c with kdirty := Tab.set c.kdirty t true }

/-! ## Pointers -/

/-- What a checked pointer names (R56). -/
inductive Place where
  | global (va : Nat)
  | spad (u off : Nat)
  | till (u off : Nat)
  | param (off : Nat)
  deriving DecidableEq, Repr

/-- The agent of an access: the place where its thread runs, and its privilege. -/
structure Agent where
  unit   : Nat
  stripe : Nat
  lane   : Nat
  priv   : Priv
  deriving DecidableEq, Repr

/-- PSIZE of the parameter bytes of a core's team. -/
def Core.psize (c : Core) : Option Nat := c.team.map Team.psize

/-- The checks of R56 in their order for n bytes, for an accessor of a core with a world and a privilege; an error is the detail code. An S-mode bank that the exit of its team still holds passes by its mode (DESIGN CHOICE, log 9). -/
def State.checkPtr (s : State) (hu part : Nat) (world : BitVec 6) (priv : Priv) (ptr n : Nat) (write : Bool) : Except Nat Place :=
  let off := ptrOff ptr
  match ptrSpace ptr with
  | 0 => if ptrRank ptr != 0 then .error 2 else .ok (.global off)
  | 1 =>
    match s.coreOfRank part (ptrRank ptr) with
    | none => .error 2
    | some u =>
      if 2 ^ 21 ≤ off then .error 3
      else if (s.core u).mode (off / bankBytes) != 1 then .error 4
      else if (s.core u).world != world then .error 5
      else .ok (.spad u off)
  | 2 =>
    match s.coreOfRank part (ptrRank ptr) with
    | none => .error 2
    | some u =>
      if 2 ^ 22 ≤ off then .error 3
      else if u != hu && priv == .u then .error 6
      else if kindOf hu == .simt && (s.core u).world != world then .error 5
      else if write then .error 7
      else .ok (.till u off)
  | 4 =>
    match (if kindOf hu == .simt then (s.core hu).psize else none) with
    | none => .error 1
    | some size => if ptrRank ptr != 0 then .error 2 else if size < off + n then .error 3 else if write then .error 7 else .ok (.param off)
  | _ => .error 1

/-- The checks of R56 for a thread's access. -/
def State.checkPointer (s : State) (a : Agent) (ptr n : Nat) (write : Bool) : Except Nat Place :=
  let (hu, _, _) := s.home a.unit a.stripe a.lane
  s.checkPtr hu ((s.partOf hu).getD 0) (s.worldOf a.unit a.stripe a.lane) a.priv ptr n write

/-- A run of n bytes of a core's own scratchpad passes R56 (R99): its detail code when it does not. -/
def Core.spadRun (c : Core) (off n : Nat) : Option Nat :=
  if n = 0 then none
  else
    let first := off / bankBytes
    let last := (off + n - 1) / bankBytes
    if 2 ^ 21 < off + n then some 3
    else if (List.range (last + 1 - first)).any fun k => c.mode (first + k) != 1 then some 4 else none

end Sys2Proof.Machine
end

