-- ==== Sys2Proof/Machine/Issue.lean ====
section
/-!
DEFINITION. Fetching and issuing a word: the vote, the fetch, the checks that precede every word's meaning, and the time a word takes (R138 to R141, R57, R76, R274).
-/
namespace Sys2Proof.Machine

/-- B of a word (R200); events have none. -/
def wordB : Instr → Bool
  | .iadd f => f.hdr.b
  | .iaddI f => f.hdr.b
  | .isub f => f.hdr.b
  | .isubI f => f.hdr.b
  | .iaddc f => f.hdr.b
  | .isubb f => f.hdr.b
  | .imul f => f.hdr.b
  | .imulI f => f.hdr.b
  | .imulh f => f.hdr.b
  | .imad f => f.hdr.b
  | .imadw f => f.hdr.b
  | .imin f => f.hdr.b
  | .iminI f => f.hdr.b
  | .imax f => f.hdr.b
  | .imaxI f => f.hdr.b
  | .iabs f => f.hdr.b
  | .ineg f => f.hdr.b
  | .isat f => f.hdr.b
  | .shl f => f.hdr.b
  | .shlI f => f.hdr.b
  | .shr f => f.hdr.b
  | .shrI f => f.hdr.b
  | .shra f => f.hdr.b
  | .shraI f => f.hdr.b
  | .rot f => f.hdr.b
  | .rotI f => f.hdr.b
  | .shw f => f.hdr.b
  | .and f => f.hdr.b
  | .andI f => f.hdr.b
  | .or f => f.hdr.b
  | .orI f => f.hdr.b
  | .xor f => f.hdr.b
  | .xorI f => f.hdr.b
  | .andn f => f.hdr.b
  | .andnI f => f.hdr.b
  | .lut3 f => f.hdr.b
  | .popc f => f.hdr.b
  | .clz f => f.hdr.b
  | .brev f => f.hdr.b
  | .bfx f => f.hdr.b
  | .bfi f => f.hdr.b
  | .dot4 f => f.hdr.b
  | .dot8 f => f.hdr.b
  | .icmp f => f.hdr.b
  | .icmpI f => f.hdr.b
  | .sel f => f.hdr.b
  | .mov f => f.hdr.b
  | .movi f => f.hdr.b
  | .movh f => f.hdr.b
  | .lea f => f.hdr.b
  | .leaI f => f.hdr.b
  | .ptrmk f => f.hdr.b
  | .ptrfld f => f.hdr.b
  | .plut f => f.hdr.b
  | .fadd f => f.hdr.b
  | .fsub f => f.hdr.b
  | .fmul f => f.hdr.b
  | .ffma f => f.hdr.b
  | .fmin f => f.hdr.b
  | .fmax f => f.hdr.b
  | .frcp f => f.hdr.b
  | .frsq f => f.hdr.b
  | .fsqrt f => f.hdr.b
  | .fexp2 f => f.hdr.b
  | .flog2 f => f.hdr.b
  | .fsin f => f.hdr.b
  | .fcos f => f.hdr.b
  | .ftanh f => f.hdr.b
  | .fclass f => f.hdr.b
  | .fscale f => f.hdr.b
  | .fcmp f => f.hdr.b
  | .fdot2 f => f.hdr.b
  | .fcvt f => f.hdr.b
  | .icvt f => f.hdr.b
  | .fcvti f => f.hdr.b
  | .npack f => f.hdr.b
  | .nunpack f => f.hdr.b
  | .dualWord f => f.b
  | .ld f => f.hdr.b
  | .ldsx f => f.hdr.b
  | .st f => f.hdr.b
  | .ldx f => f.hdr.b
  | .stx f => f.hdr.b
  | .ldc f => f.hdr.b
  | .pref f => f.hdr.b
  | .ldRem f => f.hdr.b
  | .amoAdd f => f.hdr.b
  | .amoMin f => f.hdr.b
  | .amoMax f => f.hdr.b
  | .amoAnd f => f.hdr.b
  | .amoOr f => f.hdr.b
  | .amoXor f => f.hdr.b
  | .amoExch f => f.hdr.b
  | .amoFadd f => f.hdr.b
  | .fence f => f.hdr.b
  | .waitc f => f.hdr.b
  | .waitt f => f.hdr.b
  | .rdgtc f => f.hdr.b
  | .invl1 f => f.hdr.b
  | .granset f => f.hdr.b
  | .granclr f => f.hdr.b
  | .sload f => f.hdr.b
  | .sstore f => f.hdr.b
  | .sgather f => f.hdr.b
  | .sscatter f => f.hdr.b
  | .spref f => f.hdr.b
  | .bcopy f => f.hdr.b
  | .bfill f => f.hdr.b
  | .chsend f => f.hdr.b
  | .chsendS f => f.hdr.b
  | .chrecv f => f.hdr.b
  | .chrecvS f => f.hdr.b
  | .chpoll f => f.hdr.b
  | .takeR f => f.hdr.b
  | .takeS f => f.hdr.b
  | .takeK f => f.hdr.b
  | .giveR f => f.hdr.b
  | .giveS f => f.hdr.b
  | .giveK f => f.hdr.b
  | .mxclaim f => f.hdr.b
  | .mxfree f => f.hdr.b
  | .mxldb f => f.hdr.b
  | .mxmul f => f.hdr.b
  | .mxdrain f => f.hdr.b
  | .mxzero f => f.hdr.b
  | .mxsave f => f.hdr.b
  | .mxrest f => f.hdr.b
  | .mxrd f => f.hdr.b
  | .mxwr f => f.hdr.b
  | .txbegin f => f.hdr.b
  | .txend f => f.hdr.b
  | .txendG f => f.hdr.b
  | .txabort f => f.hdr.b
  | .bra f => f.hdr.b
  | .bru f => f.hdr.b
  | .brd f => f.hdr.b
  | .join f => f.hdr.b
  | .brx f => f.hdr.b
  | .call f => f.hdr.b
  | .ret f => f.hdr.b
  | .exit f => f.hdr.b
  | .nop f => f.hdr.b
  | .yield f => f.hdr.b
  | .gjoin f => f.hdr.b
  | .gleave f => f.hdr.b
  | .gvote f => f.hdr.b
  | .gshfl f => f.hdr.b
  | .gred f => f.hdr.b
  | .gelect f => f.hdr.b
  | .barinit f => f.hdr.b
  | .bararr f => f.hdr.b
  | .barwait f => f.hdr.b
  | .barsync f => f.hdr.b
  | .bardrop f => f.hdr.b
  | .ringinit f => f.hdr.b
  | .rput f => f.hdr.b
  | .rget f => f.hdr.b
  | .rfree f => f.hdr.b
  | .launch f => f.hdr.b
  | .launchPod f => f.hdr.b
  | .fetcht f => f.hdr.b
  | .cancel f => f.hdr.b
  | .nodesig f => f.hdr.b
  | .rdsr f => f.hdr.b
  | .wrsr f => f.hdr.b
  | .trap f => f.hdr.b
  | .bkpt f => f.hdr.b
  | .eret f => f.hdr.b
  | .halt f => f.hdr.b
  | .wlatch f => f.hdr.b
  | .tlbinvPage f => f.hdr.b
  | .tlbinvAsid f => f.hdr.b
  | .tlbinvAll f => f.hdr.b
  | .turnGrant _ _ => true
  | .loadDataReturn _ _ => true
  | .interruptTake _ _ => true
  | .walkAhead _ _ => true
  | .tlbinvComplete _ _ => true
  | .stageTransfer _ _ => true
  | .stageRetire _ _ => true
  | .barrowStart _ _ => true
  | .barrowTransfer _ _ => true
  | .barrowRetire _ _ => true
  | .podRetireReport _ _ _ => true
  | .mxldbPerform _ => true
  | .mxmulKstep _ => true
  | .matrixOpPerform _ => true
  | .drainApply _ => true
  | .drainRetire _ => true
  | .matrixClaimRelease _ => true
  | .gangRendezvousComplete _ _ => true
  | .takeGrant _ _ => true
  | .bankClearDone _ _ => true
  | .bankReturn _ _ => true
  | .granuleAccess _ _ _ => true
  | .channelSlotFull _ _ => true
  | .channelCreditReturn _ _ => true
  | .promotionRequest _ _ => true
  | .promotionAck _ _ => true
  | .txPrepare _ _ => true
  | .txDecide _ => true
  | .txCommitWrite _ _ => true
  | .txSingleBankCommit _ => true
  | .ejectHandoverDone _ _ => true
  | .boothTurn _ => true
  | .boothReturn _ _ => true
  | .repatriate _ _ => true
  | .boothTimeLimit _ _ => true
  | .handBackDone _ _ => true
  | .waittWake _ _ => true
  | .haltWake _ _ => true
  | .accessPerformed _ _ => true
  | .fillArrival _ _ => true
  | .bypassedRead _ _ => true
  | .lineWriteBack _ => true
  | .frameRelease _ _ => true
  | .packetArbitrate _ => true
  | .negativeResponse _ _ => true
  | .firewallDrainEnd _ => true
  | .faultRecordPost _ => true
  | .faultQueueFlush _ => true
  | .launchNotifyAccept _ => true
  | .placementDecision _ => true
  | .headAgeing _ _ => true
  | .paramFetch _ _ => true
  | .chunkRequest _ _ => true
  | .launchComplete _ => true
  | .preemptRequeue _ => true
  | .cancelEffect _ => true
  | .quantExpiry _ => true
  | .contextSave _ => true
  | .fnrstEnd _ => true
  | .wlatchComplete _ => true
  | .podRecordAppend _ => true
  | .podChunkRequest _ _ => true
  | .podComplete _ => true
  | .dispenseStart _ => true
  | .functionCoreRestart _ => true
  | .functionCoreCrash _ _ _ => true
  | .rootCoreCrash _ _ => true
  | .rootCoreRestart => true
  | .migrateUnit _ => true
  | .bootRetry _ => true
  | .mcfrel _ _ _ => true
  | .pfres _ _ => true
  | .engresResume _ _ _ => true
  | .engresPoison _ _ _ => true
  | .sramUncorrectable _ _ => true
  | .boothFailure _ => true
  | .pseudoChannelFailure _ _ _ => true
  | .fwctlWrite _ _ => true
  | .registerWrite _ _ _ _ => true
  | .nodeWrite _ _ _ => true
  | .lpreQueue _ _ => true
  | .lpreAll _ => true
  | .fnrst _ => true
  | .crierDeliver _ => true
  | .podMemberReport _ _ _ => true
  | .podMemberLost _ _ => true
  | .podDispatcherSilent _ => true
  | .podCancel _ _ _ => true
  | .powerOn _ => true
  | .manifestApply _ => true
  | .partitionReset _ => true
  | .networkBoot _ _ => true
  | .resizeRemove _ _ => true
  | .resizeAdd _ _ => true
  | .keyset _ => true
  | .keyclr _ => true
  | .attest _ => true
  | .meter _ => true
  | .health _ => true
  | .hcstart _ => true
  | .winexp _ => true
  | .strkey _ => true
  | .rotWatchdog _ => true
  | .meterAppend _ _ => true
  | .unitFailure _ => true
  | .podConfiguration _ => true
  | .flitReceive _ _ => true
  | .linkKeyAgree _ _ => true
  | .podJoin _ => true
  | .timeExchange _ => true
  | .tierPortFailure _ => true
  | .spdmGetVersion => true
  | .spdmGetCapabilities => true
  | .spdmNegotiateAlgorithms => true
  | .spdmGetMeasurements _ _ => true
  | .spdmUnsupported => true
  | .mgmtReadCrashRecords => true
  | .mgmtReadHealthLog => true
  | .mgmtReadMeteringLog _ => true
  | .mgmtBootStageReport => true

/-- clk that a word occupies its issue group (R274). (log 4) -/
def wordClk : Instr → Nat
  | .imulh _ => 2
  | .imadw _ => 2
  | .dot8 _ => 2
  | .imul f => if f.ty.toNat ≤ 1 then 2 else 1
  | .imulI _ => 2
  | .imad f => if f.ty.toNat ≤ 1 then 2 else 1
  | .frcp _ => 4
  | .frsq _ => 4
  | .fsqrt _ => 4
  | .fexp2 _ => 4
  | .flog2 _ => 4
  | .fsin _ => 8
  | .fcos _ => 8
  | .ftanh _ => 8
  | _ => 1

/-- Time passes by a number of clk: 5/18 tick each (R6, log 4). -/
def State.clk (s : State) (n : Nat) : State := { s with gtc := s.gtc + (s.phase + 5 * n) / 18, phase := (s.phase + 5 * n) % 18 }

/-- Time passes by a number of ticks. (log 4) -/
def State.tick (s : State) (n : Nat) : State := { s with gtc := s.gtc + n }

/-- The GTC is past its last value (R22). -/
def State.wrapped (s : State) : Bool := decide (2 ^ 64 ≤ s.gtc)

/-- The accesses of the thread that runs at a place, in its home core's queue (R371). -/
def State.accesses (s : State) (u i l : Nat) : List Access :=
  let (hu, hi, hl) := s.home u i l
  (s.core hu).outq.filter fun a => a.stripe == hi && a.lane == hl

/-- An acquiring access of a thread has no value yet (R370). -/
def State.acquiring (s : State) (u i l : Nat) : Bool := (s.accesses u i l).any fun a => decide (0 < a.acq) && !a.performed

/-- An engine operation of a thread has sources to read (R253). -/
def State.sourcing (s : State) (u i l : Nat) : Bool :=
  let (hu, hi, hl) := s.home u i l
  let c := s.core hu
  (c.stage.any fun o => o.stripe == hi && o.lane == hl && !o.complete)
    || ((c.matrix.queue ++ c.matrix.drain).any fun o => o.stripe == hi && o.lanes.getLsbD hl && !o.complete)
    || (s.slice (sliceOf hu)).barrows.any fun (_, b) => b.ops.any fun o => o.unit == hu && o.stripe == hi && o.lane == hl && !o.complete

/-- A barrow operation of a thread with a pod endpoint is not reported retired (R113, R253). -/
def State.podPending (s : State) (u i l : Nat) : Bool :=
  let (hu, hi, hl) := s.home u i l
  (s.slice (sliceOf hu)).barrows.any fun (_, b) => b.ops.any fun o =>
    o.unit == hu && o.stripe == hi && o.lane == hl && ((!o.fill && bits (leNat (o.block.take 16)) 127 124 == 3) || bits (leNat ((o.block.drop 16).take 16)) 127 124 == 3) && !o.reported

/-- A thread has accesses that are not performed: at .core its reads, beyond .core every one, and the writes of its core that were released to it at .core (R370); and the engine work that a fence adds (R253, R371). -/
def State.pending (s : State) (u i l : Nat) (far eng pod : Bool) : Bool :=
  ((s.accesses u i l).any fun a => !a.performed && (far || a.kind != AccKind.store) && a.kind != AccKind.pref)
    || (far && (s.core (s.home u i l).1).outq.any fun a => a.released && a.writes)
    || (eng && s.sourcing u i l) || (pod && s.podPending u i l)

/-- Accesses and engine operations of the issuing lanes stand before a .core or .arc release (R244). -/
def State.markReleased (s : State) (lanes : List Nat) : State :=
  lanes.foldl (fun s l =>
    let (hu, hi, hl) := s.home s.cur.unit s.cur.stripe l
    let s := s.onCore hu fun c =>
      { c with outq := mapIf (fun a : Access => a.stripe == hi && a.lane == hl) (fun a => { a with released := true }) c.outq,
               stage := mapIf (fun o : StageOp => o.stripe == hi && o.lane == hl) (fun o => { o with released := true }) c.stage,
               matrix := { c.matrix with queue := mapIf (fun o : MatOp => o.stripe == hi && o.lanes.getLsbD hl) (fun o => { o with released := true }) c.matrix.queue,
                                         drain := mapIf (fun o : MatOp => o.stripe == hi && o.lanes.getLsbD hl) (fun o => { o with released := true }) c.matrix.drain } }
    s.onSlice (sliceOf hu) fun k => { k with barrows := k.barrows.map fun (e, b) =>
      (e, { b with ops := mapIf (fun o : BarrowOp => o.unit == hu && o.stripe == hi && o.lane == hl) (fun o => { o with released := true }) b.ops }) }) s

/-- A launch of the package dispatcher, by its number. -/
def State.launch (s : State) (k : Nat) : Option Launch := Tab.find s.launches k

/-- The chunk of a launch that a slice dispenser serves from (R403). -/
def Slice.chunkOf (k : Slice) (launch : Nat) : Option (Nat × Nat × Nat) := k.chunks.find? fun c => c.1 == launch && decide (c.2.1 < c.2.2)

/-- No index of a launch is left to deal (R404, R414). -/
def Launch.dealt (x : Launch) : Bool := x.remnants.isEmpty && decide (x.total ≤ x.next) && (x.rcd.pod.isNone || (x.podChunks.isEmpty && x.podDone))

/-- A launch's cancel has taken effect (R351, R412): at the later of its GTC and its acceptance, whether or not the dispatcher has removed the launch yet. -/
def Launch.stopped (x : Launch) (gtc : Nat) : Bool := x.cancelled || x.cancelAt.any (· ≤ gtc)

/-- What a slice dispenser answers a FETCHT of the team on a core (R350, R404, R410 to R412): status and linear index; none while it must wait. -/
def State.fetchAnswer (s : State) (u : Nat) : Option (Nat × Nat) :=
  match (s.core u).team with
  | none => some (1, 0)
  | some t =>
    if t.fetchEnd ≠ 0 then some (t.fetchEnd, 0)
    else
      match s.launch t.launch with
      | none => some (1, 0)
      | some x =>
        if x.stopped s.gtc then some (1, 0)
        else if x.preempt || t.yield then some (2, 0)
        else if !x.started then none
        else
          match (s.slice (sliceOf u)).chunkOf t.launch with
          | some (_, i, _) => some (0, i)
          | none => if x.dealt then some (1, 0) else none

/-- A wait is over (R139, R140): registers are full, a counter has room or has fallen, a time is reached, a bank is clear, a granule has changed, a phase has completed. Waits that an event ends stay until it ends them. -/
def State.waitOver (s : State) (u i : Nat) (w : Wait) : Bool :=
  let c := s.core u
  let t := s.stripe u i
  match w with
  | .regs l => l.all fun x => !(t.lane x.1).empty.getLsbD x.2
  | .counter k => decide (Tab.get t.counters k 0 < 63)
  | .counters m n => (List.range 5).all fun k => !m.testBit k || decide (Tab.get t.counters k 0 ≤ n)
  | .time v => decide (v ≤ s.gtc)
  | .bank v b => !(s.core v).clearing.contains b
  | .full v off n => (granRange off n).all fun g => (s.core v).full g
  | .line sl loc => !s.releasing sl loc && s.bankTakes sl loc false false false
  | .port v off n => !s.portBusy v off n
  | .granule => !(s.granq.any fun g => g.unit == u && g.stripe == i && g.value.isNone)
  | .credit k => match Tab.find c.chans k with
    | some ch => decide (0 < ch.credits) || ch.peerGone
    | none => true
  | .slot k => match Tab.find c.chans k with
    | some ch => ch.senderGone || (List.range (ch.ssz + 1)).all fun j =>
        Tab.get c.fbits (4096 * ch.bank + ch.off + ch.hi * (ch.ssz + 1) + j) false
    | none => true
  | .barrier arc b ph =>
    let bar := if arc then Tab.get (s.slice (sliceOf u)).arcBar b {} else Tab.get c.barriers b {}
    let d := (bar.ph - ph).toNat
    decide (0 < d) && decide (d < 2 ^ 31)
  | .ring q sl e => match Tab.find c.rings q with
    | some r => decide (r.ns ≤ sl) || r.ph.getLsbD sl == e
    | none => true
  | .gang _ => false
  | .take _ => false
  | .acquire m => (maskLanes m).all fun l => !s.acquiring u i l
  | .order m far eng pod => (maskLanes m).all fun l => !s.pending u i l far eng pod
  | .reserved b pa n => !((s.bank b).reserved.any fun r => r.write && decide (r.pa < pa + n) && decide (pa < r.pa + r.size))
  | .commit => !(s.commits.any fun x => x.unit == u && x.stripe == i)
  | .queue k => match k with
    | 0 => decide (c.stage.length < 64)
    | 1 => decide (c.matrix.queue.length < 32)
    | 2 => decide (c.matrix.drain.length < 32)
    | e => decide ((Tab.get (s.slice (sliceOf u)).barrows (e - 3) {}).ops.length < 256)
  | .answer k => match k with
    | 0 => !(c.promos.any fun p => p.stripe == i && !p.acked)
    | 1 => !(s.funcs.any fun f => f.2.notifies.any fun n => n.unit == u && n.stripe == i)
    | 2 => (s.fetchAnswer u).isSome
    | 3 => !(c.invals.any fun v => v.stripe == i)
    | _ => !(s.cores.any fun v => v.2.latching.isSome && v.2.latchBy == some (u, i))

/-- A lane is ready (R139): its thread runs, its wait is over, and it may run beside a handler of its stripe (R422). -/
def State.laneReady (s : State) (u i l : Nat) : Bool :=
  let t := s.stripe u i
  let th := t.lane l
  let free := !t.xin || (t.xgroup.getLsbD l && !t.xback.getLsbD l)
  free && (match th.status with
    | .ready => true
    | .waiting w => s.waitOver u i w
    | _ => false)

/-- A booth thread's time limit has passed (R388): EJTO clk from its start stamp; EJTO = 0 sets none. -/
def State.timeUp (s : State) (g : Guest) : Bool :=
  let limit := (s.core g.home).ejto.toNat
  limit != 0 && g.start.any fun st => decide (st + clkTicks limit ≤ s.gtc)

/-- A booth thread stands at a run boundary with no access of its word performed part-way. -/
def State.atBoundary (s : State) (u k : Nat) : Bool := (s.thread u k 0).run == 0 && !(s.granq.any fun x => x.unit == u && x.stripe == k && x.value.isSome)

/-- A booth thread does not issue (R385 to R388): its hand-over is not complete, it goes home, it stands at its join PC with an empty stack, or it is marked or past its time limit at a run boundary. -/
def State.boothHolds (s : State) (u k : Nat) : Bool :=
  match Tab.find (s.core u).guests k with
  | none => true
  | some g =>
    let t := s.stripe u k
    !g.arrived || g.returning || g.back || ((t.lane 0).pc == g.joinPc && t.join.isEmpty) || ((g.marked || s.timeUp g) && s.atBoundary u k)

/-- A team that is being saved takes no turn (R433). -/
def Core.saving (c : Core) : Bool := match c.team with
  | some t => t.saving
  | none => false

/-- A core executes words (R21): its slice belongs to a partition, or it is a firmware core. -/
def State.executes (s : State) (u : Nat) : Bool :=
  match kindOf u with
  | .simt | .booth | .host => (s.slice (sliceOf u)).part.isSome
  | _ => true

/-- A stripe may take a turn: its core executes, it is not parked, its blocked word may go on, no latch sequence runs, and a lane is ready (R140, R141). -/
def State.stripeReady (s : State) (u i : Nat) : Bool :=
  let t := s.stripe u i
  s.executes u && !t.parked && !s.inDrain u && (s.core u).latching.isNone && !(s.core u).failed && !(s.core u).saving && (kindOf u != .booth || !s.boothHolds u i)
    && (match t.wait with
      | none => true
      | some w => s.waitOver u i w)
    && (List.range 32).any fun l => s.laneReady u i l

/-- The groups that the vote selects (R139, R382): the lanes at the lowest PC, and those at the next; in serial mode the lowest lane at the lowest PC alone. -/
def State.vote (s : State) (u i : Nat) : LaneMask × LaneMask :=
  let t := s.stripe u i
  let ready := (List.range 32).filter fun l => s.laneReady u i l
  let low (ls : List Nat) : Option Nat := ls.foldl (fun a l => some (min (a.getD (t.lane l).pc.toNat) (t.lane l).pc.toNat)) none
  match low ready with
  | none => (0, 0)
  | some pa =>
    -- Lanes of a word that waits part-way go on apart from those that have reached it since.
    let apart (ls : List Nat) : List Nat := if ls.any fun l => (t.lane l).begun then ls.filter fun l => (t.lane l).begun else ls
    let a := apart (ready.filter fun l => (t.lane l).pc.toNat == pa)
    if t.serial then (laneMask fun l => a.head? == some l, 0)
    else
      match low (ready.filter fun l => (t.lane l).pc.toNat != pa) with
      | none => (laneMask a.contains, 0)
      | some pb => (laneMask a.contains, laneMask (apart (ready.filter fun l => (t.lane l).pc.toNat == pb)).contains)

/-- A lane waits at an arcade barrier. -/
def Thread.atArcade (t : Thread) : Bool :=
  match t.status with
  | .waiting (.barrier true _ _) => true
  | _ => false

/-- Every line of a core's data cache is dropped; fills in flight are not installed (R249, R374). -/
def Core.dropLines (c : Core) : Core := { c with lines := [], outq := c.outq.map fun a : Access => { a with install := false } }

/-- The lanes that take part in a turn run: waits that are over end (R139, R140). The return from an arcade barrier drops the core's lines (R374). (log 41) -/
def State.startLanes (s : State) (u i : Nat) (m : LaneMask) : State :=
  let s := if (maskLanes m).any fun l => (s.thread u i l).atArcade then s.onCore u Core.dropLines else s
  s.onStripe u i fun t => { t with wait := none }.mapLanes fun l th => if m.getLsbD l then { th with status := .ready } else th

/-- A quadrant grants its slot to a stripe (R139, R141). -/
def State.grant (s : State) (u q i : Nat) : State :=
  let (a, b) := s.vote u i
  let s := s.startLanes u i (a ||| b)
  s.onCore u fun c => { c with quads := Tab.set c.quads q { turn := some { stripe := i, a := a, b := b }, last := i } }

/-- What a fetch gives. -/
inductive Fetched where
  /-- The group is not open: nothing issues. -/
  | idle
  /-- The fetch or the decode stopped the word. -/
  | stopped (s : State)
  /-- The word is issued: cur names it. -/
  | word (s : State) (i : Instr)
  deriving DecidableEq, Repr

/-- The bytes of the word at the issuing group's PC, through the checks of R65 for a fetch (R57, R63, R76, R444); it waits for what their home makes it wait for (R41, R84, R85, R323). (log 57) -/
def State.fetchWord (s : State) : State × Except Stop (BitVec 64) :=
  let l := (s.curLanes.head?).getD 0
  let u := s.cur.unit
  let part := s.curPart
  let va := s.cur.pc.toNat
  let r : Req := { part := part, ptb := s.ptbOf u s.cur.stripe l, priv := s.curPriv, need := .fetch, tlb := s.curTlb }
  if va % 8 ≠ 0 then (s, .error (.trap { cause := 0x0D, lane := l, addr := va }))
  else
    match s.translate r va with
    | (s, .error (.held w)) => (s, .error (.block w))
    | (s, .error (.page d lvl)) => (s, .error (.page [{ idx := 0, lvl := lvl, va := va, lane := l, xf := true, dcode := d }]))
    | (s, .error e) => (s, .error (.trap { e.trap va with lane := l }))
    | (s, .ok x) =>
      if x.pa < 0x800000 then (s, .error (.trap { cause := 0x0F, lane := l, addr := va }))
      else
        let pass := s.curPriv.atK && (s.curKind == .host || s.curKind == .func || s.curKind == .root)
        match s.keyCheck { part := part, world := s.worldOf u s.cur.stripe l, pass := pass, key := x.key, isSealed := x.isSealed } x.pa with
        | (s, false) => (s, .error (.trap { cause := 0x10, lane := l, addr := va }))
        | (s, true) =>
          match s.homeWait part x.pa 8 false true with
          | some w => (s, .error (.block w))
          | none =>
            match s.readPa part x.pa 8 with
            | (s, _, true) => (s, .error (.trap { cause := 0x13, lane := l, addr := va }))
            | (s, bs, false) => (s, .ok (BitVec.ofNat 64 (leNat bs)))

/-- A group of a turn may issue its next word now: each issues one when its last has taken its clk (R139, R274). -/
def Turn.mayIssue (t : Turn) (groupB : Bool) : Bool := if groupB then t.a == 0 || decide (t.cb < t.ca) else t.b == 0 || decide (t.ca ≤ t.cb)

/-- The group of a quadrant becomes the issuing group; none when its turn is not open, when the other group comes first, whose words have taken fewer clk of the turn, or as many and it is group A (R139, R274), or when the core's slice belongs to no partition or is in drain (R21, R93). -/
def State.openGroup (s : State) (u q : Nat) (groupB : Bool) : Option Cur :=
  match (Tab.get (s.core u).quads q {}).turn with
  | none => none
  | some t =>
    let m := if groupB then t.b else t.a
    if m = 0 || !t.mayIssue groupB || !s.executes u || s.inDrain u then none
    else
      let l := ((maskLanes m).head?).getD 0
      some { unit := u, stripe := t.stripe, quad := q, groupB := groupB, lanes := m, pc := (s.thread u t.stripe l).pc }

/-- The start stamp of a booth thread: the GTC at which its first word issues (R386). -/
def State.startGuest (s : State) : State :=
  if s.curKind == .booth then
    s.onCore s.cur.unit fun c => { c with guests := mapIf (fun e : Nat × Guest => e.1 == s.cur.stripe) (fun e => (e.1, { e.2 with start := some (e.2.start.getD s.gtc) })) c.guests }
  else s

/-- A core kind lacks an opcode (R230 step 1): stage, channel, matrix, transaction, gang, barrier and ring words, TAKE, GIVE and FETCHT off SIMT cores and booths
(R259, R263, R267, R302, R315, R335, R340, R346, R350); barrow and launch words and TLBINV on firmware cores (R259, R349, R361); WLATCH off them (R359); HALT on SIMT cores (R358). (log 43) -/
def kindLacks (k : Kind) (w : BitVec 64) : Bool :=
  let opc := (wordOpc w).toNat
  let simtOnly : Bool := (decide (0x180 ≤ opc) && decide (opc < 0x185)) || (decide (0x190 ≤ opc) && decide (opc < 0x213)) || (decide (0x300 ≤ opc) && decide (opc < 0x314)) || opc == 0x319
  !w.getLsbD 62 && (match k with
    | .simt => opc == 0x385 || opc == 0x387
    | .booth => opc == 0x385 || opc == 0x387
    | .host => opc == 0x385 || simtOnly
    | _ => simtOnly || opc == 0x188 || opc == 0x189 || (decide (0x318 ≤ opc) && decide (opc < 0x31C)) || opc == 0x386)

/-- The words of a group take their clk of the turn (R274). -/
def State.occupy (s : State) (n : Nat) : State :=
  s.onCore s.cur.unit fun c => { c with quads := Tab.modify c.quads s.cur.quad {} fun q =>
    { q with turn := q.turn.map fun t => if s.cur.groupB then { t with cb := t.cb + n } else { t with ca := t.ca + n } } }

/-- A group issues a word (R139): it takes a clk of the turn, which ends where it was to end after it (R140). -/
def State.beginWord (s : State) : State :=
  s.onCore s.cur.unit fun c => { c with quads := Tab.modify c.quads s.cur.quad {} fun q =>
    { q with turn := q.turn.bind fun t =>
        if t.ending then none else some (if s.cur.groupB then { t with cb := t.cb + 1 } else { t with ca := t.ca + 1 }) } }

/-- The next word of a group is fetched, decoded and checked for the run length (R138, R230). -/
def State.issue (s : State) (u q : Nat) (groupB : Bool) : Fetched :=
  match s.openGroup u q groupB with
  | none => .idle
  | some c =>
    let s := ({ s with cur := c } : State).beginWord
    let l := (s.curLanes.head?).getD 0
    if s.curKind == .booth && s.boothHolds u s.cur.stripe then .stopped s.endTurn
    else
    match (s.startGuest).fetchWord with
    | (s, .error e) => .stopped (s.stopWord noRunAhead e)
    | (s, .ok w) =>
      match decode w with
      | .illegal => .stopped (s.stopWord noRunAhead (.trap { cause := 0x01, lane := l }))
      | .reserved => .stopped (s.stopWord noRunAhead (.trap { cause := if kindLacks s.curKind w then 0x01 else 0x02, lane := l }))
      | .ok i =>
        match s.curLanes.find? fun l => !wordB i && decide (23 ≤ (s.curThread l).run) with
        | some l => .stopped (s.stopWord noRunAhead (.trap { cause := 0x01, lane := l }))
        | none => .word (if wordClk i = 1 then s else s.occupy (wordClk i - 1)) i

end Sys2Proof.Machine
end

