-- ==== Sys2Proof/Machine/Branch.lean ====
section
/-!
DEFINITION. Branches and divergence: BRA to YIELD, the join stack, serial mode and the ejection of a minority (R329 to R334, R381 to R385).
-/
namespace Sys2Proof.Machine

/-- The lanes of the group go on at their own next PC; the word ends the run (R329). f changes a lane first. -/
def State.branch (s : State) (f : Nat → Thread → Thread) : State :=
  ((s.onCur fun t => t.mapLanes fun l th =>
    if s.cur.lanes.getLsbD l then { f l th with run := 0, done := false } else th).onCur Stripe.leaveSerial).stopGroup

/-- The target of a B form (R211, R329). -/
def branchTarget (pc : VAddr) (off : BitVec 38) : VAddr := pc + off.signExtend 52 * 8

/-- A lane taken to a target or on to the next word. -/
def Thread.goTo (t : Thread) (taken : Bool) (target : VAddr) : Thread := { t with pc := if taken then target else t.pc + 8 }

/-- BRA (R330). -/
def execBra (f : FmtB) (s : State) : Host.Outcome State Fault Refusal :=
  .next (s.branch fun _ t => t.goTo (guardVal f.hdr t.preds) (branchTarget s.cur.pc f.off))

/-- The lanes of the issuing group whose guard holds, as a mask. -/
def State.takenMask (s : State) (h : Hdr) : LaneMask := laneMask fun l => s.cur.lanes.getLsbD l && guardVal h (s.curThread l).preds

/-- BRU (R331): a split guard raises UNIFORM. -/
def execBru (f : FmtB) (s : State) : Host.Outcome State Fault Refusal :=
  let taken := s.takenMask f.hdr
  let first := ((s.curLanes.head?).map taken.getLsbD).getD false
  .next (match s.curLanes.find? fun l => taken.getLsbD l != first with
    | some l => s.stopWord noRunAhead (.trap { cause := 0x07, lane := l, det := [s.cur.lanes, taken] })
    | none => s.branch fun _ t => t.goTo (guardVal f.hdr t.preds) (branchTarget s.cur.pc f.off))

/-- The target offset of BRD, bits [47:29] (R211). -/
def brdTarget (pc : VAddr) (off : BitVec 38) : VAddr := pc + (off.extractLsb' 19 19).signExtend 52 * 8
/-- The join PC of BRD, from bits [28:10] (R211, R332). -/
def brdJoin (pc : VAddr) (off : BitVec 38) : VAddr := pc + (off.extractLsb' 0 19).signExtend 52 * 8

/-- Booth threads that a core holds (R384). -/
def State.guestCount (s : State) (home : Nat) : Nat := (s.cores.map fun (_, c) => c.guests.countP fun g => g.2.home == home).sum

/-- The lowest free thread of a booth core. -/
def Core.freeSlot (c : Core) : Option Nat := (List.range 8).find? fun k => (Tab.find c.guests k).isNone

/-- The booth thread a lane of a core gets (R384): a booth of the core's world with room, else a booth that holds no thread. -/
def State.boothFor (s : State) (u : Nat) : Option (Nat × Nat) :=
  let bs := s.booths (sliceOf u) (arcadeOf u)
  let w := (s.core u).world
  if 8 ≤ s.guestCount u then none
  else
    match bs.find? fun b => !(s.core b).guests.isEmpty && (s.core b).world == w && (s.core b).freeSlot.isSome with
    | some b => ((s.core b).freeSlot).map fun k => (b, k)
    | none => (bs.find? fun b => (s.core b).guests.isEmpty).map fun b => (b, 0)

/-- One lane is handed over to a booth thread (R384, R385): its base registers, predicates, PC and run count move; its join stack starts empty. -/
def State.handOver (s : State) (u i l : Nat) (pc joinPc : VAddr) (b k : Nat) : State :=
  let th := s.thread u i l
  let c := s.core b
  let c := if c.guests.isEmpty then { c with world := (s.core u).world, lines := [], consts := [], tlb := [], walkCache := [] } else c
  let guest : Guest := { home := u, stripe := i, lane := l, joinPc := joinPc, due := s.gtc + clkTicks 40 }
  let t : Thread := { status := .absent, g := th.g.filter fun e => e.1 < 32, preds := th.preds, pc := pc, run := th.run, priv := th.priv, acquired := th.acquired, txcause := th.txcause }
  let s := s.setCore b ({ c with guests := Tab.set c.guests k guest }.onStripe k fun _ => { lanes := [(0, t)] })
  let s := s.onStripe u i fun x => (x.onLane l fun th => { th with status := .ejected b k, run := 0 }).leaveJoins l
  s.onSlice (sliceOf u) fun x => { x with ejects := Tab.modify x.ejects (arcadeOf u) 0 fun n => min (n + 1) 0xFFFFFFFF }

/-- The minority lanes placed on booth threads in ascending lane order; none when the pool cannot place them all (R384). -/
def State.ejectAll (s : State) (u i : Nat) (next : Nat → VAddr) (joinPc : VAddr) (lanes : List Nat) : Option State :=
  match lanes with
  | [] => some s
  | l :: rest =>
    match s.boothFor u with
    | none => none
    | some (b, k) => State.ejectAll (s.handOver u i l (next l) joinPc b k) u i next joinPc rest

/-- The minority of a split (R383): the taken lanes when they are no more than the others. -/
def minority (taken rest : List Nat) : List Nat := if taken.length ≤ rest.length then taken else rest

/-- The minority may be ejected, apart from the pool's room (R383). -/
def State.mayEject (s : State) (few : List Nat) : Bool :=
  let ejt := min ((s.core s.cur.unit).ejt.toNat % 32) 16
  s.curKind == .simt && decide (0 < few.length) && decide (few.length ≤ ejt)
    && (few.all fun l => (List.range 32).all fun r => !(s.curThread l).empty.getLsbD r)
    && (s.curLanes.all fun l => (s.curThread l).tx.depth == 0)

/-- BRD (R330, R332, R381, R383). -/
def execBrd (f : FmtB) (s : State) : Host.Outcome State Fault Refusal :=
  let t := s.curStripe
  let target := brdTarget s.cur.pc f.off
  let join := brdJoin s.cur.pc f.off
  let next (l : Nat) : VAddr := if guardVal f.hdr (s.curThread l).preds then target else s.cur.pc + 8
  let full := decide (8 ≤ t.join.length)
  let serial := t.serial || full
  -- lanes that push, and lanes whose overflow count rises
  let up := laneMask fun l => s.cur.lanes.getLsbD l && (full || (t.serial && decide (0 < (t.lane l).lov)))
  let push := s.cur.lanes &&& ~~~up
  .next (match s.curLanes.find? fun l => up.getLsbD l && decide (255 ≤ (t.lane l).lov) with
    | some l => s.stopWord noRunAhead (.trap { cause := 0x01, dcode := 0x27, lane := l })
    | none =>
      let pushed := s.onCur fun t => { t with serial := serial, join := if push = 0 then t.join else { pc := join, mask := push } :: t.join }
      let moved := pushed.branch fun l th =>
        { th with pc := next l, lov := if up.getLsbD l then th.lov + 1 else th.lov }
      let taken := s.curLanes.filter fun l => guardVal f.hdr (s.curThread l).preds
      let rest := s.curLanes.filter fun l => !guardVal f.hdr (s.curThread l).preds
      let few := minority taken rest
      if f.x.getLsbD 0 && !serial && s.mayEject few then (moved.ejectAll s.cur.unit s.cur.stripe next join few).getD moved else moved)

/-- A lane's JOIN (R333, R381): it lowers its overflow count, or arrives at its topmost entry, or passes. -/
def Stripe.joinLane (t : Stripe) (pc : VAddr) (l : Nat) : Stripe :=
  let th := t.lane l
  if t.serial && decide (0 < th.lov) then t.onLane l fun th => { th with lov := th.lov - 1, pc := th.pc + 8 }
  else
    match t.join.findIdx? fun e => e.mask.getLsbD l with
    | none => t.onLane l fun th => { th with pc := th.pc + 8 }
    | some k =>
      if ((t.join[k]?).map JoinEntry.pc) == some pc then
        { t with join := t.join.modify k fun e => { e with arrived := setBit e.arrived l true } }.onLane l fun th => { th with status := .joined }
      else t.onLane l fun th => { th with pc := th.pc + 8 }

/-- A lane's JOIN is its arrival at its topmost entry (R333). -/
def Stripe.arrives (t : Stripe) (pc : VAddr) (l : Nat) : Bool :=
  !(t.serial && decide (0 < (t.lane l).lov)) && ((t.join.find? fun e => e.mask.getLsbD l).map JoinEntry.pc) == some pc

/-- JOIN (R333). An arrival is a .core release of the lane (R368), on a booth an .arc one (R241): it waits for the lane's earlier accesses, and those it releases are noted for a promotion (R244). -/
def execJoin (_f : FmtR) (s : State) : Host.Outcome State Fault Refusal :=
  let come := s.curLanes.filter (s.curStripe.arrives s.cur.pc)
  let far := s.curKind == .booth
  let late := come.filter fun l => s.pending s.cur.unit s.cur.stripe l far false false
  .next (if !late.isEmpty then s.blockWord (.order (laneMask late.contains) far false false)
    else
      let s := s.markReleased come
      let joined := s.onCur fun t => settleJoins 9 (s.curLanes.foldl (fun t l => t.joinLane s.cur.pc l) t)
      joined.branch fun _ th => th)

/-- The checks of BRX and RET: the pair is mapped and full, the target aligned, in every active lane (R150, R153, R211). -/
def State.checkTarget (s : State) (f : FmtR) : Chk Unit :=
  match s.checkSem (s.active f.hdr) fun _ => { srcs := srcPair f.sa f.fa, apply := fun _ t => t } with
  | .error e => .error e
  | .ok _ =>
    match (s.active f.hdr).find? fun l => ((s.curThread l).pair f.sa.toNat).toNat % 8 != 0 with
    | some l => .error (.trap { cause := 0x0D, lane := l, addr := ((s.curThread l).pair f.sa.toNat).toNat })
    | none => .ok ()

/-- A branch to a register target (R330). -/
def State.branchReg (s : State) (f : FmtR) : State :=
  match s.checkTarget f with
  | .error e => s.stopWord noRunAhead e
  | .ok _ => s.branch fun _ t => t.goTo (guardVal f.hdr t.preds) ((t.pair f.sa.toNat).setWidth 52)

/-- BRX (R330). -/
def execBrx (f : FmtR) (s : State) : Host.Outcome State Fault Refusal := .next (s.branchReg f)
/-- RET (R330). -/
def execRet (f : FmtR) (s : State) : Host.Outcome State Fault Refusal := .next (s.branchReg f)

/-- CALL (R211, R330): g30:g31 take PC + 8 in the lanes that branch. -/
def execCall (f : FmtB) (s : State) : Host.Outcome State Fault Refusal :=
  .next (match s.checkSem (s.active f.hdr) fun _ => { srcs := [], dsts := [30, 31], apply := fun _ t => t } with
    | .error e => s.stopWord noRunAhead e
    | .ok _ => s.branch fun _ t =>
      (if guardVal f.hdr t.preds then t.setPair 30 ((t.pc + 8).setWidth 64) else t).goTo (guardVal f.hdr t.preds) (branchTarget s.cur.pc f.off))

/-- EXIT of a lane at the place where it runs: an ejected thread exits at home and its booth thread is free at once (R144, R390). -/
def State.exitAt (s : State) (u i l : Nat) : State :=
  match kindOf u with
  | .booth =>
    let (hu, hi, hl) := s.home u i l
    let s := (s.onCore hu fun c => { c with outq := mapIf (fun a : Access => a.stripe == hi && a.lane == hl) (fun a => { a with booth := a.booth.or (some u) }) c.outq }).exitThread hu hi hl
    { s with granq := s.granq.filter fun g => !(g.unit == u && g.stripe == i) }.onCore u fun c => { c with guests := Tab.erase c.guests i, stripes := Tab.erase c.stripes i }
  | _ => s.exitThread u i l

/-- EXIT (R330, R144). -/
def execExit (f : FmtR) (s : State) : Host.Outcome State Fault Refusal :=
  let lanes := s.active f.hdr
  let moved := s.branch fun _ t => if guardVal f.hdr t.preds then t else { t with pc := t.pc + 8 }
  let gone := lanes.foldl (fun s l => s.exitAt s.cur.unit s.cur.stripe l) moved
  -- the turn has ended, and the exit of the last lane that overflowed ends serial mode (R381)
  .next (if s.curKind == .booth then gone else gone.onCur Stripe.leaveSerial)

/-- NOP (R334). -/
def execNop (f : FmtR) (s : State) : Host.Outcome State Fault Refusal := .next (s.finishPlain f.hdr.b)

/-- YIELD (R334): the turn ends when a lane is active. -/
def execYield (f : FmtR) (s : State) : Host.Outcome State Fault Refusal :=
  .next (if (s.active f.hdr).isEmpty then s.finishPlain f.hdr.b else (s.finishPlain f.hdr.b).endTurn)

end Sys2Proof.Machine
end

