-- ==== Sys2Proof/Machine/Float.lean ====
section
/-!
DEFINITION. Floating-point arithmetic, the special functions, conversions and narrow codes (R289 to R301).
-/
namespace Sys2Proof.Machine

/-- An operation on the elements of a float type: two for the packed types, else one, with the rest of the register zero (R162, R272). -/
def floatElems (ty : Nat) (op : Nat → Nat) : Word :=
  BitVec.ofNat 32 (joinElems (tyWidth ty) ((List.range (tyCount ty)).map op))

/-- FADD, FSUB, FMUL, FFMA of one element (R289). -/
def faddElem (f : FloatFmt) (mode : Rounding) (a b : Nat) : Nat := f.sum mode [f.decode a, f.decode b]
/-- FSUB of one element: a + (-b). -/
def fsubElem (f : FloatFmt) (mode : Rounding) (a b : Nat) : Nat := f.sum mode [f.decode a, (f.decode b).neg]
/-- FMUL of one element. -/
def fmulElem (f : FloatFmt) (mode : Rounding) (a b : Nat) : Nat := f.round mode ((f.decode a).mul (f.decode b))
/-- FFMA of one element: the product counts as one term. -/
def ffmaElem (f : FloatFmt) (mode : Rounding) (a b c : Nat) : Nat := f.sum mode [(f.decode a).mul (f.decode b), f.decode c]

/-- A two-operand float operation on each element. -/
def float2 (ty : Nat) (op : FloatFmt → Nat → Nat → Nat) (a b : Word) : Word :=
  floatElems ty fun i => op (tyFmt ty) (elem a (tyWidth ty) i) (elem b (tyWidth ty) i)

/-- FFMA (R289). -/
def ffmaVal (ty : Nat) (mode : Rounding) (a b c : Word) : Word :=
  floatElems ty fun i => ffmaElem (tyFmt ty) mode (elem a (tyWidth ty) i) (elem b (tyWidth ty) i) (elem c (tyWidth ty) i)

/-- FSCALE (R291). -/
def fscaleVal (ty : Nat) (mode : Rounding) (a b : Word) : Word :=
  floatElems ty fun i =>
    (tyFmt ty).round mode (((tyFmt ty).decode (elem a (tyWidth ty) i)).scale (if tyCount ty = 2 then sext (elem b 16 i) 16 else sext b.toNat 32))

/-- FDOT2 (R292). -/
def fdot2Val (ty : Nat) (mode : Rounding) (a b c : Word) : Word :=
  let f := tyFmt ty
  let term (i : Nat) : FVal := (f.decode (elem a 16 i)).mul (f.decode (elem b 16 i))
  BitVec.ofNat 32 (fp32.sum mode [fp32.decode c.toNat, term 0, term 1])

/-- FCLASS (R294). -/
def fclassVal (ty : Nat) (a : Word) : Word := floatElems ty fun i => (tyFmt ty).classMask (elem a (tyWidth ty) i)

/-- A function of R295 on each element. -/
def realVal (fn : RealFn) (ty : Nat) (mode : Rounding) (a : Word) : Word :=
  floatElems ty fun i => (tyFmt ty).round mode (fn.apply ((tyFmt ty).decode (elem a (tyWidth ty) i)))

/-- The rounding mode of an R form (R205). -/
def rmOf (f : FmtR) : Rounding := Rounding.ofCode f.rm

/-- FCVT (R298): target, source, the selector Q[0]. -/
def fcvtVal (ty src q : Nat) (mode : Rounding) (a b : Word) : Word :=
  let t := tyFmt ty
  let s := tyFmt src
  if ty = 8 then BitVec.ofNat 32 (t.round mode (s.decode (elem a 16 (if tyCount src = 2 then q % 2 else 0))))
  else if tyCount ty = 2 then
    (if src = 8 then BitVec.ofNat 32 (joinElems 16 [t.round mode (fp32.decode a.toNat), t.round mode (fp32.decode b.toNat)])
     else BitVec.ofNat 32 (joinElems 16 ((List.range 2).map fun i => t.round mode (s.decode (elem a 16 i)))))
  else BitVec.ofNat 32 (t.round mode (s.decode (if src = 8 then a.toNat else elem a 16 0)))

/-- ICVT (R299). -/
def icvtVal (ty src : Nat) (mode : Rounding) (a : Word) : Word :=
  floatElems ty fun i => (tyFmt ty).round mode (FVal.ofInt (elemInt src (elem a (tyWidth src) i)))

/-- FCVTI (R299). -/
def fcvtiVal (ty src : Nat) (mode : Rounding) (a : Word) : Word :=
  let w := tyWidth ty
  let lo : Int := if tySigned ty then -(2 ^ (w - 1)) else 0
  let hi : Int := if tySigned ty then 2 ^ (w - 1) - 1 else 2 ^ w - 1
  BitVec.ofNat 32 (joinElems w ((List.range (tyCount src)).map fun i => wrapNat (((tyFmt src).decode (elem a (tyWidth src) i)).toInt mode lo hi) w))

/-- The value gA holds as the type of NPACK: .i32 or a scalar float type (R300). -/
def narrowSource (ty : Nat) (a : Word) : FVal := if ty = 0 then FVal.ofInt (sext a.toNat 32) else (tyFmt ty).decode (elem a (tyWidth ty) 0)

/-- Bad format for NPACK (R300): a failed check of R167, CLS not 0, or a byte selector of 4 or more. -/
def npackBad (d : Descr) (q : Nat) : Bool := d.bad true false || d.cls != 0 || (4 < d.width && 4 ≤ q)

/-- NPACK (R300). -/
def npackVal (ty q : Nat) (mode : Rounding) (a b : Word) (fw : Word) : Word :=
  let d := Descr.ofNat fw.toNat
  let w := d.bitsPer
  let code := d.encode mode (narrowSource ty a)
  BitVec.ofNat 32 (b.toNat - elem b w q * 2 ^ (w * q) + code * 2 ^ (w * q))

/-- Bad format for NUNPACK (R301). -/
def nunpackBad (ty : Nat) (d : Descr) (q : Nat) : Bool := d.bad false false || d.cls != 0 || (4 < d.width && 4 ≤ q) || (ty == 0 && d.e != 0)

/-- NUNPACK (R301): bits above the code are ignored (R168). -/
def nunpackVal (ty q : Nat) (mode : Rounding) (a : Word) (fw : Word) : Word :=
  let d := Descr.ofNat fw.toNat
  let v := d.decode (elem a d.bitsPer q % 2 ^ d.width)
  if ty = 0 then BitVec.ofNat 32 (wrapNat (v.toInt .rn (-(2 ^ 31)) (2 ^ 31 - 1)) 32) else BitVec.ofNat 32 ((tyFmt ty).round mode v)

/-! ## What each word does to a lane -/

/-- FCMP (R293). -/
def wordFcmp (f : FmtR) : Sem :=
  semPred (srcOf f.sa f.fa ++ srcOf f.sb f.fb) (f.dst.toNat % 8) fun t =>
    fcmpHolds f.q.toNat (tyFmt f.ty.toNat) (elem (modify f.ma f.ty.toNat (t.reg f.sa.toNat)) (tyWidth f.ty.toNat) 0)
      (elem (modify f.mb f.ty.toNat (t.reg f.sb.toNat)) (tyWidth f.ty.toNat) 0)

/-- FCVT (R298): SB is read only in the row with two sources; the modifiers act on the source type (R273). -/
def wordFcvt (f : FmtR) : Sem :=
  let two := ((fcvtRow f.ty.toNat f.srcTy).map (·.1)).getD false
  semReg (srcOf f.sa f.fa ++ (if two then srcOf f.sb f.fb else [])) f.dst fun t =>
    fcvtVal f.ty.toNat f.srcTy f.q.toNat (rmOf f) (modify f.ma f.srcTy (t.reg f.sa.toNat)) (modify f.mb f.srcTy (t.reg f.sb.toNat))

/-- NPACK (R300). -/
def wordNpack (f : FmtR) : Sem :=
  { semReg (srcOf f.sa f.fa ++ srcOf f.sb f.fb ++ srcPair f.sc f.fc) f.dst (fun t =>
      npackVal f.ty.toNat f.q.toNat (rmOf f) (modify f.ma f.ty.toNat (t.reg f.sa.toNat)) (modify f.mb f.ty.toNat (t.reg f.sb.toNat)) (t.reg f.sc.toNat)) with
    badFormat := fun t => npackBad (Descr.ofNat (t.reg f.sc.toNat).toNat) f.q.toNat }

/-- NUNPACK (R301). -/
def wordNunpack (f : FmtR) : Sem :=
  { semReg (srcOf f.sa f.fa ++ srcPair f.sc f.fc) f.dst (fun t =>
      nunpackVal f.ty.toNat f.q.toNat (rmOf f) (modify f.ma f.ty.toNat (t.reg f.sa.toNat)) (t.reg f.sc.toNat)) with
    badFormat := fun t => nunpackBad f.ty.toNat (Descr.ofNat (t.reg f.sc.toNat).toNat) f.q.toNat }

/-- FADD (R289). -/
def wordFadd (f : FmtR) : Sem := semAB f f.ty.toNat (float2 f.ty.toNat fun m => faddElem m (rmOf f))
/-- FSUB (R289). -/
def wordFsub (f : FmtR) : Sem := semAB f f.ty.toNat (float2 f.ty.toNat fun m => fsubElem m (rmOf f))
/-- FMUL (R289). -/
def wordFmul (f : FmtR) : Sem := semAB f f.ty.toNat (float2 f.ty.toNat fun m => fmulElem m (rmOf f))
/-- FFMA (R289). -/
def wordFfma (f : FmtR) : Sem := semABC f f.ty.toNat (ffmaVal f.ty.toNat (rmOf f))
/-- FMIN (R290). -/
def wordFmin (f : FmtR) : Sem := semAB f f.ty.toNat (float2 f.ty.toNat fun m => m.pick false)
/-- FMAX (R290). -/
def wordFmax (f : FmtR) : Sem := semAB f f.ty.toNat (float2 f.ty.toNat fun m => m.pick true)
/-- FRCP (R295). -/
def wordFrcp (f : FmtR) : Sem := semA f f.ty.toNat (realVal .rcp f.ty.toNat (rmOf f))
/-- FRSQ (R295). -/
def wordFrsq (f : FmtR) : Sem := semA f f.ty.toNat (realVal .rsq f.ty.toNat (rmOf f))
/-- FSQRT (R295). -/
def wordFsqrt (f : FmtR) : Sem := semA f f.ty.toNat (realVal .sqrt f.ty.toNat (rmOf f))
/-- FEXP2 (R295). -/
def wordFexp2 (f : FmtR) : Sem := semA f f.ty.toNat (realVal .exp2 f.ty.toNat (rmOf f))
/-- FLOG2 (R295). -/
def wordFlog2 (f : FmtR) : Sem := semA f f.ty.toNat (realVal .log2 f.ty.toNat (rmOf f))
/-- FSIN (R295). -/
def wordFsin (f : FmtR) : Sem := semA f f.ty.toNat (realVal .sin f.ty.toNat (rmOf f))
/-- FCOS (R295). -/
def wordFcos (f : FmtR) : Sem := semA f f.ty.toNat (realVal .cos f.ty.toNat (rmOf f))
/-- FTANH (R295). -/
def wordFtanh (f : FmtR) : Sem := semA f f.ty.toNat (realVal .tanh f.ty.toNat (rmOf f))
/-- FCLASS (R294). -/
def wordFclass (f : FmtR) : Sem := semA f f.ty.toNat (fclassVal f.ty.toNat)
/-- FSCALE (R291). -/
def wordFscale (f : FmtR) : Sem := semAb f f.ty.toNat (fscaleVal f.ty.toNat (rmOf f))
/-- FDOT2 (R292). -/
def wordFdot2 (f : FmtR) : Sem := semABC f f.ty.toNat (fdot2Val f.ty.toNat (rmOf f))
/-- ICVT (R299). -/
def wordIcvt (f : FmtR) : Sem := semReg (srcOf f.sa f.fa) f.dst fun t => icvtVal f.ty.toNat f.srcTy (rmOf f) (modify f.ma f.srcTy (t.reg f.sa.toNat))
/-- FCVTI (R299). -/
def wordFcvti (f : FmtR) : Sem := semReg (srcOf f.sa f.fa) f.dst fun t => fcvtiVal f.ty.toNat f.srcTy (rmOf f) (modify f.ma f.srcTy (t.reg f.sa.toNat))

/-! ## Meanings -/

/-- FADD (R289, R271). -/
def execFadd (f : FmtR) (s : State) : Host.Outcome State Fault Refusal := .next (s.compute f.hdr (wordFadd f))
/-- FSUB (R289, R271). -/
def execFsub (f : FmtR) (s : State) : Host.Outcome State Fault Refusal := .next (s.compute f.hdr (wordFsub f))
/-- FMUL (R289, R271). -/
def execFmul (f : FmtR) (s : State) : Host.Outcome State Fault Refusal := .next (s.compute f.hdr (wordFmul f))
/-- FFMA (R289, R271). -/
def execFfma (f : FmtR) (s : State) : Host.Outcome State Fault Refusal := .next (s.compute f.hdr (wordFfma f))
/-- FMIN (R290, R271). -/
def execFmin (f : FmtR) (s : State) : Host.Outcome State Fault Refusal := .next (s.compute f.hdr (wordFmin f))
/-- FMAX (R290, R271). -/
def execFmax (f : FmtR) (s : State) : Host.Outcome State Fault Refusal := .next (s.compute f.hdr (wordFmax f))
/-- FRCP (R295, R271). -/
def execFrcp (f : FmtR) (s : State) : Host.Outcome State Fault Refusal := .next (s.compute f.hdr (wordFrcp f))
/-- FRSQ (R295, R271). -/
def execFrsq (f : FmtR) (s : State) : Host.Outcome State Fault Refusal := .next (s.compute f.hdr (wordFrsq f))
/-- FSQRT (R295, R271). -/
def execFsqrt (f : FmtR) (s : State) : Host.Outcome State Fault Refusal := .next (s.compute f.hdr (wordFsqrt f))
/-- FEXP2 (R295, R271). -/
def execFexp2 (f : FmtR) (s : State) : Host.Outcome State Fault Refusal := .next (s.compute f.hdr (wordFexp2 f))
/-- FLOG2 (R295, R271). -/
def execFlog2 (f : FmtR) (s : State) : Host.Outcome State Fault Refusal := .next (s.compute f.hdr (wordFlog2 f))
/-- FSIN (R295, R271). -/
def execFsin (f : FmtR) (s : State) : Host.Outcome State Fault Refusal := .next (s.compute f.hdr (wordFsin f))
/-- FCOS (R295, R271). -/
def execFcos (f : FmtR) (s : State) : Host.Outcome State Fault Refusal := .next (s.compute f.hdr (wordFcos f))
/-- FTANH (R295, R271). -/
def execFtanh (f : FmtR) (s : State) : Host.Outcome State Fault Refusal := .next (s.compute f.hdr (wordFtanh f))
/-- FCLASS (R294, R271). -/
def execFclass (f : FmtR) (s : State) : Host.Outcome State Fault Refusal := .next (s.compute f.hdr (wordFclass f))
/-- FSCALE (R291, R271). -/
def execFscale (f : FmtR) (s : State) : Host.Outcome State Fault Refusal := .next (s.compute f.hdr (wordFscale f))
/-- FCMP (R293, R271). -/
def execFcmp (f : FmtR) (s : State) : Host.Outcome State Fault Refusal := .next (s.compute f.hdr (wordFcmp f))
/-- FDOT2 (R292, R271). -/
def execFdot2 (f : FmtR) (s : State) : Host.Outcome State Fault Refusal := .next (s.compute f.hdr (wordFdot2 f))
/-- FCVT (R298, R271). -/
def execFcvt (f : FmtR) (s : State) : Host.Outcome State Fault Refusal := .next (s.compute f.hdr (wordFcvt f))
/-- ICVT (R299, R271). -/
def execIcvt (f : FmtR) (s : State) : Host.Outcome State Fault Refusal := .next (s.compute f.hdr (wordIcvt f))
/-- FCVTI (R299, R271). -/
def execFcvti (f : FmtR) (s : State) : Host.Outcome State Fault Refusal := .next (s.compute f.hdr (wordFcvti f))
/-- NPACK (R300, R271). -/
def execNpack (f : FmtR) (s : State) : Host.Outcome State Fault Refusal := .next (s.compute f.hdr (wordNpack f))
/-- NUNPACK (R301, R271). -/
def execNunpack (f : FmtR) (s : State) : Host.Outcome State Fault Refusal := .next (s.compute f.hdr (wordNunpack f))

end Sys2Proof.Machine
end

