-- ==== Sys2Proof/Machine/Dual.lean ====
section
/-!
DEFINITION. The dual form (R217 to R221).
-/
namespace Sys2Proof.Machine

/-- TY code of a dual T code (R206, R217). -/
def halfTy (t : BitVec 3) : Nat :=
  match t.toNat with
  | 0 => 0
  | 1 => 1
  | 2 => 2
  | 3 => 4
  | 4 => 8
  | 5 => 9
  | 6 => 10
  | _ => 5

/-- The result of a half that writes a register, from D and the modified S (R218, R219); rounding is .rn. -/
def halfVal (op ty : Nat) (a b : Word) : Word :=
  match op with
  | 0x01 => iaddVal ty a b
  | 0x02 => isubVal ty a b
  | 0x03 => imulVal ty a b
  | 0x04 => iminVal ty a b
  | 0x05 => imaxVal ty a b
  | 0x06 => a &&& b
  | 0x07 => a ||| b
  | 0x08 => a ^^^ b
  | 0x09 => a &&& ~~~b
  | 0x0A => shiftVal .shl ty a b
  | 0x0B => shiftVal .shr ty a b
  | 0x0C => shiftVal .shra ty a b
  | 0x0D => b
  | 0x10 => float2 ty (fun m => faddElem m .rn) a b
  | 0x11 => float2 ty (fun m => fsubElem m .rn) a b
  | 0x12 => float2 ty (fun m => fmulElem m .rn) a b
  | 0x13 => float2 ty (fun m => m.pick false) a b
  | _ => float2 ty (fun m => m.pick true) a b

/-- The word a half stands for (R219); p is the predicate a compare of this half writes. -/
def halfSem (p : Nat) (h : Half) : Sem :=
  let ty := halfTy h.t
  let d := h.d.toNat
  let s := h.s.toNat
  let b (t : Thread) : Word := modify h.ms ty (t.reg s)
  let op := h.op.toNat
  match dualKind op with
  | none => { srcs := [], apply := fun _ new => new }
  | some .nop => { srcs := [], apply := fun _ new => new }
  | some .mov => semReg [(s, h.fs)] h.d b
  | some .icmp => semPred [(d, h.fs), (s, h.fs)] p fun t => icmpHolds (op - 0x18) ty (t.reg d) (b t)
  | some .fcmp => semPred [(d, h.fs), (s, h.fs)] p fun t => fcmpHolds (op - 0x20) fp32 (t.reg d).toNat (b t).toNat
  | some .arith => semReg [(d, h.fs), (s, h.fs)] h.d fun t => halfVal op ty (t.reg d) (b t)
  | some .logic => semReg [(d, h.fs), (s, h.fs)] h.d fun t => halfVal op ty (t.reg d) (b t)
  | some .shift => semReg [(d, h.fs), (s, h.fs)] h.d fun t => halfVal op ty (t.reg d) (b t)
  | some .farith => semReg [(d, h.fs), (s, h.fs)] h.d fun t => halfVal op ty (t.reg d) (b t)

/-- A word without effect. -/
def semNothing : Sem := { srcs := [], apply := fun _ new => new }

/-- What a dual word does to a lane: each half whose guard holds (R219, R221). -/
def dualSem (f : FmtD) (t : Thread) : Sem :=
  (if halfGuard f.hi.ps t.preds then halfSem 0 f.hi else semNothing).both (if halfGuard f.lo.ps t.preds then halfSem 1 f.lo else semNothing)

/-- A lane of a dual word is active when one of its halves is. -/
def dualActive (f : FmtD) (t : Thread) : Bool := halfGuard f.hi.ps t.preds || halfGuard f.lo.ps t.preds

/-- A dual word (R221): the empty tests of both halves come first, and both are performed or neither. -/
def execDualWord (f : FmtD) (s : State) : Host.Outcome State Fault Refusal :=
  .next (match s.checkSem (s.curLanes.filter fun l => dualActive f (s.curThread l)) fun l => dualSem f (s.curThread l) with
    | .error e => s.stopWord noRunAhead e
    | .ok _ => s.finish f.b fun _ t => (dualSem f t).apply t t)

end Sys2Proof.Machine
end

