-- ==== Sys2Proof/Machine/RunAhead.lean ====
section
/-!
DEFINITION. Run-ahead behind a missing page (R70 to R73): later words are followed without effect and the missing pages of their addresses are listed.
-/
namespace Sys2Proof.Machine

/-- How run-ahead follows a word (R71). -/
inductive AheadWord where
  /-- A word that computes: the lanes it acts on, the predicates of its guards, and what it does. -/
  | compute (active : Thread → Bool) (guards : List Nat) (sem : Thread → Sem)
  /-- A memory word: its fields, the scale of its index, and the accesses it makes; its destinations are unknown afterwards. -/
  | memory (f : FmtM) (scale : Nat) (rd wr : Bool)
  /-- A word without effect on registers, with its guard. -/
  | pass (h : Hdr)
  /-- A branch, BRD, JOIN or register branch, with its guard and the registers of its target. -/
  | branch (f : FmtB) (kind : Nat)
  | join
  | toReg (f : FmtR)
  | gtc (f : FmtR)
  /-- FETCHT, CANCEL or NODESIG, which is not performed: what it would write is unknown (log 74). -/
  | answer (h : Hdr) (regs preds : List Nat)
  /-- A word at which run-ahead ends. -/
  | stop

/-- The predicate of a guard; p7 is always known. -/
def guardPreds (h : Hdr) : List Nat := if h.p = 7 then [] else [h.p.toNat]

/-- The predicates of the guards of a dual word (R219). -/
def dualPreds (f : FmtD) : List Nat := [f.hi.ps, f.lo.ps].filterMap fun p => if p = 0 then none else some (p.toNat - 1)

/-- How run-ahead follows each word; words that it does not follow end it (R71). (log 71) -/
def aheadWord (i : Instr) : AheadWord :=
  match i with
  | .iadd f => .compute (fun t => guardVal f.hdr t.preds) (guardPreds f.hdr) (fun _ => wordIadd f)
  | .iaddI f => .compute (fun t => guardVal f.hdr t.preds) (guardPreds f.hdr) (fun _ => wordIaddI f)
  | .isub f => .compute (fun t => guardVal f.hdr t.preds) (guardPreds f.hdr) (fun _ => wordIsub f)
  | .isubI f => .compute (fun t => guardVal f.hdr t.preds) (guardPreds f.hdr) (fun _ => wordIsubI f)
  | .iaddc f => .compute (fun t => guardVal f.hdr t.preds) (guardPreds f.hdr) (fun _ => wordIaddc f)
  | .isubb f => .compute (fun t => guardVal f.hdr t.preds) (guardPreds f.hdr) (fun _ => wordIsubb f)
  | .imul f => .compute (fun t => guardVal f.hdr t.preds) (guardPreds f.hdr) (fun _ => wordImul f)
  | .imulI f => .compute (fun t => guardVal f.hdr t.preds) (guardPreds f.hdr) (fun _ => wordImulI f)
  | .imulh f => .compute (fun t => guardVal f.hdr t.preds) (guardPreds f.hdr) (fun _ => wordImulh f)
  | .imad f => .compute (fun t => guardVal f.hdr t.preds) (guardPreds f.hdr) (fun _ => wordImad f)
  | .imadw f => .compute (fun t => guardVal f.hdr t.preds) (guardPreds f.hdr) (fun _ => wordImadw f)
  | .imin f => .compute (fun t => guardVal f.hdr t.preds) (guardPreds f.hdr) (fun _ => wordImin f)
  | .iminI f => .compute (fun t => guardVal f.hdr t.preds) (guardPreds f.hdr) (fun _ => wordIminI f)
  | .imax f => .compute (fun t => guardVal f.hdr t.preds) (guardPreds f.hdr) (fun _ => wordImax f)
  | .imaxI f => .compute (fun t => guardVal f.hdr t.preds) (guardPreds f.hdr) (fun _ => wordImaxI f)
  | .iabs f => .compute (fun t => guardVal f.hdr t.preds) (guardPreds f.hdr) (fun _ => wordIabs f)
  | .ineg f => .compute (fun t => guardVal f.hdr t.preds) (guardPreds f.hdr) (fun _ => wordIneg f)
  | .isat f => .compute (fun t => guardVal f.hdr t.preds) (guardPreds f.hdr) (fun _ => wordIsat f)
  | .shl f => .compute (fun t => guardVal f.hdr t.preds) (guardPreds f.hdr) (fun _ => wordShl f)
  | .shlI f => .compute (fun t => guardVal f.hdr t.preds) (guardPreds f.hdr) (fun _ => wordShlI f)
  | .shr f => .compute (fun t => guardVal f.hdr t.preds) (guardPreds f.hdr) (fun _ => wordShr f)
  | .shrI f => .compute (fun t => guardVal f.hdr t.preds) (guardPreds f.hdr) (fun _ => wordShrI f)
  | .shra f => .compute (fun t => guardVal f.hdr t.preds) (guardPreds f.hdr) (fun _ => wordShra f)
  | .shraI f => .compute (fun t => guardVal f.hdr t.preds) (guardPreds f.hdr) (fun _ => wordShraI f)
  | .rot f => .compute (fun t => guardVal f.hdr t.preds) (guardPreds f.hdr) (fun _ => wordRot f)
  | .rotI f => .compute (fun t => guardVal f.hdr t.preds) (guardPreds f.hdr) (fun _ => wordRotI f)
  | .shw f => .compute (fun t => guardVal f.hdr t.preds) (guardPreds f.hdr) (fun _ => wordShw f)
  | .and f => .compute (fun t => guardVal f.hdr t.preds) (guardPreds f.hdr) (fun _ => wordAnd f)
  | .andI f => .compute (fun t => guardVal f.hdr t.preds) (guardPreds f.hdr) (fun _ => wordAndI f)
  | .or f => .compute (fun t => guardVal f.hdr t.preds) (guardPreds f.hdr) (fun _ => wordOr f)
  | .orI f => .compute (fun t => guardVal f.hdr t.preds) (guardPreds f.hdr) (fun _ => wordOrI f)
  | .xor f => .compute (fun t => guardVal f.hdr t.preds) (guardPreds f.hdr) (fun _ => wordXor f)
  | .xorI f => .compute (fun t => guardVal f.hdr t.preds) (guardPreds f.hdr) (fun _ => wordXorI f)
  | .andn f => .compute (fun t => guardVal f.hdr t.preds) (guardPreds f.hdr) (fun _ => wordAndn f)
  | .andnI f => .compute (fun t => guardVal f.hdr t.preds) (guardPreds f.hdr) (fun _ => wordAndnI f)
  | .lut3 f => .compute (fun t => guardVal f.hdr t.preds) (guardPreds f.hdr) (fun _ => wordLut3 f)
  | .popc f => .compute (fun t => guardVal f.hdr t.preds) (guardPreds f.hdr) (fun _ => wordPopc f)
  | .clz f => .compute (fun t => guardVal f.hdr t.preds) (guardPreds f.hdr) (fun _ => wordClz f)
  | .brev f => .compute (fun t => guardVal f.hdr t.preds) (guardPreds f.hdr) (fun _ => wordBrev f)
  | .bfx f => .compute (fun t => guardVal f.hdr t.preds) (guardPreds f.hdr) (fun _ => wordBfx f)
  | .bfi f => .compute (fun t => guardVal f.hdr t.preds) (guardPreds f.hdr) (fun _ => wordBfi f)
  | .dot4 f => .compute (fun t => guardVal f.hdr t.preds) (guardPreds f.hdr) (fun _ => wordDot4 f)
  | .dot8 f => .compute (fun t => guardVal f.hdr t.preds) (guardPreds f.hdr) (fun _ => wordDot8 f)
  | .icmp f => .compute (fun t => guardVal f.hdr t.preds) (guardPreds f.hdr) (fun _ => wordIcmp f)
  | .icmpI f => .compute (fun t => guardVal f.hdr t.preds) (guardPreds f.hdr) (fun _ => wordIcmpI f)
  | .sel f => .compute (fun t => guardVal f.hdr t.preds) (guardPreds f.hdr) (fun _ => wordSel f)
  | .mov f => .compute (fun t => guardVal f.hdr t.preds) (guardPreds f.hdr) (fun _ => wordMov f)
  | .movi f => .compute (fun t => guardVal f.hdr t.preds) (guardPreds f.hdr) (fun _ => wordMovi f)
  | .movh f => .compute (fun t => guardVal f.hdr t.preds) (guardPreds f.hdr) (fun _ => wordMovh f)
  | .lea f => .compute (fun t => guardVal f.hdr t.preds) (guardPreds f.hdr) (fun _ => wordLea f)
  | .leaI f => .compute (fun t => guardVal f.hdr t.preds) (guardPreds f.hdr) (fun _ => wordLeaI f)
  | .ptrmk f => .compute (fun t => guardVal f.hdr t.preds) (guardPreds f.hdr) (fun _ => wordPtrmk f)
  | .ptrfld f => .compute (fun t => guardVal f.hdr t.preds) (guardPreds f.hdr) (fun _ => wordPtrfld f)
  | .plut f => .compute (fun t => guardVal f.hdr t.preds) (guardPreds f.hdr) (fun _ => wordPlut f)
  | .fadd f => .compute (fun t => guardVal f.hdr t.preds) (guardPreds f.hdr) (fun _ => wordFadd f)
  | .fsub f => .compute (fun t => guardVal f.hdr t.preds) (guardPreds f.hdr) (fun _ => wordFsub f)
  | .fmul f => .compute (fun t => guardVal f.hdr t.preds) (guardPreds f.hdr) (fun _ => wordFmul f)
  | .ffma f => .compute (fun t => guardVal f.hdr t.preds) (guardPreds f.hdr) (fun _ => wordFfma f)
  | .fmin f => .compute (fun t => guardVal f.hdr t.preds) (guardPreds f.hdr) (fun _ => wordFmin f)
  | .fmax f => .compute (fun t => guardVal f.hdr t.preds) (guardPreds f.hdr) (fun _ => wordFmax f)
  | .frcp f => .compute (fun t => guardVal f.hdr t.preds) (guardPreds f.hdr) (fun _ => wordFrcp f)
  | .frsq f => .compute (fun t => guardVal f.hdr t.preds) (guardPreds f.hdr) (fun _ => wordFrsq f)
  | .fsqrt f => .compute (fun t => guardVal f.hdr t.preds) (guardPreds f.hdr) (fun _ => wordFsqrt f)
  | .fexp2 f => .compute (fun t => guardVal f.hdr t.preds) (guardPreds f.hdr) (fun _ => wordFexp2 f)
  | .flog2 f => .compute (fun t => guardVal f.hdr t.preds) (guardPreds f.hdr) (fun _ => wordFlog2 f)
  | .fsin f => .compute (fun t => guardVal f.hdr t.preds) (guardPreds f.hdr) (fun _ => wordFsin f)
  | .fcos f => .compute (fun t => guardVal f.hdr t.preds) (guardPreds f.hdr) (fun _ => wordFcos f)
  | .ftanh f => .compute (fun t => guardVal f.hdr t.preds) (guardPreds f.hdr) (fun _ => wordFtanh f)
  | .fclass f => .compute (fun t => guardVal f.hdr t.preds) (guardPreds f.hdr) (fun _ => wordFclass f)
  | .fscale f => .compute (fun t => guardVal f.hdr t.preds) (guardPreds f.hdr) (fun _ => wordFscale f)
  | .fcmp f => .compute (fun t => guardVal f.hdr t.preds) (guardPreds f.hdr) (fun _ => wordFcmp f)
  | .fdot2 f => .compute (fun t => guardVal f.hdr t.preds) (guardPreds f.hdr) (fun _ => wordFdot2 f)
  | .fcvt f => .compute (fun t => guardVal f.hdr t.preds) (guardPreds f.hdr) (fun _ => wordFcvt f)
  | .icvt f => .compute (fun t => guardVal f.hdr t.preds) (guardPreds f.hdr) (fun _ => wordIcvt f)
  | .fcvti f => .compute (fun t => guardVal f.hdr t.preds) (guardPreds f.hdr) (fun _ => wordFcvti f)
  | .npack f => .compute (fun t => guardVal f.hdr t.preds) (guardPreds f.hdr) (fun _ => wordNpack f)
  | .nunpack f => .compute (fun t => guardVal f.hdr t.preds) (guardPreds f.hdr) (fun _ => wordNunpack f)
  | .dualWord f => .compute (dualActive f) (dualPreds f) (dualSem f)
  | .ld f => .memory f 1 true false
  | .ldx f => .memory f (sizeBytes f.size) true false
  | .ldc f => .memory f 1 true false
  | .ldRem f => .memory f 0 true false
  | .ldsx f => .memory f 1 false false
  | .st f => .memory f 1 false true
  | .stx f => .memory f (sizeBytes f.size) false true
  | .amoAdd f => .memory f 1 true true
  | .amoMin f => .memory f 1 true true
  | .amoMax f => .memory f 1 true true
  | .amoAnd f => .memory f 1 true true
  | .amoOr f => .memory f 1 true true
  | .amoXor f => .memory f 1 true true
  | .amoExch f => .memory f 1 true true
  | .amoFadd f => .memory f 1 true true
  | .pref f => .pass f.hdr
  | .fence f => .pass f.hdr
  | .invl1 f => .pass f.hdr
  | .granset f => .pass f.hdr
  | .granclr f => .pass f.hdr
  | .txabort f => .pass f.hdr
  | .nop f => .pass f.hdr
  | .yield f => .pass f.hdr
  | .rdgtc f => .gtc f
  | .fetcht f => .answer f.hdr ((List.range 4).map (f.dst.toNat + ·)) [bits f.x.toNat 6 4]
  | .cancel f => .answer f.hdr [f.dst.toNat] []
  | .nodesig f => .answer f.hdr [f.dst.toNat] []
  | .bra f => .branch f 0
  | .bru f => .branch f 1
  | .brd f => .branch f 2
  | .call f => .branch f 3
  | .join _ => .join
  | .brx f => .toReg f
  | .ret f => .toReg f
  | _ => .stop

/-- A run-ahead in progress: a copy of the state, the entries, the words followed, and the registers and predicates that are unknown in each lane. -/
structure Ahead where
  s     : State
  es    : List BatchEntry
  n     : Nat := 0
  regs  : Tab (BitVec 128)
  preds : Tab (BitVec 7) := []

/-- A register of a lane is unknown: it is the destination of a load, computed from one, or empty (R71, R152). -/
def Ahead.hidden (a : Ahead) (l r : Nat) : Bool := (Tab.get a.regs l 0).getLsbD r
/-- A predicate of a lane is unknown. -/
def Ahead.hiddenPred (a : Ahead) (l p : Nat) : Bool := p < 7 && (Tab.get a.preds l 0).getLsbD p
/-- Registers of a lane become known or unknown. -/
def Ahead.note (a : Ahead) (l : Nat) (rs ps : List Nat) (v : Bool) : Ahead :=
  { a with regs := Tab.modify a.regs l 0 fun m => rs.foldl (fun m r => setBit m r v) m,
           preds := Tab.modify a.preds l 0 fun m => ps.foldl (fun m p => if p < 7 then setBit m p v else m) m }

/-- A compute word in one active lane (R71): its results are unknown when a source is. -/
def Ahead.computeLane (a : Ahead) (l : Nat) (m : Sem) : Ahead :=
  let unknown := (m.srcs.any fun x => a.hidden l x.1) || m.preds.any (a.hiddenPred l)
  let a := a.note l m.dsts m.predDsts unknown
  if unknown then a else { a with s := a.s.onThread a.s.cur.unit a.s.cur.stripe l fun t => m.apply t t }

/-- The address of a memory word in a lane, none when it is unknown. -/
def Ahead.address (a : Ahead) (f : FmtM) (scale l : Nat) : Option Nat :=
  let t := a.s.curThread l
  let index := if scale = 0 ∨ f.sb = 0 then none else some f.sb.toNat
  if a.hidden l f.sa.toNat || a.hidden l (f.sa.toNat + 1) || index.any (a.hidden l) then none
  else some (effAddr (t.pair f.sa.toNat) (index.map t.reg) scale f.off).toNat

/-- A memory word (R71): skipped when an address is unknown; else each missing page of space 0 is listed. -/
def Ahead.memory (a : Ahead) (f : FmtM) (scale : Nat) (rd wr : Bool) (lanes : List Nat) : Ahead :=
  let dsts := (List.range (sizeRegs f.size.toNat)).map (f.dst.toNat + ·)
  let go := lanes.all fun l => (a.address f scale l).isSome
  let a := if !go || !(rd || wr) then a else lanes.foldl (fun a l =>
    let p := (a.address f scale l).getD 0
    if ptrSpace p != 0 || ptrRank p != 0 then a
    else
      let r : Req := { part := a.s.curPart, ptb := a.s.ptbOf a.s.cur.unit a.s.cur.stripe l, priv := a.s.curPriv, need := if wr then .write else .read, tlb := a.s.curTlb, setA := false }
      match a.s.translate r (ptrOff p) with
      | (s, .error (.page d lvl)) => { a with s := s, es := mergeEntries 64 a.es [{ idx := a.n, lvl := lvl, va := ptrOff p, lane := l, rd := rd, wr := wr, dcode := d }] }
      | (s, _) => { a with s := s }) a
  if rd || !wr then lanes.foldl (fun a l => a.note l dsts (if rd then [] else [6]) true) a else a

/-- The lanes of a mask move behind the word. -/
def Ahead.next (a : Ahead) : Ahead := { a with s := a.s.onCur fun t => t.mapLanes fun l th => if a.s.cur.lanes.getLsbD l then { th with pc := th.pc + 8 } else th }

/-- One word of run-ahead; none when it ends, with the reason (R71). (log 74) -/
def Ahead.word (a : Ahead) (i : Instr) : Except Nat Ahead :=
  let s := a.s
  match aheadWord i with
  | .stop => .error 3
  | .pass h => if s.curLanes.any fun l => (guardPreds h).any (a.hiddenPred l) then .error 2 else .ok a.next
  | .compute active guards sem =>
    if s.curLanes.any fun l => guards.any (a.hiddenPred l) then .error 2
    else .ok ((s.curLanes.filter fun l => active (s.curThread l)).foldl (fun a l => a.computeLane l (sem (s.curThread l))) a).next
  | .gtc f =>
    if s.curLanes.any fun l => (guardPreds f.hdr).any (a.hiddenPred l) then .error 2
    else .ok ((s.active f.hdr).foldl (fun a l => a.note l [f.dst.toNat, f.dst.toNat + 1] [] true) a).next
  | .answer h regs preds =>
    if s.curLanes.any fun l => (guardPreds h).any (a.hiddenPred l) then .error 2
    else .ok ((s.active h).foldl (fun a l => a.note l regs preds true) a).next
  | .memory f scale rd wr =>
    if s.curLanes.any fun l => (guardPreds f.hdr).any (a.hiddenPred l) then .error 2
    else .ok (a.memory f scale rd wr (s.active f.hdr)).next
  | .branch f kind =>
    if s.curLanes.any fun l => (guardPreds f.hdr).any (a.hiddenPred l) then .error 2
    else
      let taken (l : Nat) : Bool := guardVal f.hdr (s.curThread l).preds
      let target := if kind = 2 then brdTarget s.cur.pc f.off else branchTarget s.cur.pc f.off
      let s := if kind = 2 then s.onCur fun t => { t with join := { pc := brdJoin s.cur.pc f.off, mask := s.cur.lanes } :: t.join } else s
      let a := { a with s := s.onCur fun t => t.mapLanes fun l th => if s.cur.lanes.getLsbD l then th.goTo (taken l) target else th }
      .ok (if kind = 3 then (s.curLanes.filter taken).foldl (fun a l => { a.note l [30, 31] [] false with s := a.s.onThread s.cur.unit s.cur.stripe l fun t => t.setPair 30 ((s.cur.pc + 8).setWidth 64) }) a else a)
  | .join => .ok { a with s := s.onCur fun t => settleJoins 9 (s.curLanes.foldl (fun t l => t.joinLane s.cur.pc l) t) }
  | .toReg f =>
    if s.curLanes.any fun l => (guardPreds f.hdr).any (a.hiddenPred l) || (guardVal f.hdr (s.curThread l).preds && (a.hidden l f.sa.toNat || a.hidden l (f.sa.toNat + 1))) then .error 2
    else .ok { a with s := s.onCur fun t => t.mapLanes fun l th =>
      if s.cur.lanes.getLsbD l then th.goTo (guardVal f.hdr th.preds) ((th.pair f.sa.toNat).setWidth 52) else th }

/-- Run-ahead over the lanes of the faulting group, always those at the lowest PC, until a reason of R71 ends it: count, pages, unknown control, or a word at which it stops. The spec gives no reason for a later word that cannot be fetched or does not decode, or for lanes that are not ready: reason 3 (DESIGN CHOICE, log 74). -/
def Ahead.run (fuel : Nat) (group : LaneMask) (a : Ahead) : List BatchEntry × Nat × Nat :=
  match fuel with
  | 0 => (a.es, a.n, 0)
  | k + 1 =>
    if 64 ≤ a.es.length then (a.es, a.n, 1)
    else
      let ready := (maskLanes group).filter fun l => (a.s.curThread l).status == .ready
      match (ready.map fun l => (a.s.curThread l).pc.toNat).min? with
      | none => (a.es, a.n, 3)
      | some pc =>
        let s := { a.s with cur := { a.s.cur with lanes := laneMask fun l => ready.contains l && (a.s.curThread l).pc.toNat == pc, pc := BitVec.ofNat 52 pc } }
        match s.fetchWord with
        | (_, .error _) => (a.es, a.n, 3)
        | (s, .ok w) =>
          match decode w with
          | .ok i =>
            match ({ a with s := s, n := a.n + 1 } : Ahead).word i with
            | .error why => (a.es, a.n, why)
            | .ok a => a.run k group
          | _ => (a.es, a.n, 3)

/-- Run-ahead of a faulting memory word (R70, R71): its entries, the run-ahead length and the end reason. The destinations of the word are unknown in its active lanes. (log 74) -/
def runAhead (lanes dsts : List Nat) : RunAhead := fun s es =>
  let a : Ahead := { s := s, es := mergeEntries 64 [] es, regs := (List.range 32).map fun l => (l, (s.curThread l).empty) }
  let a := lanes.foldl (fun a l => a.note l dsts [] true) a
  a.next.run 256 s.cur.lanes

end Sys2Proof.Machine
end

