-- ==== Sys2Proof/Machine/TxLog.lean ====
section
/-!
DEFINITION. The log of a transaction in the scratchpad of the home core (R317, R318).
-/
namespace Sys2Proof.Machine

/-- A log entry from its 16 bytes (R317). -/
def TxEntry.ofNat (i n : Nat) : TxEntry :=
  { idx := i, va := bits n 63 14 * 4, wval := BitVec.ofNat 32 (bits n 127 96), rval := BitVec.ofNat 32 (bits n 95 64),
    wmask := BitVec.ofNat 4 (bits n 13 10), rd := bits n 9 9 == 1 }

/-- The 16 bytes of a log entry (R317). -/
def TxEntry.toNat (e : TxEntry) : Nat :=
  e.wval.toNat * 2 ^ 96 + e.rval.toNat * 2 ^ 64 + e.va / 4 * 2 ^ 14 + e.wmask.toNat * 2 ^ 10 + (if e.rd then 2 ^ 9 else 0)

/-- Entry i of a log as the scratchpad of the home core holds it. -/
def Core.logEntry (c : Core) (tx : Tx) (i : Nat) : TxEntry := TxEntry.ofNat i (leNat (bytesGet c.sram (tx.log + 16 * i) 16))

/-- The entries of a log, in order. -/
def Core.logEntries (c : Core) (tx : Tx) : List TxEntry := (List.range tx.count).map (c.logEntry tx)

/-- The entry of a word of a log, if it has one. -/
def Core.logFind (c : Core) (tx : Tx) (va : Nat) : Option TxEntry := (c.logEntries tx).find? fun e => e.va == va

/-- A log entry written; the F and poison bits of the region stay (R317). -/
def Core.logWrite (c : Core) (tx : Tx) (e : TxEntry) : Core := { c with sram := bytesSet c.sram (tx.log + 16 * e.idx) (leBytes 16 e.toNat) }

/-- The transaction of a thread at a place, and the core that holds its log. -/
def State.txHome (s : State) (u i l : Nat) : Nat := (s.home u i l).1

/-- A bank of a transaction's log that is being cleared: what reads or writes the log waits for it (R118). -/
def State.logClearing (s : State) (u i l : Nat) : Option Wait :=
  let tx := (s.thread u i l).tx
  let hu := s.txHome u i l
  if tx.depth = 0 then none
  else ((s.core hu).clearing.find? fun b => decide (tx.log / bankBytes ≤ b) && decide (b ≤ (tx.log + 16 * tx.cap - 1) / bankBytes)).map fun b => .bank hu b

/-- The entry of a word, appended when the log has room; none when it is full (R317). -/
def State.txEntry (s : State) (u i l va : Nat) : Option (State × TxEntry) :=
  let tx := (s.thread u i l).tx
  let hu := s.txHome u i l
  match (s.core hu).logFind tx va with
  | some e => some (s, e)
  | none =>
    if tx.cap ≤ tx.count then none
    else
      let e : TxEntry := { idx := tx.count, va := va, wval := 0, rval := 0, wmask := 0, rd := false }
      some ((s.onThread u i l fun t => { t with tx := { t.tx with count := t.tx.count + 1 } }).onCore hu fun c => c.logWrite tx e, e)

/-- Bytes of a word that an access at address a of n bytes touches, as a mask. -/
def wordMask (a n va : Nat) : BitVec 4 := BitVec.ofNat 4 ((List.range 4).foldl (fun m b => if a ≤ va + b ∧ va + b < a + n then m + 2 ^ b else m) 0)

/-- The bytes of a word chosen by a mask from v, the others from w. -/
def mixWord (m : BitVec 4) (v w : BitVec 32) : BitVec 32 :=
  BitVec.ofNat 32 ((List.range 4).foldl (fun a b => a + bits (if m.getLsbD b then v else w).toNat (8 * b + 7) (8 * b) * 2 ^ (8 * b)) 0)

/-- The words that an access of n bytes touches, by their address. -/
def txWords (a n : Nat) : List Nat := (List.range ((n + 3) / 4)).map fun k => a / 4 * 4 + 4 * k

/-- A read of one word of a transaction (R318): logged bytes first, then the value first read, else the word as it stands at home, which is recorded. None when the log is full. -/
def State.txReadWord (s : State) (u i l a n va : Nat) (atHome : BitVec 32) : Option (State × BitVec 32) :=
  match s.txEntry u i l va with
  | none => none
  | some (s, e) =>
    let need := wordMask a n va &&& ~~~e.wmask
    let e' : TxEntry := if need != 0 && !e.rd then { e with rval := atHome, rd := true } else e
    some (s.onCore (s.txHome u i l) fun c => c.logWrite (s.thread u i l).tx e', mixWord e'.wmask e'.wval e'.rval)

/-- A write of one word of a transaction (R318). -/
def State.txWriteWord (s : State) (u i l a n va : Nat) (v : BitVec 32) : Option State :=
  match s.txEntry u i l va with
  | none => none
  | some (s, e) =>
    let m := wordMask a n va
    let e' : TxEntry := { e with wval := mixWord m v e.wval, wmask := e.wmask ||| m }
    some (s.onCore (s.txHome u i l) fun c => c.logWrite (s.thread u i l).tx e')

/-- A read of n bytes at an address by a transaction; home gives each word as it stands at its home. -/
def State.txRead (s : State) (u i l a n : Nat) (home : Nat → BitVec 32) : Option (State × Nat) :=
  ((txWords a n).foldl (fun acc va =>
    match acc with
    | none => none
    | some (s, v) => (s.txReadWord u i l a n va (home va)).map fun (s', w) => (s', v + w.toNat * 2 ^ (8 * (va - a / 4 * 4)))) (some (s, 0))).map
    fun (s, v) => (s, v / 2 ^ (8 * (a % 4)) % 2 ^ (8 * n))

/-- A write of n bytes at an address by a transaction. -/
def State.txWrite (s : State) (u i l a n v : Nat) : Option State :=
  (txWords a n).foldl (fun acc va =>
    match acc with
    | none => none
    | some s => s.txWriteWord u i l a n va (BitVec.ofNat 32 (v * 2 ^ (8 * (a % 4)) / 2 ^ (8 * (va - a / 4 * 4))))) (some s)

end Sys2Proof.Machine
end

