-- ==== Sys2Proof/Machine/Window.lean ====
section
/-!
DEFINITION. The control window: what its registers read (R443, R444), and the stores that reach it.
-/
namespace Sys2Proof.Machine

/-- A head has passed its queue's AGE (R393, R400): it waits for cores without a team of its own, longer than AGE; AGE = 0 sets no limit. -/
def State.aged (s : State) (f q : Nat) (x : Launch) : Bool :=
  let age := bits (Tab.get (s.func f).qctl q 0).toNat 63 32
  x.state == .placing && !x.nodeWait && !x.preempt && x.teams.isEmpty && age != 0 && decide (x.t0 + age < s.gtc)

/-- A graph node is ready (R407). -/
def State.nodeReady (s : State) (f n : Nat) : Bool := Tab.get (s.func f).nodes n 0 == 0
/-- The node that a record waits for (R348, R408): WNODE of GRAPH when WV = 1. -/
def Launch.waitNode (x : Launch) : Option Nat :=
  let g := leNat ((x.rcd.bytes.drop 0xD4).take 4)
  if g.testBit 31 then some (bits g 27 16) else none
/-- A record's wait for its node (R408). -/
def State.nodeHolds (s : State) (x : Launch) : Bool := x.waitNode.any fun n => !s.nodeReady x.func n

/-- HEAD of QSTAT (R394): a head past its AGE is reserving, also while no group is left for it (R400). -/
def State.headState (s : State) (f q : Nat) : Nat :=
  match (Tab.get (s.func f).queues q []).head? with
  | none => 0
  | some k =>
    match s.launch k with
    | none => 0
    | some x => if x.state == .dealing then 4 else if x.nodeWait || (x.state == .queued && s.nodeHolds x) then 1 else if x.reserved.isEmpty && !s.aged f q x then 2 else 3

/-- A register of the fault block (R427). -/
def FaultQueue.reg (q : FaultQueue) (off : Nat) : Nat :=
  match off with
  | 0x00 => q.base.toNat
  | 0x08 => q.ctl.toNat
  | 0x10 => q.head.toNat
  | 0x18 => q.tail.toNat
  | 0x20 => q.drop * 2 ^ 32 + (q.held.map fun r => r.ncont + 1).sum
  | _ => 0

/-- A register of the partition block (R444). -/
def Partition.reg (p : Partition) (off : Nat) : Nat :=
  match off with
  | 0x00 => (p.members.foldl (fun a m => a + 2 ^ m.1) 0) * 2 ^ 8 + p.pstat.toNat % 8
  | 0x08 => p.migwm.toNat
  | 0x18 => if p.fwBusy then 1 else 0
  | 0x20 => p.evt.toNat
  | 0x28 => p.evtrt.toNat
  | _ => 0

/-- A register of a function's scheduler block (R393, R394, R402, R407, R431, R432, R436). -/
def State.funcReg (s : State) (f off : Nat) : Nat :=
  let k := s.func f
  if off = 0x108 then k.swpq.toNat
  else if off = 0x110 then (if k.resetting then 1 else 0)
  else if 0x2000 ≤ off ∧ off < 0x2200 then (Tab.get k.qctl ((off - 0x2000) / 8) 0).toNat
  else if 0x2400 ≤ off ∧ off < 0x2600 then s.headState f ((off - 0x2400) / 8) * 2 ^ 13 + (Tab.get k.queues ((off - 0x2400) / 8) []).length
  else if 0x2800 ≤ off ∧ off < 0x2A00 then (Tab.get k.qsave ((off - 0x2800) / 8) 0).toNat
  else if 0x2C00 ≤ off ∧ off < 0x2E00 then (Tab.get k.qptb ((off - 0x2C00) / 8) 0).toNat
  else if 0x8000 ≤ off ∧ off < 0x10000 then (let n := Tab.get k.nodes ((off - 0x8000) / 8) 0; if n = 0 then 0x10000 else n)
  else 0

/-- MCKS of a slot (R43). -/
def State.keyStatus (s : State) (sl i : Nat) : Nat :=
  let k := s.keySlot sl i
  (if k.valid then 2 ^ 63 else 0) + (if k.weight then 2 ^ 62 else 0) + k.world.toNat * 2 ^ 56
    + s.frames.countP fun e => e.1 / 2 ^ 22 == sl && e.2.owner == some i

/-- BPSTAT of an arcade's booth pool (R392). -/
def State.boothStatus (s : State) (sl a : Nat) : Nat :=
  let free := ((s.booths sl a).map fun u => 8 - (s.core u).guests.length).sum
  Tab.get (s.slice sl).ejects a 0 * 2 ^ 32 + Tab.get (s.slice sl).timeouts a 0 * 2 ^ 16 + free

/-- HSTAT (R461). -/
def Slice.health (k : Slice) (sl : Nat) : Nat :=
  let cs (a : Nat) : Nat := (k.coreSpare[a]?).getD 8
  let bs (a : Nat) : Nat := (k.boothSpare[a]?).getD 4
  let used (u : Nat) : Nat := if k.subs.any fun e => e.2 == u then 1 else 0
  k.lost * 2 ^ 24 + cs 1 * 2 ^ 19 + cs 0 * 2 ^ 15 + bs 1 * 2 ^ 12 + bs 0 * 2 ^ 9
    + used (18 * sl + 9 + cs 1) * 2 ^ 6 + used (18 * sl + cs 0) * 2 ^ 5 + used (0xC05 + 10 * sl + bs 1) * 2 ^ 4 + used (0xC00 + 10 * sl + bs 0) * 2 ^ 3
    + (if k.spareUsed then 4 else 0) + k.level % 4

/-- STRSTAT of a stream (R50). -/
def Stream.status (t : Stream) : Nat :=
  (if t.stop then 2 ^ 63 else 0) + (if t.pending.isSome then 2 ^ 62 else 0) + (if t.retired.isSome then 2 ^ 61 else 0) + (if t.current.isSome then 2 ^ 60 else 0)
    + (match t.current with
      | some k => 2 ^ 32 - k.used
      | none => 0)

/-- Packets of the partition in flight from a slice: requests of its cores that are not performed, responses that have not come back, messages and credits of channels on their way, notifies that have not reached their function core, and the packets of commits under way (R93, R94). -/
def State.inflOf (s : State) (sl : Nat) : Nat :=
  (s.cores.map fun e => if (kindOf e.1 == .simt || kindOf e.1 == .booth || kindOf e.1 == .host) && sliceOf e.1 == sl
    then e.2.outq.countP (fun a => !a.performed || !a.back) + (e.2.chans.map fun c => c.2.flight.length + c.2.returns).sum else 0).sum
    + (s.commits.countP fun c => sliceOf c.unit == sl) + (s.funcs.map fun f => f.2.notifies.countP fun n => !n.there && sliceOf n.unit == sl).sum

/-- A register of a slice's block. -/
def State.sliceReg (s : State) (sl off : Nat) : Nat :=
  let k := s.slice sl
  if 0x1000 ≤ off ∧ off < 0x1800 then s.keyStatus sl ((off - 0x1000) / 8)
  else if 0x1800 ≤ off ∧ off < 0x2000 then (s.keySlot sl ((off - 0x1800) / 8)).stamp
  else if off = 0x2000 then k.fwctl.toNat
  else if off = 0x2008 then s.inflOf sl % 2 ^ 16 * 2 ^ 32 + k.deny
  else if off = 0x3000 then s.boothStatus sl 0
  else if off = 0x4000 then s.boothStatus sl 1
  else if off = 0x5000 then k.health sl
  else if 0x6000 ≤ off ∧ off < 0x7000 then
    let t := Tab.get k.streams ((off - 0x6000) / 16) {}
    if off % 16 = 0 then t.status else t.i
  else 0

/-- The 64-bit register at a window offset, 0 where none is (R443). -/
def State.windowReg (s : State) (part off : Nat) : BitVec 64 :=
  let p := s.part part
  let f := (off - 0x100000) / 0x10000
  BitVec.ofNat 64 <|
    if 0x1000 ≤ off ∧ off < 0x2000 then p.fq.reg (off - 0x1000)
    else if 0x2000 ≤ off ∧ off < 0x3000 then p.reg (off - 0x2000)
    else if 0x3000 ≤ off ∧ off < 0x4000 then leNat ((p.bootInfo.drop (off - 0x3000)).take 8)
    else if 0x100000 ≤ off ∧ off < 0x200000 then (if (s.func f).part == some part && p.funcs.getLsbD f then s.funcReg f (off % 0x10000) else 0)
    else if 0x200000 ≤ off ∧ off < 0x400000 then
      match Tab.find p.members ((off - 0x200000) / 0x10000) with
      | some sl => s.sliceReg sl (off % 0x10000)
      | none => 0
    else 0

/-- A store to the window: it is applied at the end of the step (R444). -/
def State.windowSet (s : State) (part pa n v : Nat) (priv : Priv) : State :=
  { s with regWrites := s.regWrites ++ [{ part := part, pa := pa, n := n, v := v, priv := priv }] }

end Sys2Proof.Machine
end

