-- ==== Sys2Proof/Machine/Access.lean ====
section
/-!
DEFINITION. Accesses of lanes: the checks of R65 over a word's lanes, the core cache, the outgoing queue, and the performance of accesses at their homes (R65, R83 to R85, R120, R121, R371, R373).
-/
namespace Sys2Proof.Machine

/-! ## The checks of R65 -/

/-- An access of a lane with its checks passed. -/
structure LaneAcc where
  lane  : Nat
  ptr   : Nat
  place : Place
  /-- The translation of a global access. -/
  x     : Xlat := { pa := 0, key := 0, isSealed := false, compress := false }
  deriving DecidableEq, Repr

/-- The first byte behind the control window (R443). -/
def windowEnd : Nat := 0x800000

/-- What a word asks of its accesses. -/
structure AccKindReq where
  n      : Nat
  need   : Need
  /-- A granule qualifier (R123). -/
  qual   : Bool := false
  ldc    : Bool := false
  /-- An AMO reads as well as writes: its batch entries carry RD and WR (R74, log 71). -/
  amo    : Bool := false
  /-- An AMO, or an access inside a transaction, which the window refuses (R444). -/
  noWindow : Nat → Bool := fun _ => false

/-- The agent of a lane of the issuing group. -/
def State.curAgent (s : State) (l : Nat) : Agent := { unit := s.cur.unit, stripe := s.cur.stripe, lane := l, priv := s.curPriv }

/-- The world test of a key check passes without a match at K and above on a host core or a firmware core (R39). -/
def State.worldPass (s : State) : Bool := s.curPriv.atK && (s.curKind == .host || s.curKind == .func || s.curKind == .root)

/-- The key request of a lane's access. -/
def State.keyReq (s : State) (l : Nat) (x : Xlat) : KeyReq :=
  { part := s.curPart, world := s.worldOf s.cur.unit s.cur.stripe l, pass := s.worldPass, key := x.key, isSealed := x.isSealed }

/-- The pointer check of a lane (R56, R123, R246). -/
def State.spaceOf (s : State) (k : AccKindReq) (l ptr : Nat) : Except Nat Place :=
  if (k.qual && ptrSpace ptr != 1) || (k.ldc && ptrSpace ptr != 0 && ptrSpace ptr != 4) then .error 1
  else s.checkPointer (s.curAgent l) ptr k.n (k.need == Need.write)

/-- The translation of a lane's global access, with the window's tests at check 4 (R65, R444). -/
def State.xlatLane (s : State) (k : AccKindReq) (l va : Nat) (setA : Bool) : State × Except XFault Xlat :=
  let r : Req := { part := s.curPart, ptb := s.ptbOf s.cur.unit s.cur.stripe l, priv := s.curPriv, need := k.need, tlb := s.curTlb, setA := setA, setD := false }
  match s.translate r va with
  | (s, .ok x) => if x.pa < windowEnd && (k.noWindow l || (k.n != 4 && k.n != 8) || x.key != 0) then (s, .error .perm) else (s, .ok x)
  | e => e

/-- Pointer and alignment checks over all lanes: checks 1 and 2, then the till's owner and allotment (R65, R132, R134). -/
def State.checkPlaces (s : State) (k : AccKindReq) (lanes : List (Nat × Nat)) : Chk (List LaneAcc) :=
  match lanes.findSome? fun (l, p) => match s.spaceOf k l p with
      | .error d => some (l, p, d)
      | .ok _ => none with
  | some (l, p, d) => .error (.trap { cause := 0x0C, dcode := d, lane := l, addr := p })
  | none =>
    match lanes.find? fun (_, p) => p % k.n != 0 with
    | some (l, p) => .error (.trap { cause := 0x0D, lane := l, addr := p })
    | none =>
      let accs := lanes.filterMap fun (l, p) => match s.spaceOf k l p with
        | .ok pl => some ({ lane := l, ptr := p, place := pl } : LaneAcc)
        | .error _ => none
      match accs.find? fun a => match a.place with
          | .till u _ => u == s.curHome && !s.tillOk s.cur.unit s.cur.stripe a.lane
          | _ => false with
      | some a => .error (.trap { cause := 0x0B, lane := a.lane, addr := a.ptr })
      | none =>
        match accs.find? fun a => match a.place with
            | .till _ off => s.curPriv == .u && !(((s.core s.curHome).team.map fun t => t.owns (off / 4096)).getD false)
            | _ => false with
        | some a => .error (.trap { cause := 0x05, dcode := 0x23, lane := a.lane, addr := a.ptr })
        | none => .ok accs

/-- Translation of every global lane, in lane order, with its results. -/
def State.xlatAll (s : State) (k : AccKindReq) (accs : List LaneAcc) : State × List (LaneAcc × Option XFault) :=
  accs.foldl (fun (s, out) a =>
    match a.place with
    | .global va =>
      match s.xlatLane k a.lane va true with
      | (s, .ok x) => (s, out ++ [({ a with x := x }, none)])
      | (s, .error e) => (s, out ++ [(a, some e)])
    | _ => (s, out ++ [(a, none)])) (s, [])

/-- What a walk that cannot go on waits for. -/
def XFault.wait? (e : XFault) : Option Wait :=
  match e with
  | .held w => some w
  | _ => none

/-- The fault that governs after translation: a walk that must wait (R323), then a missing page, then checks 3, 4 and 5 in order (R65, R70). (log 18) (log 71) -/
def State.pickFault (k : AccKindReq) (rs : List (LaneAcc × Option XFault)) : Option Stop :=
  match rs.findSome? fun r => r.2.bind XFault.wait? with
  | some w => some (.block w)
  | none =>
  let pages := rs.filterMap fun (a, e) => match e with
    | some (.page d lvl) => some ({ idx := 0, lvl := lvl, va := ptrOff a.ptr, lane := a.lane, wr := k.need == Need.write, rd := k.need == Need.read || k.amo, dcode := d } : BatchEntry)
    | _ => none
  if !pages.isEmpty then some (.page (mergeEntries 64 [] pages))
  else
    let of (p : XFault → Bool) : Option Stop := rs.findSome? fun (a, e) => match e with
      | some x => if p x then some (.trap { x.trap a.ptr with lane := a.lane }) else none
      | none => none
    ((of fun x => x == .keyAlias || x == .poison).or (of (· == .perm))).or (of (· == .isSealed))

/-- The home of a global access, if it has one behind the window. -/
def LaneAcc.home? (a : LaneAcc) : Option Xlat :=
  match a.place with
  | .global _ => if a.x.pa < windowEnd then none else some a.x
  | _ => none

/-- The release of an access's frame is under way: the access is accepted behind it (R41). (log 47) -/
def State.releaseWait (s : State) (a : LaneAcc) : Option Wait :=
  match a.home? with
  | none => none
  | some x => match s.homeOf s.curPart x.pa with
    | some (sl, loc) => if s.releasing sl loc then some (.line sl loc) else none
    | none => none

/-- Checks 1 to 6 of R65 over the active lanes; the home slice accepts the accesses with them (log 72). skip says which accesses a present line serves without their home. -/
def State.resolve (s : State) (k : AccKindReq) (skip : LaneAcc → Bool) (lanes : List (Nat × Nat)) : State × Chk (List LaneAcc) :=
  match s.checkPlaces k lanes with
  | .error e => (s, .error e)
  | .ok accs =>
    let (s, rs) := s.xlatAll k accs
    match State.pickFault k rs with
    | some e => (s, .error e)
    | none =>
      let accs := rs.map (·.1)
      match accs.findSome? fun a => if skip a then none else s.releaseWait a with
      | some w => (s, .error (.block w))
      | none =>
      let bad := accs.find? fun a => match a.home? with
        | some x => !skip a && (match s.homeOf s.curPart x.pa with
          | some (sl, loc) => !s.keyOk (s.keyReq a.lane x) sl loc
          | none => true)
        | none => false
      match bad with
      | some a => (s, .error (.trap { cause := 0x10, lane := a.lane, addr := a.ptr }))
      | none => (accs.foldl (fun s a => match a.home? with
        | some x => if skip a then s else (s.keyCheck (s.keyReq a.lane x) x.pa).1
        | none => s) s, .ok accs)

/-- The D bits of the leaves that a word writes through, now that every check of the word has passed (R64); a leaf that cannot be marked yet makes the word wait. What a transaction logs is written at its commit. -/
def State.markDirty (s : State) (accs : List LaneAcc) : Except Wait State :=
  accs.foldl (fun r a => match r, a.place with
    | .ok s, .global va =>
      if decide (0 < (s.curThread a.lane).tx.depth) then .ok s
      else match s.translate { part := s.curPart, ptb := s.ptbOf s.cur.unit s.cur.stripe a.lane, priv := s.curPriv, need := .write, tlb := s.curTlb } va with
        | (_, .error (.held w)) => .error w
        | (s, _) => .ok s
    | r, _ => r) (.ok s)

/-! ## The core cache (R120, R121) -/

/-- The set of a line in the core cache. -/
def coreSet (pa : Nat) : Nat := pa / 128 % 512

/-- Ways of the core cache: its banks in C mode (R120). (log 40) -/
def Core.ways (c : Core) : Nat := (List.range 32).countP fun b => c.mode b == 0

/-- A bank has left C mode (R118): its lines are dropped, and fills in flight, which have chosen no way yet, install nothing. (log 40) -/
def Core.trimLines (c : Core) (b : Nat) : Core :=
  { c with lines := c.lines.filter fun ln => ln.way != b, outq := c.outq.map fun a : Access => { a with install := false } }

/-- The line in a set of a way is dropped (R121). (log 40) -/
def Core.dropWayLine (c : Core) (b set : Nat) : Core := { c with lines := c.lines.filter fun ln => !(ln.way == b && coreSet ln.pa == set) }

/-- The line that holds an address under a key. -/
def Core.lineOf (c : Core) (pa key : Nat) : Option CoreLine := c.lines.find? fun ln => ln.pa == pa / 128 * 128 && ln.key == key

/-- The line that holds an address is dropped. -/
def Core.dropLine (c : Core) (pa : Nat) : Core := { c with lines := c.lines.filter fun ln => ln.pa != pa / 128 * 128 }

/-- A line is installed as the last used of its set, in a way that holds none of it or in that of the least recently used line, which leaves (R120). -/
def Core.install (c : Core) (ln : CoreLine) : Core :=
  let rest := c.lines.filter fun x => x.pa != ln.pa
  let same := rest.filter fun x => coreSet x.pa == coreSet ln.pa
  match (List.range 32).find? fun b => c.mode b == 0 && !same.any fun x => x.way == b with
  | some b => { c with lines := rest ++ [{ ln with way := b }] }
  | none =>
    match same.head? with
    | some v => { c with lines := (rest.filter fun x => x.pa != v.pa) ++ [{ ln with way := v.way }] }
    | none => { c with lines := rest }

/-- A hit makes the line the last used. -/
def Core.useLine (c : Core) (pa : Nat) : Core :=
  { c with lines := (c.lines.filter fun x => x.pa != pa / 128 * 128) ++ (c.lines.filter fun x => x.pa == pa / 128 * 128) }

/-- Bytes and poison of n bytes of a line. -/
def CoreLine.read (ln : CoreLine) (pa n : Nat) : List Byte × Bool := ((ln.bytes.drop (pa % 128)).take n, ln.poison &&& granMask pa n != 0)

/-! ## The outgoing queue (R371) -/

/-- An AMO of the queue that is not performed and touches the bytes. -/
def Core.amoPending (c : Core) (pa n : Nat) : Bool :=
  c.outq.any fun a => !a.performed && a.overlaps pa n && (match a.kind with
    | .amo _ => true
    | _ => false)

/-- Queued stores laid over bytes that stand at an address, in their order (R371). -/
def Core.overlay (c : Core) (pa : Nat) (bs : List Byte) : List Byte :=
  c.outq.foldl (fun bs a =>
    if a.kind == .store && !a.performed && a.overlaps pa bs.length then
      bs.zipIdx.map fun (b, k) => if a.pa ≤ pa + k ∧ pa + k < a.pa + a.size then BitVec.ofNat 8 (a.data / 2 ^ (8 * (pa + k - a.pa))) else b
    else bs) bs

/-- Every one of the bytes is written by a queued store, and none by a queued AMO. -/
def Core.forwards (c : Core) (pa n : Nat) : Bool :=
  !c.amoPending pa n && (List.range n).all fun k => c.outq.any fun a => a.kind == .store && !a.performed && a.overlaps (pa + k) 1

/-- A queued store covers the whole granule of an address, so that its poison is cleared (R51). -/
def Core.clears (c : Core) (pa : Nat) : Bool :=
  c.outq.any fun a => a.kind == .store && !a.performed && decide (a.pa ≤ pa / 16 * 16) && decide (pa / 16 * 16 + 16 ≤ a.pa + a.size)

/-- An access that is complete in its value enters the queue only to be delivered. -/
def State.deliver (s : State) (u : Nat) (a : Access) : State :=
  s.onCore u fun c => { c with outq := c.outq ++ [{ a with id := c.nextId, arrived := true, performed := true, back := true }], nextId := c.nextId + 1 }

/-- An older access of the queue must be performed first: a write of the core to a common byte, or an access of the same thread to one (R239, R371). -/
def Core.behind (c : Core) (a : Access) : Bool :=
  (c.outq.takeWhile fun b => b.id != a.id).any fun b =>
    !b.performed && b.overlaps a.pa a.size && (b.writes || (b.stripe == a.stripe && b.lane == a.lane && b.kind != .pref))

/-! ## Performing at the home (R83) -/

/-- The new value of an AMO from the old word and the operand (R250). -/
def amoValue (op : Nat) (signed : Bool) (w v : Word) : Word :=
  match op with
  | 0 => w + v
  | 1 => if signed then (if w.toInt ≤ v.toInt then w else v) else (if w ≤ v then w else v)
  | 2 => if signed then (if w.toInt ≤ v.toInt then v else w) else (if w ≤ v then v else w)
  | 3 => w &&& v
  | 4 => w ||| v
  | 5 => w ^^^ v
  | 6 => v
  | _ => BitVec.ofNat 32 (faddElem fp32 .rn w.toNat v.toNat)

/-- A line as it stands at its home, with its poison. -/
def State.plainLine (s : State) (part pa key : Nat) : CoreLine :=
  match s.homeOf part (pa / 128 * 128) with
  | none => { pa := pa / 128 * 128, key := key, bytes := List.replicate 128 0, poison := 0xFF }
  | some (sl, loc) =>
    { pa := pa / 128 * 128, key := key, bytes := bytesGet s.mem (memKey sl loc) 128, poison := if (s.frame (frameKey sl loc)).dead then 0xFF else s.poisonOf (lineKey sl loc) }

/-- A line of the home read for a core's data cache: its bytes with the core's queued stores laid over, and its poison (R121, R373). -/
def State.homeLine (s : State) (part u pa key : Nat) : CoreLine :=
  let ln := s.plainLine part pa key
  { ln with bytes := (s.core u).overlay (pa / 128 * 128) ln.bytes }

/-- A line reaches the caches of the core that asked for it (R121, R374), which an acquire at .arc or beyond has emptied; one that is not to be installed leaves no older copy behind (R364). The constant cache takes a line without poison as it stands at its home (R246). -/
def State.installFor (s : State) (part u : Nat) (a : Access) : State :=
  let s := if 2 ≤ a.acq then s.onCore u Core.dropLines else s
  if a.const then
    let ln := s.plainLine part a.pa a.key
    s.onCore u fun c => { c with consts := ((c.consts.filter fun x => x.pa != ln.pa || x.key != ln.key) ++ (if ln.poison = 0 then [ln] else [])).drop (c.consts.length + 1 - 128) }
  else if a.install then s.onCore u fun c => c.install (s.homeLine part u a.pa a.key)
  else if a.kind == .load then s.onCore u fun c => c.dropLine a.pa
  else s

/-- What the home slice tests of an access (R39). -/
def Access.keyReq (a : Access) (part : Nat) : KeyReq := { part := part, world := a.world, pass := a.pass, key := a.key, isSealed := a.isSealed }

/-- The value that an accepted read finds at its home: the bytes there, or those before poison reached them (log 23). -/
def State.readValue (s : State) (sl loc : Nat) (a : Access) : Nat := a.sound.getD (leNat (bytesGet s.mem (memKey sl loc) a.size))

/-- An access is performed at its home, whose line the bank holds or the controller reads (R83). Its checks were made when it was accepted, and its frame has stayed as they found it (R39 to R41, logs 23 and 72). The write of an AMO drops a present line of its core, which an acquire at .arc or beyond drops with the others (R121, R374). -/
def State.performAt (s : State) (part u : Nat) (a : Access) : State :=
  match s.homeOf part a.pa with
  | none => s.onCore u fun c => if a.kind == .store || a.kind == .pref then c.dropAccess a.id else c.onAccess a.id fun a => { a with performed := true, poisoned := true, back := true }
  | some (sl, loc) =>
    let s := if s.keyOk (a.keyReq part) sl loc then s.takeFrame (a.keyReq part) sl loc else s
    match a.kind with
    | .store => (s.writeHome part sl loc a.key a.compress (leBytes a.size a.data)).onCore u fun c => c.dropAccess a.id
    | .pref => (s.installFor part u a).onCore u fun c => c.dropAccess a.id
    | .load =>
      let v := s.readValue sl loc a
      ((s.onCore u fun c => c.onAccess a.id fun a => { a with performed := true, value := v }).installFor part u a).respond u part (bankOf sl loc) a.id
    | .amo op =>
      let old : Word := BitVec.ofNat 32 (s.readValue sl loc a)
      let s := s.writeHome part sl loc a.key a.compress (leBytes 4 (amoValue op (a.code == 5) old (BitVec.ofNat 32 a.data)).toNat)
      let s := s.onCore u fun c => (if 2 ≤ a.acq then c.dropLines else c.dropLine a.pa).onAccess a.id fun a => { a with performed := true, value := old.toNat }
      s.respond u part (bankOf sl loc) a.id

/-- An access of a unit's queue by its id. -/
def State.access (s : State) (u id : Nat) : Option Access := (s.core u).outq.find? fun a => a.id == id

/-- An access of the queue may be performed: its packet has arrived, it is not performed, nothing older stands before it and no reservation holds it. -/
def State.mayPerform (s : State) (u : Nat) (a : Access) (bank : Nat) : Bool :=
  a.arrived && !a.refused && !a.performed && !(s.core u).behind a && !(s.bank bank).holds a.pa a.size (a.kind != .load && a.kind != .pref)

/-- A bank takes an access (R83 to R85): performed on a hit; attached to the line's miss register, or to a free one; a read bypasses when none is free. (log 62) -/
def State.serve (s : State) (u : Nat) (a : Access) : State :=
  let part := (s.partOf u).getD 0
  match s.homeOf part a.pa with
  | none => s.performAt part u a
  | some (sl, loc) =>
    let bn := bankOf sl loc
    let b := s.bank bn
    if !s.mayPerform u a bn || a.missed then s
    else if b.failed then s.performAt part u a
    else if b.lines.any fun x => x.line == loc / 128 then
      (if a.kind == .pref then s.touchLine sl loc a.key false a.compress else if a.kind == .load then s.touchLine sl loc a.key false a.compress else s).performAt part u a
    else
      let wait (s : State) : State := s.onCore u fun c => c.onAccess a.id fun a => { a with missed := true }
      match b.misses.find? fun m => m.line == loc / 128 with
      | some m => if m.attached.length < 16 then wait (s.onBank bn fun b => { b with misses := mapIf (fun m => m.line == loc / 128) (fun m => { m with attached := m.attached ++ [(u, a.id)] }) b.misses }) else s
      | none =>
        if b.misses.length < 128 then wait (s.onBank bn fun b => { b with misses := b.misses ++ [{ line := loc / 128, attached := [(u, a.id)] }] })
        else if a.kind == .load || a.kind == .pref then wait (s.onBank bn fun b => { b with bypassed := b.bypassed ++ [(u, a.id)] })
        else s

/-- A fill arrives (R84): the line is read, takes a way, and the attached accesses are performed in their order. -/
def State.fill (s : State) (bn line : Nat) : State :=
  let b := s.bank bn
  let sl := bn / 4
  let loc := line * 128
  match b.misses.find? fun m => m.line == line with
  | none => s
  | some m =>
    match b.makeRoom s.gtc line with
    | none => s
    | some b' =>
      let part := ((s.slice sl).part).getD 0
      let s := s.onBank bn fun _ => { b' with misses := b'.misses.filter fun m => m.line != line }
      let s := if (s.resident sl loc) then s else s.fillLine part sl loc
      let first := (m.attached.head?).bind fun (u, id) => s.access u id
      let s := s.touchLine sl loc ((first.map Access.key).getD 0) false ((first.map Access.compress).getD false)
      m.attached.foldl (fun s (u, id) => match s.access u id with
        | some a => if s.mayPerform u a bn then s.performAt ((s.partOf u).getD 0) u a else s.onCore u fun c => c.onAccess id fun a => { a with missed := false }
        | none => s) s

end Sys2Proof.Machine
end

