-- ==== Sys2Proof/Machine/Memory.lean ====
section
/-!
DEFINITION. Loads, stores, prefetches and atomic operations of lanes (R236 to R248, R250 to R252), and the events that perform and return their accesses (R83 to R87, R123, R152).
-/
namespace Sys2Proof

/-- The index register of a memory word; SB = 0 means none (R208). -/
def FmtM.index (f : FmtM) : Option Nat := if f.sb = 0 then none else some f.sb.toNat

/-- Registers that form the address (R208). -/
def FmtM.addrRegs (f : FmtM) (indexed : Bool) : List Nat := [f.sa.toNat, f.sa.toNat + 1] ++ (if indexed then f.index.toList else [])

/-- Registers of the data operand (R208). -/
def FmtM.dataRegs (f : FmtM) : List Nat := (List.range (Machine.sizeRegs f.size.toNat)).map (f.dst.toNat + ·)

/-- An access width in bytes. -/
def FmtM.bytes (f : FmtM) : Nat := Machine.sizeBytes f.size

end Sys2Proof

namespace Sys2Proof.Machine

/-! ## Shared parts of the M-format words -/

/-- The effective address of a lane (R208, R243). -/
def memAddr (f : FmtM) (indexed : Bool) (scale : Nat) (t : Thread) : Nat :=
  (effAddr (t.pair f.sa.toNat) (if indexed then f.index.map t.reg else none) scale f.off).toNat

/-- Acquire scope of an order and scope: 0 none, 1 core, 2 arcade, 3 partition or pod (R121, R374). -/
def acqOf (ord scp : Nat) : Nat := if ord = 1 ∨ ord = 3 then min (scp + 1) 3 else 0

/-- The scope at which a word acts: a thread on a booth acts at .arc where its word says .core (R241). -/
def State.scope (s : State) (scp : Nat) : Nat := if s.curKind == .booth then max scp 1 else scp

/-- The value a store writes: the low bytes of the data operand (R238). -/
def storeVal (f : FmtM) (t : Thread) : Nat := wordsVal (f.dataRegs.map t.reg) % 2 ^ (8 * f.bytes)

/-- A lane is inside a transaction. -/
def State.inTx (s : State) (l : Nat) : Bool := decide (0 < (s.curThread l).tx.depth)

/-- Lanes leave the issuing group of the turn; the group stops when none is left (R325). -/
def State.leaveGroup (s : State) (out : LaneMask) : State :=
  if out = 0 then s
  else
    let s := s.onCore s.cur.unit fun c =>
      { c with quads := Tab.modify c.quads s.cur.quad {} fun q =>
          { q with turn := q.turn.map fun t => if s.cur.groupB then { t with b := t.b &&& ~~~out } else { t with a := t.a &&& ~~~out } } }
    if s.cur.lanes &&& ~~~out == 0 then s.stopGroup else s

/-- The word is complete for its group, and some lanes abort their transactions at its end (R317, R325). -/
def State.finishAborting (s : State) (b : Bool) (aborts : List (Nat × BitVec 32)) : State :=
  let s := s.finish b fun _ t => t
  let s := aborts.foldl (fun s (l, c) => s.abortLane s.cur.unit s.cur.stripe l c) s
  s.leaveGroup (laneMask fun l => aborts.any fun a => a.1 == l)

/-- The word as its home holds it for a transaction: queued stores of the core laid over (R318, R371). -/
def State.txWordAt (s : State) (x : Xlat) (va a : Nat) : BitVec 32 :=
  let pa := x.pa / 4 * 4 + (va - a / 4 * 4)
  match s.homeOf s.curPart pa with
  | none => 0
  | some (sl, loc) => BitVec.ofNat 32 (leNat ((s.core s.curHome).overlay pa (bytesGet s.mem (memKey sl loc) 4)))

/-- A new access of a lane, named by its home place. -/
def State.newAccess (s : State) (k : AccKind) (a : LaneAcc) (n : Nat) : Access :=
  let (_, hi, hl) := s.home s.cur.unit s.cur.stripe a.lane
  { id := 0, kind := k, stripe := hi, lane := hl, ppriv := s.curPriv.code, pc := s.cur.pc.toNat, pa := a.x.pa, va := a.ptr, key := a.x.key, compress := a.x.compress, size := n,
    world := s.worldOf s.cur.unit s.cur.stripe a.lane, pass := s.worldPass, isSealed := a.x.isSealed, booth := if s.curKind == .booth then some s.cur.unit else none }

/-- Bytes at rest outside the global space: a bank, the till window or the parameter bytes (R56). -/
def State.localRead (s : State) (a : LaneAcc) (n : Nat) : Nat :=
  match a.place with
  | .spad u off => leNat ((s.core u).readSram off n).1
  | .till u off => leNat ((s.core u).readTill off n)
  | .param off => leNat (((s.core s.curHome).params.drop off).take n)
  | .global _ =>
    let reg := (s.windowReg s.curPart (a.x.pa / 8 * 8)).toNat
    if s.curPriv == .u then 0 else reg / 2 ^ (8 * (a.x.pa % 8)) % 2 ^ (8 * n)

/-- An older load of the same thread to a common byte has no value yet (R239, R364). -/
def State.olderLoad (s : State) (lane pa n : Nat) : Bool := (s.accesses s.cur.unit s.cur.stripe lane).any fun b => !b.performed && b.kind == .load && b.overlaps pa n

/-- A load may be served from the core's line (R121): not at .part, not after an acquire at .part, no AMO of the core is under way to the bytes, and no older load of the thread to them (R239). -/
def State.lineHit (s : State) (acq n : Nat) (a : LaneAcc) : Option CoreLine :=
  if acq = 3 ∨ (s.curThread a.lane).acquired ∨ s.inTx a.lane ∨ (s.core s.curHome).amoPending a.x.pa n ∨ s.olderLoad a.lane a.x.pa n then none
  else (s.core s.curHome).lineOf a.x.pa a.x.key

/-- The slice whose firewall refuses a read or an AMO of the issuing core at its home (R90). -/
def State.deniedAt (s : State) (sl : Nat) : Option Nat :=
  if s.resetting { input := 0, cls := 1, unit := s.cur.unit, id := 0 } || s.firewall s.curHome sl then none
  else match kindOf s.curHome with
  | .func | .root | .other => some sl
  | _ => if s.mayLeave (sliceOf s.curHome) sl then some sl else some (sliceOf s.curHome)

/-- A load finds a poisoned granule (R51, R125): of its bank, of its line, or of its home; a queued store of the whole granule clears it. An access that a firewall refuses meets an uncorrectable error, with its record (R90). -/
def State.loadPoison (s : State) (acq n : Nat) (a : LaneAcc) : State × Bool :=
  match a.place with
  | .spad u off => (s, ((s.core u).readSram off n).2)
  | .global _ =>
    if a.x.pa < windowEnd then (s, false)
    else
      let clear := (s.core s.curHome).clears a.x.pa
      match s.lineHit acq n a with
      | some ln => (s, (ln.read a.x.pa n).2 && !clear)
      | none =>
        match s.homeOf s.curPart a.x.pa with
        | none => (s, true)
        | some (sl, loc) =>
          match s.deniedAt sl with
          | some fw => (s.noteDenied fw s.curPart { s.threadRecord s.cur.unit s.cur.stripe a.lane s.cur.pc.toNat { cause := 0x13, dcode := 0x16, addr := a.x.pa } with src := s.src s.curHome }, true)
          | none =>
            let (s, _, bad) := s.readHome s.curPart sl loc n
            (s, bad && !clear)
  | _ => (s, false)

/-- Check 7 over the lanes of a load (R65). (log 23) -/
def State.checkPoison (s : State) (acq n : Nat) (accs : List LaneAcc) : State × Chk Unit :=
  accs.foldl (fun (s, r) a => match r with
    | .error e => (s, .error e)
    | .ok _ =>
      match s.loadPoison acq n a with
      | (s, true) => (s, .error (.trap { cause := 0x13, lane := a.lane, addr := a.ptr }))
      | (s, false) => (s, .ok ())) (s, .ok ())

/-- What makes scratchpad accesses of n bytes wait: a bank that is being cleared (R118), or an access that came before at the port and can go (R124). -/
def State.clearingBank (s : State) (n : Nat) (accs : List LaneAcc) : Option Wait :=
  accs.findSome? fun a => match a.place with
    | .spad u off => if (s.core u).clearing.contains (off / bankBytes) then some (.bank u (off / bankBytes)) else if s.portBusy u off n then some (.port u off n) else none
    | _ => none

/-- Waits before any lane performs: an acquire under way, and a release, which has no effect on what a transaction logs (R318). -/
def State.waitFor (s : State) (acq : Bool) (rel : Option Nat) : Option Wait :=
  let lanes := s.curLanes
  let held := lanes.filter fun l => s.acquiring s.cur.unit s.cur.stripe l
  if !held.isEmpty && acq then some (.acquire (laneMask held.contains))
  else
    match rel with
    | none => none
    | some scp =>
      let late := lanes.filter fun l => !s.inTx l && s.pending s.cur.unit s.cur.stripe l (decide (1 ≤ scp)) false false
      if late.isEmpty then none else some (.order (laneMask late.contains) (decide (1 ≤ scp)) false false)

/-- The lanes on whose accesses an order and a scope act: all but those whose access a transaction logs (R318). -/
def State.unlogged (s : State) (lanes : List (Nat × Nat)) : List Nat := (lanes.filter fun (l, p) => !(s.inTx l && ptrSpace p == 0)).map (·.1)

/-- What holds a word of a transaction: a read or an AMO of the same thread under way to its bytes (R239), and what makes it wait at its home (R85, R323). -/
def State.txWait (s : State) (n : Nat) (accs : List LaneAcc) : Option Wait :=
  accs.findSome? fun a => match a.home? with
    | some x =>
      if !s.inTx a.lane then none
      else if (s.accesses s.cur.unit s.cur.stripe a.lane).any fun b => !b.performed && b.overlaps x.pa n && b.kind != .store && b.kind != .pref then
        some (.order (laneMask (· == a.lane)) true false false)
      else (s.logClearing s.cur.unit s.cur.stripe a.lane).or (s.homeWait s.curPart x.pa n false false)
    | none => none

/-- The acquire's effect at issue (R121, R372, R374): an acquire at .arc or beyond drops the data cache, so that what its thread then releases to another of the core finds no older line, and a .part acquire sends the later loads of the lanes home. (log 81) -/
def State.acquireEffect (s : State) (acq : Nat) (lanes : List Nat) : State :=
  let s := if 2 ≤ acq ∧ !lanes.isEmpty then (s.onCore s.curHome Core.dropLines).onCore s.cur.unit Core.dropLines else s
  if acq = 3 then s.onCur fun t => lanes.foldl (fun t l => t.onLane l fun th => { th with acquired := true }) t else s

/-! ## Loads -/

/-- The copy of a translated address in the constant cache (R246). -/
def Core.constOf (c : Core) (x : Xlat) : Option CoreLine := c.consts.find? fun ln => ln.pa == x.pa / 128 * 128 && ln.key == x.key

/-- What a load writes and how. -/
structure LoadReq where
  n     : Nat
  code  : Nat
  dst   : Nat
  acq   : Nat
  const : Bool := false
  /-- A present copy of the constant cache serves the word (log 20). -/
  copy  : Bool := false
  spec  : Bool := false
  held  : Bool := false

/-- One lane of a load whose checks passed (R121, R242, R318, R371). The value is fixed at once, or the access goes to its home. None when the log of a transaction is full. (logs 2 and 20) -/
def State.loadLane (s : State) (q : LoadReq) (a : LaneAcc) : Option State :=
  let u := s.cur.unit
  let i := s.cur.stripe
  let acc : Access := { s.newAccess .load a q.n with code := q.code, dst := some q.dst, acq := if s.inTx a.lane && a.home?.isSome then 0 else q.acq, spec := q.spec, held := q.held, const := q.const }
  let mark (s : State) : State := if q.held then s else s.onThread u i a.lane fun t => (List.range (sizeRegs q.code)).foldl (fun t k => t.mark (q.dst + k)) t
  let now (s : State) (v : Nat) : State := mark (s.deliver s.curHome { acc with value := v })
  match a.home? with
  | none => some (now s (s.localRead a q.n))
  | some x =>
    if s.inTx a.lane then
      let s := ((s.readPa s.curPart x.pa q.n x.compress).1).onCore s.curHome fun c => c.dropLine x.pa
      (s.txRead u i a.lane (ptrOff a.ptr) q.n fun va => s.txWordAt x va (ptrOff a.ptr)).map fun (s, v) => now s v
    else
      let c := s.core s.curHome
      if q.const then
        match (if q.copy then c.constOf x else none) with
        | some ln => some (now s (leNat (ln.read x.pa q.n).1))
        | none => some (mark (s.enqueue s.curHome s.curPart acc))
      else if q.acq < 3 && c.forwards x.pa q.n && !s.olderLoad a.lane x.pa q.n then some (now s (leNat (c.overlay x.pa (List.replicate q.n 0))))
      else
        match s.lineHit q.acq q.n a with
        | some ln => some (now (s.onCore s.curHome fun c => c.useLine x.pa) (leNat (c.overlay x.pa (ln.read x.pa q.n).1)))
        | none => some (mark (s.enqueue s.curHome s.curPart { acc with install := true }))

/-- Lanes performed one after the other, ascending (R239); a lane whose log is full is listed (R317). (log 18) -/
def State.eachLane (s : State) (f : State → LaneAcc → Option State) (accs : List LaneAcc) : State × List (Nat × BitVec 32) :=
  accs.foldl (fun (s, out) a => match f s a with
    | some s => (s, out)
    | none => (s, out ++ [(a.lane, txCause 3)])) (s, [])

/-- The checks of a word over its registers. (log 18) -/
def State.checkRegs (s : State) (lanes : List Nat) (srcs : List Nat) (trap : Bool) (dsts : List Nat) : Chk Unit :=
  s.checkSem lanes fun _ => { srcs := srcs.map fun r => (r, trap), dsts := dsts, apply := fun _ t => t }

/-- The request of a memory word for its accesses. -/
def State.accReq (s : State) (n : Nat) (write : Bool) (gq : Nat) (ldc amo : Bool) : AccKindReq :=
  { n := n, need := if write then .write else .read, qual := gq != 0, ldc := ldc, amo := amo, noWindow := fun l => amo || s.inTx l }

/-! ## Qualified accesses (R123 to R125) -/

/-- Two entries are the same lane's. -/
def GranWait.same (a b : GranWait) : Bool := a.unit == b.unit && a.stripe == b.stripe && a.lane == b.lane

/-- The granule accesses before an entry to the same granule that could go now (R124). -/
def State.granFirst (s : State) (g : GranWait) : Bool :=
  !((s.granq.takeWhile fun x => !x.same g).any fun x => x.value.isNone && x.target == g.target && x.off / 16 == g.off / 16 && s.granFree x)

/-- The result of one qualified access at its port. -/
inductive GranStep where
  | wait
  | poison
  | done (s : State)

/-- One qualified access tests F, then poison, then acts and changes F, in one step (R123 to R125). -/
def State.granStep (s : State) (g : GranWait) : GranStep :=
  if !s.granFree g || !s.granFirst g then .wait
  else
    let (bs, bad) := (s.core g.target).readSram g.off g.size
    if g.data.isNone && bad then .poison
    else
      let s := s.onCore g.target fun c =>
        let c := match g.data with
          | some d => c.writeSram g.off (leBytes g.size d)
          | none => c
        c.setFull (g.off / 16) g.leaves
      .done { s with granq := mapIf (fun x => x.same g) (fun x => { x with value := some (if g.data.isNone then leNat bs else 0) }) s.granq }

/-- The entries of the word of the issuing group. -/
def State.granMine (s : State) : List GranWait := s.granq.filter fun g => g.unit == s.cur.unit && g.stripe == s.cur.stripe && s.cur.lanes.getLsbD g.lane

/-- The issuing group's qualified word is complete: loads are delivered, the lanes move on. -/
def State.granFinish (s : State) (b : Bool) : State :=
  let mine := s.granMine
  let s := { s with granq := s.granq.filter fun g => !mine.any g.same }
  let s := mine.foldl (fun s g => match g.data, g.value with
    | none, some v =>
      let (_, hi, hl) := s.home g.unit g.stripe g.lane
      (s.deliver s.curHome { id := 0, kind := .load, stripe := hi, lane := hl, pc := s.cur.pc.toNat, pa := 0, va := g.ptr, key := 0, size := g.size, code := g.code, dst := some g.dst, value := v }).onThread
        g.unit g.stripe g.lane fun t => (List.range (sizeRegs g.code)).foldl (fun t k => t.mark (g.dst + k)) t
    | _, _ => s) s
  (s.acquireEffect (mine.foldl (fun m g => max m g.acq) 0) (mine.map GranWait.lane)).finishPlain b

/-- A qualified word arrives at the bank ports in lane order (R124); it completes at once or waits (R140). -/
def State.granWord (s : State) (b : Bool) (gs : List GranWait) : State :=
  let start := { s with granq := s.granq ++ gs }
  let r := gs.foldl (fun r g => match r with
    | .error e => .error e
    | .ok s => match s.granStep g with
      | .wait => .ok s
      | .poison => .error (g.lane, g.ptr)
      | .done s => .ok s) (Except.ok start : Except (Nat × Nat) State)
  match r with
  | .error (l, p) => s.stopWord noRunAhead (.trap { cause := 0x13, lane := l, addr := p })
  | .ok s => if s.granMine.all fun g => g.value.isSome then s.granFinish b else s.blockPart .granule

/-- The entry of a lane's qualified access (R123). -/
def State.granEntry (s : State) (f : FmtM) (store : Bool) (a : LaneAcc) : GranWait :=
  let (u, off) := match a.place with
    | .spad u off => (u, off)
    | _ => (0, 0)
  let gq := f.gq.toNat
  { unit := s.cur.unit, stripe := s.cur.stripe, lane := a.lane, group := s.cur.lanes, target := u, off := off, size := f.bytes,
    needs := if store then (if gq = 1 then some false else none) else some true,
    leaves := store || gq == 1, data := if store then some (storeVal f (s.curThread a.lane)) else none,
    code := f.size.toNat, dst := f.dst.toNat, ptr := a.ptr, acq := if store then 0 else acqOf f.ord.toNat (s.scope f.scp.toNat) }

/-- A load of FQHEAD, which acquires every record below HEAD (R428). -/
def LaneAcc.faultHead (a : LaneAcc) : Bool :=
  match a.place with
  | .global _ => a.x.pa == 0x1010
  | _ => false

/-! ## LD, LDX, LDC, LDSX -/

/-- LD and LDX (R242, R243), and LDC (R246). -/
def State.loadWord (s : State) (f : FmtM) (scale : Nat) (const : Bool) : State :=
  let lanes := s.active f.hdr
  let acq := acqOf f.ord.toNat (s.scope f.scp.toNat)
  if lanes.isEmpty then s.finishPlain f.hdr.b
  else if !s.granMine.isEmpty then (if s.granMine.all fun g => g.value.isSome then s.granFinish f.hdr.b else s.blockPart .granule)
  else
    match s.checkRegs lanes (f.addrRegs true) f.fa f.dataRegs with
    | .error e => s.stopWord noRunAhead e
    | .ok _ =>
      match s.waitFor true none with
      | some w => s.blockWord w
      | none =>
        let ptrs := lanes.map fun l => (l, memAddr f true scale (s.curThread l))
        let s := s.acquireEffect (if acq = 2 then 2 else 0) (s.unlogged ptrs)
        match s.resolve (s.accReq f.bytes false f.gq.toNat const false) (fun a => !const && (s.lineHit acq f.bytes a).isSome) ptrs with
        | (s, .error e) => s.stopWord (runAhead lanes f.dataRegs) e
        | (s, .ok accs) =>
          match s.txWait f.bytes accs, s.clearingBank f.bytes accs with
          | some w, _ => s.blockWord w
          | none, some w => if f.gq = 0 then s.blockWord w else s.granWord f.hdr.b (accs.map (s.granEntry f false))
          | none, none =>
            if f.gq ≠ 0 then s.granWord f.hdr.b (accs.map (s.granEntry f false))
            else
              -- The copy that an LDC returns is open within R246: a free draw says whether present copies serve it (log 20).
              let copy := const && (Config.freeValue s.freeCount).getLsbD 0
              let s := if const then { s with freeCount := s.freeCount + 1 } else s
              let home := if copy then accs.filter fun a => !(a.home?.any fun x => ((s.core s.curHome).constOf x).isSome && !s.inTx a.lane) else accs
              match s.checkPoison acq f.bytes home with
              | (s, .error e) => s.stopWord noRunAhead e
              | (s, .ok _) =>
                let s := s.acquireEffect (if acq = 3 then 3 else 0) (s.unlogged ptrs)
                let s := match (accs.filter LaneAcc.faultHead).map LaneAcc.lane with
                  | [] => s
                  | ls => if s.curPriv.atK then s.acquireEffect 3 ls else s
                let (s, out) := s.eachLane (fun s a => s.loadLane { n := f.bytes, code := f.size.toNat, dst := f.dst.toNat, acq := acq, const := const, copy := copy } a) accs
                s.finishAborting f.hdr.b out

/-- LD (R242). -/
def execLd (f : FmtM) (s : State) : Host.Outcome State Fault Refusal := .next (s.loadWord f 1 false)
/-- LDX (R243). -/
def execLdx (f : FmtM) (s : State) : Host.Outcome State Fault Refusal := .next (s.loadWord f f.bytes false)
/-- LDC (R246). (log 20) -/
def execLdc (f : FmtM) (s : State) : Host.Outcome State Fault Refusal := .next (s.loadWord f 1 true)

/-- One lane of LDSX whose pointer and alignment passed (R245): checks 3, 4, 6 and 7 give zero and a false p6; A is set only for a lane that succeeds. None when a log is full. -/
def State.ldsxLane (s : State) (f : FmtM) (a : LaneAcc) : Option State :=
  let k := s.accReq f.bytes false 0 false false
  let zero (s : State) : State :=
    let acc : Access := { s.newAccess .load a f.bytes with code := f.size.toNat, dst := some f.dst.toNat, spec := true, good := false, value := 0 }
    (s.deliver s.curHome acc).onThread s.cur.unit s.cur.stripe a.lane fun t => f.dataRegs.foldl Thread.mark t
  let q : LoadReq := { n := f.bytes, code := f.size.toNat, dst := f.dst.toNat, acq := 0, spec := true }
  let go (s : State) (a : LaneAcc) : Option State :=
    match s.loadPoison 0 f.bytes a with
    | (s, true) => some (zero s)
    | (s, false) => s.loadLane q a
  match a.place with
  | .global va =>
    match s.xlatLane k a.lane va false with
    | (_, .error _) => some (zero s)
    | (s', .ok x) =>
      let a' := { a with x := x }
      match a'.home? with
      | none => go (s'.xlatLane k a.lane va true).1 a'
      | some x =>
        let (s', ok) := if (s'.lineHit 0 f.bytes a').isSome then (s', true) else s'.keyCheck (s'.keyReq a.lane x) x.pa
        if !ok then some (zero s)
        else
          match s'.loadPoison 0 f.bytes a' with
          | (s', true) => some (zero s')
          | (s', false) => (s'.xlatLane k a.lane va true).1.loadLane q a'
  | _ => go s a

/-- What the walk of a lane of LDSX waits for. -/
def State.ldsxHeld (s : State) (f : FmtM) (a : LaneAcc) : Option Wait :=
  match a.place with
  | .global va => match (s.xlatLane (s.accReq f.bytes false 0 false false) a.lane va false).2 with
    | .ok x => s.releaseWait { a with x := x }
    | .error e => e.wait?
  | _ => none

/-- The translated access of a lane of LDSX, when its translation passes. -/
def State.ldsxPlace (s : State) (f : FmtM) (a : LaneAcc) : Option LaneAcc :=
  match a.place with
  | .global va => match (s.xlatLane (s.accReq f.bytes false 0 false false) a.lane va false).2 with
    | .ok x => some { a with x := x }
    | .error _ => none
  | _ => none

/-- LDSX (R245). -/
def execLdsx (f : FmtM) (s : State) : Host.Outcome State Fault Refusal :=
  let lanes := s.active f.hdr
  .next (if lanes.isEmpty then s.finishPlain f.hdr.b
    else
      match s.checkRegs lanes (f.addrRegs true) f.fa f.dataRegs with
      | .error e => s.stopWord noRunAhead e
      | .ok _ =>
        match s.waitFor true none with
        | some w => s.blockWord w
        | none =>
          match s.checkPlaces (s.accReq f.bytes false 0 false false) (lanes.map fun l => (l, memAddr f true 1 (s.curThread l))) with
          | .error e => s.stopWord noRunAhead e
          | .ok accs =>
            match ((accs.findSome? (s.ldsxHeld f)).or (s.txWait f.bytes (accs.filterMap (s.ldsxPlace f)))).or (s.clearingBank f.bytes accs) with
            | some w => s.blockWord w
            | none =>
              let (s, out) := s.eachLane (fun s a => s.ldsxLane f a) accs
              s.finishAborting f.hdr.b out)

/-! ## Stores -/

/-- One lane of a store whose checks passed (R247, R318). None when the log of a transaction is full, or a scratchpad store meets a transaction. -/
def State.storeLane (s : State) (f : FmtM) (a : LaneAcc) : Option State :=
  let t := s.curThread a.lane
  let v := storeVal f t
  let bs := leBytes f.bytes v
  match a.place with
  | .spad u off => some (s.onCore u fun c => c.writeSram off bs)
  | .global _ =>
    match a.home? with
    | none =>
      some (s.windowSet s.curPart a.x.pa f.bytes v s.curPriv)
    | some x =>
      if s.inTx a.lane then (s.onCore s.curHome fun c => c.dropLine x.pa).txWrite s.cur.unit s.cur.stripe a.lane (ptrOff a.ptr) f.bytes v
      else
        let s := s.onCore s.curHome fun c => { c with lines := c.lines.map fun ln => ln.store x.pa bs }
        some (s.enqueue s.curHome s.curPart { s.newAccess .store a f.bytes with data := v, code := f.size.toNat })
  | _ => some s

/-- A scratchpad store or AMO of a lane inside a transaction aborts it (R318). -/
def State.spadAborts (s : State) (accs : List LaneAcc) : List Nat :=
  accs.filterMap fun a => match a.place with
    | .spad _ _ => if s.inTx a.lane then some a.lane else none
    | _ => none

/-- ST and STX (R243, R247). -/
def State.storeWord (s : State) (f : FmtM) (scale : Nat) : State :=
  let lanes := s.active f.hdr
  let rel := decide (2 ≤ f.ord.toNat)
  if lanes.isEmpty then s.finishPlain f.hdr.b
  else if !s.granMine.isEmpty then (if s.granMine.all fun g => g.value.isSome then s.granFinish f.hdr.b else s.blockPart .granule)
  else
    match s.checkRegs lanes (f.addrRegs true ++ f.dataRegs) f.fa [] with
    | .error e => s.stopWord noRunAhead e
    | .ok _ =>
      match s.waitFor true (if rel then some (s.scope f.scp.toNat) else none) with
      | some w => s.blockWord w
      | none =>
        let ptrs := lanes.map fun l => (l, memAddr f true scale (s.curThread l))
        match s.resolve (s.accReq f.bytes true f.gq.toNat false false) (fun _ => false) ptrs with
        | (s, .error e) => s.stopWord (runAhead lanes []) e
        | (s, .ok accs) =>
          let spad := s.spadAborts accs
          let accs := accs.filter fun a => !spad.contains a.lane
          let early := spad.map fun l => (l, txCause 3 1)
          match s.clearingBank f.bytes accs with
          | some w => if f.gq = 0 then s.blockWord w else s.granWord f.hdr.b (accs.map (s.granEntry f true))
          | none =>
            let mark (s : State) : State := if rel && f.scp.toNat ≤ 1 then s.markReleased (s.unlogged ptrs) else s
            if f.gq ≠ 0 then
              let s := mark s
              (if accs.isEmpty then s.finishAborting f.hdr.b early
               else ((early.foldl (fun s (l, c) => s.abortLane s.cur.unit s.cur.stripe l c) s).leaveGroup (laneMask spad.contains)).granWord f.hdr.b (accs.map (s.granEntry f true)))
            else
              match s.markDirty accs with
              | .error w => s.blockWord w
              | .ok s =>
                let (s, out) := s.eachLane (fun s a => s.storeLane f a) accs
                (mark s).finishAborting f.hdr.b (early ++ out)

/-- ST (R247). -/
def execSt (f : FmtM) (s : State) : Host.Outcome State Fault Refusal := .next (s.storeWord f 1)
/-- STX (R243). -/
def execStx (f : FmtM) (s : State) : Host.Outcome State Fault Refusal := .next (s.storeWord f f.bytes)

/-! ## Prefetch -/

/-- One lane of PREF (R248): a lane outside space 0, or one that fails a check, is dropped; nothing traps and no A bit is set. -/
def State.prefLane (s : State) (f : FmtM) (l : Nat) : State :=
  let p := memAddr f true 1 (s.curThread l)
  if ptrSpace p != 0 || ptrRank p != 0 then s
  else
    match s.xlatLane (s.accReq 1 false 0 false false) l (ptrOff p) false with
    | (s, .error _) => s
    | (s, .ok x) =>
      if x.pa < windowEnd then s
      else
        match s.keyCheck (s.keyReq l x) x.pa with
        | (_, false) => s
        | (s, true) =>
          match s.loadPoison 0 1 { lane := l, ptr := p, place := .global (ptrOff p), x := x } with
          | (s, true) => s
          | (s, false) => s.enqueue s.curHome s.curPart { s.newAccess .pref { lane := l, ptr := p, place := .global (ptrOff p), x := { x with pa := x.pa / 128 * 128 } } 128 with install := f.size == 1 }

/-- PREF (R248). -/
def execPref (f : FmtM) (s : State) : Host.Outcome State Fault Refusal :=
  let lanes := s.active f.hdr
  .next (match s.checkRegs lanes (f.addrRegs true) f.fa [] with
    | .error e => s.stopWord noRunAhead e
    | .ok _ => (lanes.foldl (fun s l => s.prefLane f l) s).finishPlain f.hdr.b)

/-! ## AMOs (R250 to R252) -/

/-- One lane of an AMO whose checks passed. None when the log of a transaction is full. -/
def State.amoLane (s : State) (op : Nat) (f : FmtM) (acq : Nat) (a : LaneAcc) : Option State :=
  let u := s.cur.unit
  let i := s.cur.stripe
  let v := (s.curThread a.lane).reg f.dst.toNat
  let signed := f.size == 5
  let mark (s : State) : State := s.onThread u i a.lane fun t => t.mark f.dst.toNat
  let acc : Access := { s.newAccess (.amo op) a 4 with data := v.toNat, code := f.size.toNat, dst := some f.dst.toNat, acq := if s.inTx a.lane && a.home?.isSome then 0 else acq }
  match a.place with
  | .spad tu off =>
    let old : Word := BitVec.ofNat 32 (leNat (bytesGet (s.core tu).sram off 4))
    some (mark ((s.onCore tu fun c => c.writeSram off (leBytes 4 (amoValue op signed old v).toNat)).deliver s.curHome { acc with value := old.toNat }))
  | _ =>
    let s := s.onCore s.curHome fun c => c.dropLine a.x.pa
    if s.inTx a.lane then
      match s.txRead u i a.lane (ptrOff a.ptr) 4 fun va => s.txWordAt a.x va (ptrOff a.ptr) with
      | none => none
      | some (s', w) =>
        let s' := (s'.readPa s'.curPart a.x.pa 4 a.x.compress).1
        (s'.txWrite u i a.lane (ptrOff a.ptr) 4 (amoValue op signed (BitVec.ofNat 32 w) v).toNat).map fun s' => mark (s'.deliver s'.curHome { acc with value := w })
    else some (mark (s.enqueue s.curHome s.curPart acc))

/-- An AMO word (R250 to R252). -/
def State.amoWord (s : State) (op : Nat) (f : FmtM) : State :=
  let lanes := s.active f.hdr
  let acq := acqOf f.ord.toNat (s.scope f.scp.toNat)
  let rel := decide (2 ≤ f.ord.toNat)
  if lanes.isEmpty then s.finishPlain f.hdr.b
  else
    match s.checkRegs lanes (f.addrRegs true ++ [f.dst.toNat]) f.fa [] with
    | .error e => s.stopWord noRunAhead e
    | .ok _ =>
      match s.waitFor true (if rel then some (s.scope f.scp.toNat) else none) with
      | some w => s.blockWord w
      | none =>
        let ptrs := lanes.map fun l => (l, memAddr f true 1 (s.curThread l))
        match s.resolve (s.accReq 4 true 0 false true) (fun _ => false) ptrs with
        | (s, .error e) => s.stopWord (runAhead lanes [f.dst.toNat]) e
        | (s, .ok accs) =>
          let spad := s.spadAborts accs
          let early := spad.map fun l => (l, txCause 3 1)
          let accs := accs.filter fun a => !spad.contains a.lane
          match s.txWait 4 accs, s.clearingBank 4 accs with
          | some w, _ => s.blockWord w
          | none, some w => s.blockWord w
          | none, none =>
            match s.checkPoison 3 4 accs with
            | (s, .error e) => s.stopWord noRunAhead e
            | (s, .ok _) =>
              match s.markDirty accs with
              | .error w => s.blockWord w
              | .ok s =>
                let s := s.acquireEffect acq (s.unlogged ptrs)
                let (s, out) := s.eachLane (fun s a => s.amoLane op f acq a) accs
                (if rel && f.scp.toNat ≤ 1 then s.markReleased (s.unlogged ptrs) else s).finishAborting f.hdr.b (early ++ out)

/-- AMO.ADD (R250). -/
def execAmoAdd (f : FmtM) (s : State) : Host.Outcome State Fault Refusal := .next (s.amoWord 0 f)
/-- AMO.MIN (R250). -/
def execAmoMin (f : FmtM) (s : State) : Host.Outcome State Fault Refusal := .next (s.amoWord 1 f)
/-- AMO.MAX (R250). -/
def execAmoMax (f : FmtM) (s : State) : Host.Outcome State Fault Refusal := .next (s.amoWord 2 f)
/-- AMO.AND (R250). -/
def execAmoAnd (f : FmtM) (s : State) : Host.Outcome State Fault Refusal := .next (s.amoWord 3 f)
/-- AMO.OR (R250). -/
def execAmoOr (f : FmtM) (s : State) : Host.Outcome State Fault Refusal := .next (s.amoWord 4 f)
/-- AMO.XOR (R250). -/
def execAmoXor (f : FmtM) (s : State) : Host.Outcome State Fault Refusal := .next (s.amoWord 5 f)
/-- AMO.EXCH (R250). -/
def execAmoExch (f : FmtM) (s : State) : Host.Outcome State Fault Refusal := .next (s.amoWord 6 f)
/-- AMO.FADD (R250). -/
def execAmoFadd (f : FmtM) (s : State) : Host.Outcome State Fault Refusal := .next (s.amoWord 7 f)

/-! ## LD.rem (R244) -/

/-- Two promotions are the same word's. -/
def Promotion.same (p q : Promotion) : Bool := p.stripe == q.stripe && p.lanes == q.lanes

/-- The promotion of the issuing group, if one is under way. -/
def State.promotion (s : State) : Option Promotion := (s.core s.cur.unit).promos.find? fun p => p.stripe == s.cur.stripe && p.lanes &&& s.cur.lanes != 0

/-- LD.rem (R244): the rank is checked, every lane loads at .acq.part with its value held, and the word waits for the acknowledgement. -/
def execLdRem (f : FmtM) (s : State) : Host.Outcome State Fault Refusal :=
  let lanes := s.active f.hdr
  .next (if lanes.isEmpty then s.finishPlain f.hdr.b
    else
      match s.promotion with
      | some p =>
        if p.acked then
          let s := s.onCore s.cur.unit fun c => { c with promos := c.promos.filter fun q => !q.same p }
          (s.acquireEffect 3 (lanes.filter fun l => !s.inTx l)).finishPlain f.hdr.b
        else s.blockPart (.answer 0)
      | none =>
        match s.checkRegs lanes (f.addrRegs false ++ [f.sb.toNat]) f.fa f.dataRegs with
        | .error e => s.stopWord noRunAhead e
        | .ok _ =>
          let low := (lanes.head?).getD 0
          match s.coreOfRank s.curPart (((s.curThread low).reg f.sb.toNat).toNat % 512) with
          | none => s.stopWord noRunAhead (.trap { cause := 0x0C, dcode := 2, lane := low })
          | some target =>
            if (s.core target).world != s.worldOf s.cur.unit s.cur.stripe low then s.stopWord noRunAhead (.trap { cause := 0x0C, dcode := 5, lane := low })
            else
              match s.waitFor true none with
              | some w => s.blockWord w
              | none =>
                match s.resolve (s.accReq f.bytes false 0 false false) (fun _ => false) (lanes.map fun l => (l, memAddr f false 1 (s.curThread l))) with
                | (s, .error e) => s.stopWord (runAhead lanes f.dataRegs) e
                | (s, .ok accs) =>
                  match s.txWait f.bytes accs, s.clearingBank f.bytes accs with
                  | some w, _ => s.blockWord w
                  | none, some w => s.blockWord w
                  | none, none =>
                    match s.checkPoison 3 f.bytes accs with
                    | (s, .error e) => s.stopWord noRunAhead e
                    | (s, .ok _) =>
                      let first := (s.core s.curHome).nextId
                      let (s, out) := s.eachLane (fun s a => s.loadLane { n := f.bytes, code := f.size.toNat, dst := f.dst.toNat, acq := 3, held := true } a) accs
                      let last := (s.core s.curHome).nextId
                      if accs.all fun a => out.any fun o => o.1 == a.lane then s.finishAborting f.hdr.b out
                      else
                      let own := target == s.curHome
                      let p : Promotion := { stripe := s.cur.stripe, lanes := s.cur.lanes, home := s.curHome, ids := (List.range (last - first)).map (first + ·), target := if own then none else some target, sent := own }
                      let s := out.foldl (fun s (l, c) => s.abortLane s.cur.unit s.cur.stripe l c) s
                      let gone := laneMask fun l => out.any fun a => a.1 == l
                      let s := s.leaveGroup gone
                      ({ s with cur := { s.cur with lanes := s.cur.lanes &&& ~~~gone } }.onCore s.cur.unit fun c => { c with promos := c.promos ++ [{ p with lanes := p.lanes &&& ~~~gone }] }).blockPart (.answer 0))

/-- Every load of a promotion has its value. -/
def State.promoLoaded (s : State) (p : Promotion) : Bool := p.ids.all fun id => ((s.access p.home id).map Access.performed).getD true

/-- PROMOTION_REQUEST (R244): the loads are performed, and the request reaches the target core, whose accesses and engine operations before a .core or .arc release it must wait for. -/
def execPromotionRequest (u i : Nat) (s : State) : Host.Outcome State Fault Refusal :=
  .next (match (s.core u).promos.find? fun p => p.stripe == i && !p.sent with
    | none => s
    | some p =>
      if !s.promoLoaded p then s
      else
        let t := p.target.getD 0
        let c := s.core t
        let ops := (c.stage.filter fun o => o.released && !o.complete).map (fun o => (0, o.tag))
          ++ (c.matrix.queue.filter fun o => o.released && !o.complete).map (fun o => (1, o.tag)) ++ (c.matrix.drain.filter fun o => o.released && !o.complete).map (fun o => (2, o.tag))
        let ops := ops ++ (s.slice (sliceOf t)).barrows.flatMap fun (e, b) => (b.ops.filter fun o => o.unit == t && o.released && !o.complete).map fun o => (3 + e, o.tag)
        s.onCore u fun c' => { c' with promos := mapIf p.same (fun q => { q with sent := true, before := (c.outq.filter fun a => a.released && !a.performed).map Access.id, ops := ops }) c'.promos })

/-- The target has performed what a promotion waits for (R244). -/
def State.promoServed (s : State) (p : Promotion) : Bool :=
  match p.target with
  | none => true
  | some t =>
    let c := s.core t
    (p.before.all fun id => ((s.access t id).map Access.performed).getD true)
      && p.ops.all fun (k, tag) => match k with
        | 0 => c.stage.all fun o => o.tag != tag || o.complete
        | 1 => c.matrix.queue.all fun o => o.tag != tag || o.complete
        | 2 => c.matrix.drain.all fun o => o.tag != tag || o.complete
        | e => (Tab.get (s.slice (sliceOf t)).barrows (e - 3) {}).ops.all fun o => o.tag != tag || o.complete

/-- The place where a thread of a home core runs now (R385). -/
def State.runsAt (s : State) (hu hi hl : Nat) : Nat × Nat × Nat :=
  match (s.thread hu hi hl).status with
  | .ejected b k => (b, k, 0)
  | _ => (hu, hi, hl)

/-- A load's value reaches its registers and its predicate (R152, R238, R245). -/
def State.writeLoad (s : State) (hu : Nat) (a : Access) : State :=
  match a.dst with
  | none => s
  | some d =>
    let (u, i, l) := s.runsAt hu a.stripe a.lane
    let ok := a.good && !a.poisoned
    s.onThread u i l fun t =>
      let t := t.setRegs d (extendLoad a.code (if a.spec && !ok then 0 else a.value))
      if a.spec then t.setPred 6 ok else t

/-- A trap of a word whose lanes wait for it: the lanes of the stripe that stand at its address take it at once; on a booth the thread goes home and executes the word there (R389), an open transaction aborted first. -/
def State.trapWaiting (s : State) (u i : Nat) (group : LaneMask) (tr : Trap) : State :=
  let pc := (s.thread u i tr.lane).pc
  let s := s.onStripe u i fun t => { t with wait := none }
  if kindOf u == .booth then
    let inTx := decide (0 < (s.thread u i 0).tx.depth)
    let s := s.abortLane u i 0 (txCause 5 tr.cause)
    s.onCore u fun c => { c.leaveTurn i 1 with guests := Tab.modify c.guests i { home := 0, stripe := 0, lane := 0, joinPc := 0 } fun g =>
      { g with returning := true, trap := if inTx then some tr else g.trap, trapPc := if inTx then pc.toNat else g.trapPc } }
  else s.trapGroup u i group pc tr

/-- A handler of the stripe runs, and a lane is not one of its lanes: the lane takes no trap until XIN clears (R422). -/
def State.handlerElsewhere (s : State) (u i l : Nat) : Bool := kindOf u != .booth && (s.stripe u i).xin && (!(s.stripe u i).xgroup.getLsbD l || (s.stripe u i).xback.getLsbD l)

/-- The lowest lane of a promotion whose load a firewall has refused (R90), with the trap of its word. -/
def State.promoTrap (s : State) (p : Promotion) : Option Trap :=
  p.ids.findSome? fun id => (s.access p.home id).bind fun a =>
    if a.poisoned then some { cause := 0x13, lane := if a.booth.isSome then 0 else a.lane, addr := a.va } else none

/-- PROMOTION_ACK (R244): the acknowledgement arrives, and every lane's registers are written and full; a poisoned value raises POISON precisely, and no lane is written. -/
def execPromotionAck (u i : Nat) (s : State) : Host.Outcome State Fault Refusal :=
  .next (match (s.core u).promos.find? fun p => p.stripe == i && p.sent && !p.acked with
    | none => s
    | some p =>
      if !s.promoLoaded p || !s.promoServed p then s
      else
        match s.promoTrap p with
        | some t =>
          if s.handlerElsewhere u i t.lane || (s.recordWait u i t.lane).isSome then s
          else
            let s := p.ids.foldl (fun s id => s.onCore p.home fun c => c.dropAccess id) s
            (s.onCore u fun c => { c with promos := c.promos.filter fun q => !q.same p }).trapWaiting u i p.lanes t
        | none =>
          let s := p.ids.foldl (fun s id => match s.access p.home id with
            | some a => (s.writeLoad p.home a).onCore p.home fun c => c.dropAccess id
            | none => s) s
          s.onCore u fun c => { c with promos := mapIf p.same (fun q => { q with acked := true }) c.promos })

/-! ## Events of accesses -/

/-- A thread takes the POISON of an access that a firewall has refused after its word's checks (R90, log 23): its word is executed again after the handler, and on a booth it goes home with it. -/
def State.lateTrap (s : State) (u i l : Nat) (a : Access) : State :=
  let tx := (s.thread u i l).tx.depth
  let s := s.abortLane u i l (txCause 5 0x13)
  let s := if kindOf u == .booth then s.onCore u fun c => c.leaveTurn i 1 else s
  let s := if tx = 0 then s.onThread u i l fun t => { t with pc := BitVec.ofNat 52 a.pc } else s
  if kindOf u == .booth then
    s.onCore u fun c => { c with guests := Tab.modify c.guests i { home := 0, stripe := 0, lane := 0, joinPc := 0 } fun g =>
      { g with returning := true, trap := some { cause := 0x13, lane := 0, addr := a.va }, trapPc := a.pc } }
  else s.takeTrap u i (laneMask (· == l)) (BitVec.ofNat 52 a.pc) { cause := 0x13, lane := l, addr := a.va }

/-- LOAD_DATA_RETURN (R152): the response of a performed access has come back, its data is written and its registers are full. A firewall's refusal that came after the word's checks is delivered as a trap of the thread at the access (log 23), once no handler runs that the thread is not in (R422, R423). -/
def execLoadDataReturn (u id : Nat) (s : State) : Host.Outcome State Fault Refusal :=
  .next (match s.access u id with
    | none => s
    | some a =>
      if !a.performed || !a.back || a.held || a.kind == .store then s
      else
        let s' := s.onCore u fun c => c.dropAccess id
        let (tu, ti, tl) := s'.runsAt u a.stripe a.lane
        if a.poisoned && !a.spec && a.dst.isSome then
          if s.handlerElsewhere tu ti tl || (s.recordWait tu ti tl).isSome then s
          else
            let s' := match a.dst with
              | some d => s'.onThread tu ti tl fun t => (List.range (sizeRegs a.code)).foldl (fun t k => { t with empty := setBit t.empty (d + k) false }) t
              | none => s'
            if (s.thread tu ti tl).status == .exited then s' else s'.lateTrap tu ti tl a
        else s'.writeLoad u a)

/-- ACCESS_PERFORMED (R83): a bank takes an access whose packet has arrived. (log 14) -/
def execAccessPerformed (u id : Nat) (s : State) : Host.Outcome State Fault Refusal :=
  .next (match s.access u id with
    | some a => s.serve u a
    | none => s)

/-- FILL_ARRIVAL (R84). -/
def execFillArrival (bank line : Nat) (s : State) : Host.Outcome State Fault Refusal := .next (s.fill bank line)

/-- BYPASSED_READ (R85): the read goes to the controller once no entry of the write-back buffer holds its line; it installs nothing in the bank. -/
def execBypassedRead (bank idx : Nat) (s : State) : Host.Outcome State Fault Refusal :=
  .next (match (s.bank bank).bypassed[idx]? with
    | none => s
    | some (u, id) =>
      let drop (s : State) : State := s.onBank bank fun b => { b with bypassed := b.bypassed.filter fun x => x != (u, id) }
      match s.access u id with
      | none => drop s
      | some a =>
        let part := (s.partOf u).getD 0
        match s.homeOf part a.pa with
        | none => (drop s).performAt part u a
        | some (_, loc) => if ((s.bank bank).wbuf.any fun x => x.line == loc / 128) || !s.mayPerform u a bank then s else (drop s).performAt part u a)

/-- GRANULE_ACCESS (R124): a bank port applies the waiting access of a lane; a poisoned granule undoes the word with POISON, the F bits that its earlier lanes have cleared among it (R125). -/
def execGranuleAccess (u i l : Nat) (s : State) : Host.Outcome State Fault Refusal :=
  .next (match s.granq.find? fun g => g.unit == u && g.stripe == i && g.lane == l && g.value.isNone with
    | none => s
    | some g =>
      match s.granStep g with
      | .wait => s
      | .done s => s
      | .poison =>
        if s.handlerElsewhere u i l || (s.recordWait u i l).isSome then s
        else
        let mine (x : GranWait) : Bool := x.unit == u && x.stripe == i && g.group.getLsbD x.lane
        let s := ((s.granq.filter fun x => mine x && x.value.isSome && x.data.isNone && !x.leaves).foldl (fun s x => s.onCore x.target fun c => c.setFull (x.off / 16) true) s)
        let s := { s with granq := s.granq.filter fun x => !mine x }
        s.trapWaiting u i g.group { cause := 0x13, lane := l, addr := g.ptr })

/-! ## Packets (R86, R87, R90) -/

/-- A class that has a packet at the head of its queue of an input (R87). -/
def Port.heads (p : Port) (cls : Nat) : List Packet := (List.range 4).filterMap fun i => (p.packets.filter fun x => x.input == i && x.cls == cls).head?

/-- Of how many grants of a port one is class 0's: of four in a channel of a link (R91), else of sixteen (R87). -/
def reserveOf (port : Nat) : Nat := if 320 ≤ port ∧ port < 400 then 4 else 16

/-- The packet an arbiter grants (R87): every grant reserved for class 0 is class 0's if it has one; otherwise the highest class; inputs in rotation. -/
def Port.choose (p : Port) (reserve : Nat) : Option Packet :=
  let pick (cls : Nat) : Option Packet := ((List.range 4).map fun k => (p.last + 1 + k) % 4).findSome? fun i => (p.heads cls).find? fun x => x.input == i
  let high := (pick 3).or ((pick 2).or (pick 1))
  if p.grants % reserve = reserve - 1 then (pick 0).or high else high.or (pick 0)

/-- A packet leaves the slice of a unit through its own port (R89). -/
def Packet.leaves (k : Packet) (port : Nat) : Bool :=
  !k.response && (match kindOf k.unit with
    | .simt | .booth => port == uplinkPort (sliceOf k.unit) (arcadeOf k.unit)
    | .host => port == sliceOutPort (sliceOf k.unit)
    | _ => false)

/-- The unit of a die-to-die link by its place in the routes (R25). -/
def linkUnit (link : Nat) : Nat := if link < 3 then 0x1591 + 2 * link else if link < 6 then 0x1594 + link else 0x1590 + 2 * (link - 6)

/-- A packet stands before a link that has failed (R27, R460). -/
def State.linkLost (s : State) (port : Nat) : Bool := decide (320 ≤ port) && decide (port < 400) && s.lostUnits.contains (linkUnit ((port - 320) / 8))

/-- A granted packet goes on (R89, R90, R93): one that leaves its slice is stamped and checked by the firewall there, or discarded when its partition is in reset; the function core of a notify is a shared unit, which no mask names. Over a link that has failed none goes (log 52). (log 14) -/
def State.forward (s : State) (port : Nat) (k : Packet) : State :=
  if s.linkLost port then (if k.notify then s else s.deny k (sliceOf k.unit))
  else if !k.leaves port then s.passOn k
  else if k.notify then (if s.resetting k || !(s.slice (sliceOf k.unit)).part.isSome || (s.slice (sliceOf k.unit)).drain then s else s.passOn (s.stamp k))
  else if s.resetting k then s.onCore k.unit fun c => c.dropAccess k.id
  else if s.mayLeave (sliceOf k.unit) k.slice then s.passOn (s.stamp k)
  else s.deny k (sliceOf k.unit)

/-- PACKET_ARBITRATE (R87, R90, R93): one packet is granted, checked by the firewalls, and sent on. (log 14) -/
def execPacketArbitrate (port : Nat) (s : State) : Host.Outcome State Fault Refusal :=
  let p := Tab.get s.ports port {}
  .next (match p.choose (reserveOf port) with
    | none => s
    | some k =>
      ({ s with ports := Tab.set s.ports port { packets := p.packets.erase k, grants := p.grants + 1, last := k.input } } : State).forward port k)

/-- NEGATIVE_RESPONSE (R90): a refused access completes as though it had met an uncorrectable error; the firewall that refused it counts it, and one record is posted, which names the sending core as its source and the partition physical address (DESIGN CHOICE, log 73). -/
def execNegativeResponse (u id : Nat) (s : State) : Host.Outcome State Fault Refusal :=
  .next (match s.access u id with
    | none => s
    | some a =>
      if !a.refused || a.poisoned then s
      else
        let part := (s.partOf u).getD 0
        let s := s.noteDenied a.deniedBy part { stamp := s.gtc, src := s.src u, cause := 0x13, dcode := 0x16, addr := a.pa, stripe := a.stripe, lane := a.lane, part := part, world := (s.worldOf u a.stripe a.lane).toNat, pc := a.pc, ppriv := a.ppriv, ctx := (s.ctxOf u a.stripe a.lane).toNat }
        s.onCore u fun c => if a.kind == .store || a.kind == .pref then c.dropAccess id else c.onAccess id fun a => { a with performed := true, poisoned := true, back := true })

end Sys2Proof.Machine
end

