-- ==== Sys2Proof/Machine/Sync.lean ====
section
/-!
DEFINITION. Fences, cache invalidation, granule bits without data, counter and time waits, and the global time counter (R249, R253 to R257).
-/
namespace Sys2Proof.Machine

/-- FENCE (R253): it waits for what its order and scope name; an acquire then takes its effect (R121, R374). -/
def execFence (f : FmtM) (s : State) : Host.Outcome State Fault Refusal :=
  let lanes := s.active f.hdr
  let rel := decide (2 ≤ f.ord.toNat)
  let scp := s.scope f.scp.toNat
  let far := rel && decide (1 ≤ scp)
  let pod := f.scp == 3
  .next (if lanes.isEmpty then s.finishPlain f.hdr.b
    else
      let late := lanes.filter fun l => s.pending s.cur.unit s.cur.stripe l far rel pod
      if !late.isEmpty then s.blockWord (.order (laneMask late.contains) far rel pod)
      else
        let s := if rel && scp ≤ 1 then s.markReleased lanes else s
        (s.acquireEffect (acqOf f.ord.toNat scp) lanes).finishPlain f.hdr.b)

/-- INVL1 (R249): the lines of the executing core's data and constant caches go; fills in flight are not installed. -/
def execInvl1 (f : FmtR) (s : State) : Host.Outcome State Fault Refusal :=
  .next (if (s.active f.hdr).isEmpty then s.finishPlain f.hdr.b
    else (s.onCore s.cur.unit fun c =>
      { c with lines := [], consts := [], outq := c.outq.map fun a : Access => { a with install := false, const := false } }).finishPlain f.hdr.b)

/-- GRANSET and GRANCLR (R254): every granule of each lane's range takes the F bit, in lane and address order. -/
def State.granBits (s : State) (f : FmtE) (v : Bool) : State :=
  let lanes := s.active f.hdr
  if lanes.isEmpty then s.finishPlain f.hdr.b
  else
    match s.checkSem lanes fun _ => { srcs := srcPair f.sa f.fa ++ srcOf f.sb f.fb, apply := fun _ t => t } with
    | .error e => s.stopWord noRunAhead e
    | .ok _ =>
      let count (l : Nat) : Nat := ((s.curThread l).reg f.sb.toNat).toNat
      match s.checkPlaces { n := 16, need := .read, qual := true } (lanes.map fun l => (l, ((s.curThread l).pair f.sa.toNat).toNat)) with
      | .error e => s.stopWord noRunAhead e
      | .ok accs =>
        let spans := accs.map fun a => match a.place with
          | .spad u off => (a.lane, a.ptr, u, off, count a.lane)
          | _ => (a.lane, a.ptr, 0, 0, 0)
        match spans.find? fun (_, _, _, off, n) => n != 0 && off / bankBytes != (off + 16 * n - 1) / bankBytes with
        | some (l, p, _) => s.stopWord noRunAhead (.trap { cause := 0x0C, dcode := 3, lane := l, addr := p })
        | none =>
          match (accs.filter fun a => count a.lane != 0).findSome? fun a => s.clearingBank (16 * count a.lane) [a] with
          | some w => s.blockWord w
          | none =>
            (spans.foldl (fun s (_, _, u, off, n) => s.onCore u fun c => (List.range n).foldl (fun c k => c.setFull (off / 16 + k) v) c) s).finishPlain f.hdr.b

/-- GRANSET (R254). -/
def execGranset (f : FmtE) (s : State) : Host.Outcome State Fault Refusal := .next (s.granBits f true)
/-- GRANCLR (R254). -/
def execGranclr (f : FmtE) (s : State) : Host.Outcome State Fault Refusal := .next (s.granBits f false)

/-- The deferred trap of the lowest active lane that has one, taken by this word (R177, R180, R184). -/
def State.takeDeferred (s : State) (lanes : List Nat) : Option State :=
  match lanes.find? fun l => (s.curThread l).deferred.isSome with
  | none => none
  | some l =>
    match (s.curThread l).deferred with
    | none => none
    | some d =>
      let s := (s.onThread s.cur.unit s.cur.stripe l fun t => { t with deferred := none }).onCore s.cur.unit fun c => { c with matrix := { c.matrix with stop := none } }
      some (s.stopWord noRunAhead (.trap { cause := d.cause, dcode := d.dcode, lane := l, addr := d.addr, det := d.det, origin := some (d.src, d.pc, d.stamp) }))

/-- WAITC (R255). -/
def execWaitc (f : FmtE) (s : State) : Host.Outcome State Fault Refusal :=
  let lanes := s.active f.hdr
  let cls := f.x.toNat % 8
  let n := f.imm8.toNat % 64
  .next (if s.curKind == .booth then s.goHome
    else if lanes.isEmpty then s.finishPlain f.hdr.b
    else
      match (if cls = 1 then s.takeDeferred lanes else none) with
      | some s => s
      | none => if Tab.get s.curStripe.counters cls 0 ≤ n then s.finishPlain f.hdr.b else s.blockWord (.counters (2 ^ cls) n))

/-- WAITT (R256): the largest T of the active lanes. -/
def execWaitt (f : FmtE) (s : State) : Host.Outcome State Fault Refusal :=
  let lanes := s.active f.hdr
  .next (if lanes.isEmpty then s.finishPlain f.hdr.b
    else
      match s.checkSem lanes fun _ => { srcs := srcPair f.sa f.fa, apply := fun _ t => t } with
      | .error e => s.stopWord noRunAhead e
      | .ok _ =>
        let t := lanes.foldl (fun m l => max m ((s.curThread l).pair f.sa.toNat).toNat) 0
        if t ≤ s.gtc then s.finishPlain f.hdr.b else s.blockWord (.time t))

/-- WAITT_WAKE (R256): the GTC has reached the value, and the stripe is ready. -/
def execWaittWake (u i : Nat) (s : State) : Host.Outcome State Fault Refusal :=
  .next (match (s.stripe u i).wait with
    | some (.time t) => if t ≤ s.gtc then s.onStripe u i fun x => { x with wait := none } else s
    | _ => s)

/-- RDGTC (R257): the GTC of the clk in which the word issues. -/
def execRdgtc (f : FmtR) (s : State) : Host.Outcome State Fault Refusal :=
  .next (s.compute f.hdr (semPair [] f.dst fun _ => BitVec.ofNat 64 s.gtc))

end Sys2Proof.Machine
end

