-- ==== Sys2Proof/Machine/Engine.lean ====
section
/-!
DEFINITION. What the engines share: who may issue their commands, their reads and writes of memory and scratchpad, their fault records and their retirement (R39, R65, R77, R78, R103, R104, R115, R143, R258, R259, R319).
-/
namespace Sys2Proof.Machine

/-! ## Issuing a command -/

/-- Lanes inside a transaction abort it with cause ASYNC before the word has an effect, and leave the group (R319). -/
def State.asyncAbort (s : State) (lanes : List Nat) : State :=
  let out := lanes.filter s.inTx
  if out.isEmpty then s
  else
    let m := laneMask out.contains
    let s := out.foldl (fun s l => s.abortLane s.cur.unit s.cur.stripe l (txCause 7)) s
    let s := s.leaveGroup m
    { s with cur := { s.cur with lanes := s.cur.lanes &&& ~~~m } }

/-- The lowest lane that a record of a check names when no lane need be active. -/
def State.lowLane (s : State) : Nat := (s.curLanes.head?).getD 0

/-- An instruction that the core kind lacks (R11). -/
def State.illegal (s : State) : State := s.stopWord noRunAhead (.trap { cause := 0x01, lane := s.lowLane })

/-- A word goes on once the transactions of its active lanes have aborted (R319): with the active lanes that are left, none when all lanes have left the group. -/
def State.afterAsync (s : State) (h : Hdr) (go : State → List Nat → State) : State :=
  let s := s.asyncAbort (s.active h)
  if s.cur.lanes = 0 then s else go s (s.active h)

/-- An engine command (R143, R259): on a booth it goes home, elsewhere the core kind and the role are checked whatever the guards (R212). -/
def State.command (s : State) (h : Hdr) (role : Nat) (onHost : Bool) (go : State → List Nat → State) : State :=
  match s.curKind with
  | .booth => s.goHome
  | .simt => s.afterAsync h fun s act =>
    if s.curPriv == .u && s.curStripe.role.toNat != role then s.stopWord noRunAhead (.trap { cause := 0x04, lane := s.lowLane })
    else if act.isEmpty then s.finishPlain h.b else go s act
  | .host => if !onHost then s.illegal else if (s.active h).isEmpty then s.finishPlain h.b else go s (s.active h)
  | _ => s.illegal

/-! ## Accesses of an engine -/

/-- For whom an engine acts: the core of the issuing thread and what the command captured (R95, R107). -/
structure EngCtx where
  unit  : Nat
  part  : Nat
  ptb   : BitVec 64
  priv  : Priv
  world : BitVec 6
  tlb   : Tlb
  /-- Barrow writes reach sealed pages (R45). -/
  sealedOk : Bool := false
  /-- The thread and the word of the command, for records (R426). -/
  stripe : Nat := 0
  lane  : Nat := 0
  pc    : Nat := 0
  ctx   : Nat := 0
  deriving DecidableEq, Repr

/-- An engine access does not go through: a fault that stops the operation, or a wait. -/
inductive EngStop where
  | fault (t : Trap)
  | wait
  deriving DecidableEq, Repr

/-- What an engine operation touches: a scratchpad run, a place in memory, or one that the firewall of a slice refuses (R90). -/
inductive EngPlace where
  | spad (u off : Nat)
  | mem (x : Xlat)
  | denied (x : Xlat) (sl : Nat)
  deriving DecidableEq, Repr

/-- The key request of an engine's access (R39). (log 59) -/
def EngCtx.keyReq (c : EngCtx) (x : Xlat) : KeyReq :=
  { part := c.part, world := c.world, pass := c.priv.atK && (kindOf c.unit == .host || c.unit == 0x1610 || c.unit == 0x1611 || c.unit == 0x1613), key := x.key, isSealed := x.isSealed }

/-- What makes an engine access of n bytes to memory wait (logs 24 and 33): a drain of its slice (R93), a release of the frame that is not done (R41), a reserved word (R323), a line that the bank cannot serve now (R82, R84), an AMO of the core under way, and for a write the core's earlier stores to the bytes. -/
def State.engHeld (s : State) (c : EngCtx) (x : Xlat) (n : Nat) (write : Bool) : Bool :=
  s.inDrain c.unit || (s.core c.unit).amoPending x.pa n || (write && (s.core c.unit).outq.any fun a => a.kind == .store && !a.performed && a.overlaps x.pa n)
    || (match s.homeOf c.part x.pa with
      | some (sl, loc) => s.releasing sl loc || (s.bank (bankOf sl loc)).holds x.pa n write || !s.bankTakes sl loc write (n == 128) true
      | none => false)

/-- The slice whose firewall refuses an engine's packet (R90): its own or the destination's. -/
def State.engDenied (s : State) (c : EngCtx) (x : Xlat) : Option Nat :=
  match s.homeOf c.part x.pa with
  | none => none
  | some (sl, _) =>
    if s.inDrain c.unit || s.firewall c.unit sl then none
    else if kindOf c.unit == .simt && !s.mayLeave (sliceOf c.unit) sl then some (sliceOf c.unit) else some sl

/-- The record of an engine access that a firewall refuses names the core that the engine acts for (R90, log 73). -/
def State.engNoteDenied (s : State) (c : EngCtx) (x : Xlat) (sl : Nat) : State :=
  s.noteDenied sl c.part { stamp := s.gtc, src := s.src c.unit, cause := 0x13, dcode := 0x16, ppriv := c.priv.code, addr := x.pa, part := c.part, world := c.world.toNat, lane := c.lane, stripe := c.stripe, pc := c.pc, ctx := c.ctx }

/-- The checks of an engine access of n bytes (R56, R65, R77, R90), after which a write sets the D bit of its leaf (R64), and what makes it wait, a clearing bank and an earlier access at its port among it (R118, R124). (logs 24 and 33) -/
def State.engPlace (s : State) (c : EngCtx) (ptr n : Nat) (write : Bool) (setA : Bool := true) : State × Except EngStop EngPlace :=
  match s.checkPtr c.unit c.part c.world c.priv ptr n write with
  | .error d => (s, .error (.fault { cause := 0x0C, dcode := d, addr := ptr }))
  | .ok (.spad u off) => if (s.core u).clearing.contains (off / bankBytes) || s.portBusy u off n then (s, .error .wait) else (s, .ok (.spad u off))
  | .ok (.global va) =>
    let r : Req := { part := c.part, ptb := c.ptb, priv := c.priv, need := if write then .write else .read, tlb := c.tlb, setA := setA, setD := false, sealedOk := c.sealedOk }
    match s.translate r va with
    | (s, .error (.held _)) => (s, .error .wait)
    | (s, .error e) => (s, .error (.fault (e.trap ptr)))
    | (s, .ok x) =>
      if x.pa < windowEnd then (s, .error (.fault { cause := 0x0F, addr := ptr }))
      else match s.engDenied c x with
      | some sl => (s, .ok (.denied x sl))
      | none =>
        match s.keyCheck (c.keyReq x) x.pa with
        | (s, false) => (s, .error (.fault { cause := 0x10, addr := ptr }))
        | (s, true) =>
          if s.engHeld c x n write then (s, .error .wait)
          else if !write || !setA then (s, .ok (.mem x))
          else match s.translate { r with setD := true } va with
            | (s, .error (.held _)) => (s, .error .wait)
            | (s, _) => (s, .ok (.mem x))
  | .ok _ => (s, .error (.fault { cause := 0x0C, dcode := 1, addr := ptr }))

/-- Granules of n bytes within a line that a read finds poisoned (R51, R52); those that a queued store of the core writes whole are clean for it. -/
def State.poisonSeen (s : State) (u part pa n : Nat) : BitVec 8 :=
  match s.homeOf part pa with
  | none => granMask pa n
  | some (sl, loc) =>
    let map_ := if (s.frame (frameKey sl loc)).dead then 0xFF else s.poisonOf (lineKey sl loc)
    BitVec.ofNat 8 ((List.range 8).foldl (fun a g => if (map_ &&& granMask loc n).getLsbD g && !(s.core u).clears (pa / 128 * 128 + 16 * g) then a + 2 ^ g else a) 0)

/-- Bytes and poison of a place, with the queued stores of the core laid over (R371). -/
def State.engGet (s : State) (c : EngCtx) (p : EngPlace) (n : Nat) : State × List Byte × Bool :=
  match p with
  | .spad u off => (s, (s.core u).readSram off n)
  | .denied x sl => (s.engNoteDenied c x sl, List.replicate n 0, true)
  | .mem x =>
    let (s, bs, _) := s.readPa c.part x.pa n x.compress
    (s, (s.core c.unit).overlay x.pa bs, s.poisonSeen c.unit c.part x.pa n != 0)

/-- An engine read of n bytes within a granule. -/
def State.engRead (s : State) (c : EngCtx) (ptr n : Nat) : State × Except EngStop (List Byte × Bool) :=
  match s.engPlace c ptr n false with
  | (s, .error e) => (s, .error e)
  | (s, .ok p) =>
    let (s, r) := s.engGet c p n
    (s, .ok r)

/-- Poison of the granules of a run of a scratchpad. -/
def Core.poisonRun (c : Core) (off n : Nat) : Core := (granRange off n).foldl (fun c g => c.setPoisoned g true) c

/-- Reads of cores that were accepted before poison reaches the granules of a run keep the value that stands there (log 23). -/
def State.keepSound (s : State) (part pa n : Nat) : State :=
  let lo := pa / 16 * 16
  let reads (u : Nat) (a : Access) : Bool := s.partOf u == some part && !a.performed && a.kind != .store && a.kind != .pref && a.sound.isNone && a.overlaps lo ((pa + n + 15) / 16 * 16 - lo)
  { s with cores := s.cores.map fun e => (e.1, { e.2 with outq := mapIf (reads e.1) (fun a => { a with sound := some (leNat (s.plainBytes part a.pa a.size)) }) e.2.outq }) }

/-- Bytes written to a place; a poisoned source poisons the granules it reaches (R51). -/
def State.engPut (s : State) (c : EngCtx) (p : EngPlace) (bs : List Byte) (poison : Bool) : State :=
  match p with
  | .spad u off => s.onCore u fun k => let k := k.writeSram off bs; if poison then k.poisonRun off bs.length else k
  | .denied x sl => s.engNoteDenied c x sl
  | .mem x =>
    let s := if poison then s.keepSound c.part x.pa bs.length else s
    let s := (s.writePa c.part x.pa x.key x.compress bs).onCore c.unit fun k => { k with lines := k.lines.map fun ln => ln.store x.pa bs }
    if !poison then s
    else
      match s.homeOf c.part x.pa with
      | some (sl, loc) => if (s.frame (frameKey sl loc)).dead then s else (s.poisonHome c.part sl loc x.key x.compress bs.length).onCore c.unit fun k => k.dropLine x.pa
      | none => s

/-- A place in memory is poisoned with no source read (R78). -/
def State.engMark (s : State) (c : EngCtx) (x : Xlat) (n : Nat) : State :=
  match s.homeOf c.part x.pa with
  | some (sl, loc) => ((s.keepSound c.part x.pa n).poisonHome c.part sl loc x.key x.compress n).onCore c.unit fun k => k.dropLine x.pa
  | none => s

/-- An engine write within a granule. -/
def State.engWrite (s : State) (c : EngCtx) (ptr : Nat) (bs : List Byte) (poison : Bool) : State × Except EngStop Unit :=
  match s.engPlace c ptr bs.length true with
  | (s, .error e) => (s, .error e)
  | (s, .ok p) => (s.engPut c p bs poison, .ok ())

/-- Poison of a destination with no source read (R78): granules of a scratchpad become full with it, so that their readers wake (R103, R198); an unreachable one is skipped; false when it must wait. -/
def State.engPoison (s : State) (c : EngCtx) (ptr n : Nat) : State × Bool :=
  match s.engPlace c ptr n true with
  | (s, .error .wait) => (s, false)
  | (s, .error (.fault _)) => (s, true)
  | (s, .ok (.spad u off)) => (s.onCore u fun k => (granRange off n).foldl (fun k g => k.setFull g true) (k.poisonRun off n), true)
  | (s, .ok (.denied x sl)) => (s.engNoteDenied c x sl, true)
  | (s, .ok (.mem x)) => (s.engMark c x n, true)

/-! ## Fault records, counters, rings -/

/-- Whom an engine-fault record names (R77, R426). -/
structure EngOp where
  eng    : Nat
  /-- 0 S, 1 M, 2 D, 3 B. -/
  cls    : Nat
  tag    : Nat
  stripe : Nat
  lane   : Nat
  pc     : Nat
  ctx    : Nat

/-- The record of an engine fault at an element (R77). -/
def State.engFault (s : State) (c : EngCtx) (o : EngOp) (t : Trap) (elem : Nat) : State :=
  (s.attribute c.unit { stamp := s.gtc, src := s.src o.eng, cause := t.cause, dcode := t.dcode, pc := o.pc, addr := t.addr }).post c.part
    { stamp := s.gtc, src := s.src o.eng, cause := t.cause, dcode := t.dcode, ppriv := c.priv.code, world := c.world.toNat, pc := o.pc, addr := t.addr,
      lane := o.lane, stripe := o.stripe, part := c.part, ctx := o.ctx,
      det := [BitVec.ofNat 32 (o.tag + o.cls * 256), BitVec.ofNat 32 elem, BitVec.ofNat 32 (elem / 2 ^ 32)] }

/-- A counter of a stripe changed (R115). -/
def Stripe.count (t : Stripe) (cls : Nat) (f : Nat → Nat) : Stripe := { t with counters := Tab.modify t.counters cls 0 f }

/-- A counter has reached 63 (R115). -/
def Stripe.counterFull (t : Stripe) (cls : Nat) : Bool := decide (63 ≤ Tab.get t.counters cls 0)

/-- A flip of a ring slot (R160); it is dropped when the ring or the slot is unused (R161). -/
def Core.flipRing (c : Core) (q sl : Nat) : Core :=
  match Tab.find c.rings q with
  | none => c
  | some r => if sl < r.ns then { c with rings := Tab.set c.rings q { r with ph := setBit r.ph sl (!r.ph.getLsbD sl) } } else c

/-- The retirement of an operation (R104): the counter falls and the named slot flips; nothing when the team has gone (R106). -/
def State.retire (s : State) (u i cls : Nat) (ring : Option (Nat × Nat)) (orphan : Bool) : State :=
  if orphan then s
  else
    let s := s.onStripe u i fun t => t.count cls (· - 1)
    match ring with
    | some (q, sl) => s.onCore u fun c => c.flipRing q sl
    | none => s

/-- The next tag of an engine: in rotation, skipping tags in use (R258). (log 10) -/
def nextTag (used : List Nat) (from_ : Nat) : Nat := ((List.range 256).find? fun k => !used.contains ((from_ + k) % 256)).elim from_ fun k => (from_ + k) % 256

/-! ## Blocks read at acceptance -/

/-- The trap of a block's pointer before its bytes are read (R97): a space that the command does not admit, then alignment, each named by the lowest lane. -/
def pointerTrap (params : Bool) (align : Nat) (ptrs : List (Nat × Nat)) : Option Trap :=
  match ptrs.find? fun (_, p) => ptrSpace p != 0 && !(params && ptrSpace p == 4) with
  | some (l, p) => some { cause := 0x0C, dcode := 1, lane := l, addr := p }
  | none => (ptrs.find? fun (_, p) => p % align != 0).map fun (l, p) => { cause := 0x0D, lane := l, addr := p }

/-- Pieces of n bytes read for lanes of the issuing group under R65, in lane order; each lane's pieces are joined. -/
def State.readPieces (s : State) (n : Nat) (dsts : List Nat) (pieces : List (Nat × Nat)) : Except State (State × List (Nat × List Byte)) :=
  match s.resolve (s.accReq n false 0 true false) (fun _ => false) pieces with
  | (s, .error e) => .error (s.stopWord (runAhead (pieces.map (·.1)) dsts) e)
  | (s, .ok accs) =>
    let late := accs.filter fun a => a.home?.any fun x => (s.core s.curHome).amoPending x.pa n
    if !late.isEmpty then .error (s.blockWord (.order (laneMask fun l => accs.any fun a => a.lane == l) true false false))
    else match accs.findSome? fun a => a.home?.bind fun x => s.homeWait s.curPart x.pa n false true with
    | some w => .error (s.blockWord w)
    | none =>
      match s.checkPoison 3 n accs with
      | (s, .error e) => .error (s.stopWord noRunAhead e)
      | (s, .ok _) =>
        let s := accs.foldl (fun s a => match a.home? with
          | some x => (s.readPa s.curPart x.pa n x.compress).1
          | none => s) s
        .ok (s, ((pieces.map (·.1)).eraseDups).map fun l => (l, (accs.filter fun a => a.lane == l).flatMap fun a => match a.home? with
          | some x => (s.core s.curHome).overlay x.pa ((s.plainBytes s.curPart x.pa n))
          | none => leBytes n (s.localRead a n)))

/-- Blocks of 16 p bytes read for lanes of the issuing group under R65, in lane order (R97, R258, R262). -/
def State.readBlocks (s : State) (p : Nat) (dsts : List Nat) (ptrs : List (Nat × Nat)) : Except State (State × List (Nat × List Byte)) :=
  s.readPieces 16 dsts (ptrs.flatMap fun (l, ptr) => (List.range p).map fun k => (l, ptr + 16 * k))

/-- A field of a block: n bytes at an offset. -/
def field (b : List Byte) (o n : Nat) : Nat := leNat ((b.drop o).take n)

end Sys2Proof.Machine
end

