-- ==== Sys2Proof/Machine/Barrow.lean ====
section
/-!
DEFINITION. The barrow engines: command blocks, endpoints, encrypted streams, the second tier, and the life of an operation (R33, R47 to R49, R107 to R113, R258, R262, R470).
-/
namespace Sys2Proof.Machine

/-! ## Blocks and endpoints (R108, R109) -/

/-- An endpoint (R109). -/
structure Endpoint where
  addr : Nat
  spec : Nat
  deriving DecidableEq, Repr

/-- KIND of an endpoint. -/
def Endpoint.kind (e : Endpoint) : Nat := bits e.spec 63 60
/-- KEY of a physical endpoint. -/
def Endpoint.key (e : Endpoint) : Nat := bits e.spec 59 52
/-- STRM of an endpoint. -/
def Endpoint.strm (e : Endpoint) : Nat := bits e.spec 51 48
/-- PKG of a pod endpoint. -/
def Endpoint.pkg (e : Endpoint) : Nat := bits e.spec 47 38
/-- WIN of a pod endpoint. -/
def Endpoint.win (e : Endpoint) : Nat := bits e.spec 37 30
/-- The endpoint is in the tier or at a peer. -/
def Endpoint.far (e : Endpoint) : Bool := decide (2 ≤ e.kind)

/-- Source of an operation. -/
def BarrowOp.src (o : BarrowOp) : Endpoint := { addr := field o.block 0 8, spec := field o.block 8 8 }
/-- Destination of an operation. -/
def BarrowOp.dst (o : BarrowOp) : Endpoint := { addr := field o.block 16 8, spec := field o.block 24 8 }
/-- LEN. -/
def BarrowOp.len (o : BarrowOp) : Nat := field o.block 0x20 8
/-- BCTL. -/
def BarrowOp.ctl (o : BarrowOp) : Nat := field o.block 0x30 8
/-- The endpoints that the operation uses; BFILL ignores SRC (R108). -/
def BarrowOp.ends (o : BarrowOp) : List Endpoint := if o.fill then [o.dst] else [o.src, o.dst]

/-- A block that R110 refuses with detail "block". (log 34) -/
def BarrowOp.badBlock (o : BarrowOp) (host : Bool) : Bool :=
  bits o.ctl 63 14 != 0 || bits o.ctl 3 2 != 0 || bits o.ctl 1 0 != (if o.fill then 1 else 0) || o.len == 0 || decide (2 ^ 44 < o.len)
    || (o.ends.any fun e => decide (4 ≤ e.kind) || bits e.spec 29 0 != 0)
    || (!o.fill && o.src.far && o.dst.far) || (host && o.ctl.testBit 12)

/-- A stream of a slice. -/
def State.stream (s : State) (sl j : Nat) : Stream := Tab.get (s.slice sl).streams j {}

/-- An endpoint that R110 refuses with detail "range". (log 34) -/
def State.badRange (s : State) (sl part : Nat) (o : BarrowOp) (e : Endpoint) : Bool :=
  (e.kind == 2 && (e.addr % 4096 != 0 || o.len % 4096 != 0 || decide (2 ^ 30 * (s.part part).tierGb < e.addr + o.len)))
    || (e.far && (s.stream sl e.strm).current.isNone && (s.stream sl e.strm).pending.isNone)

/-! ## Streams (R47, R48) -/

/-- The pending key takes over: the current key is retired (R48). -/
def Stream.rotate (x : Stream) : Stream :=
  match x.pending with
  | some p => { x with retired := x.current, current := some { p with used := 0, first := x.i }, pending := none, stop := false }
  | none => x

/-- One packet sealed by the current key: the key, the invocation, and the stream after it; none when the stream is stopped. -/
def Stream.sealPacket (x : Stream) : Option (StreamKey × Nat × Stream) :=
  let x := if x.current.isNone || x.stop then x.rotate else x
  match x.current with
  | none => none
  | some k =>
    if 2 ^ 32 ≤ k.used then none
    else
      let y := { x with current := some { k with used := k.used + 1 }, i := x.i + 1 }
      let y := if k.used + 1 < 2 ^ 32 then y else if y.pending.isSome then y.rotate else { y with stop := true }
      some (k, x.i, y)

/-- The key whose invocation range contains a packet's (R49). -/
def Stream.keyFor (x : Stream) (i : Nat) : Option StreamKey :=
  let covers (k : Option StreamKey) : Option StreamKey := match k with
    | some k => if k.first ≤ i ∧ i < k.first + k.used then some k else none
    | none => none
  (covers x.current).or (covers x.retired)

/-- A packet of 4,096 bytes sealed under a stream: its header (R33) with the tag inverted for poison (R111), its key, and the state; none while the stream is stopped. A key that has sealed its last packet without a successor gives one KEYEXH record (R48). (log 34) -/
def State.sealPacket (s : State) (sl part eng j : Nat) (payload : List Byte) (poison : Bool) : Option (State × List Byte × StreamKey × Nat) :=
  match (s.stream sl j).sealPacket with
  | none => none
  | some (k, i, x) =>
    let salt := (s.stream sl j).salt
    let tag := Config.gcmTag k.key salt i payload
    let tag := if poison then tag.map (~~~ ·) else tag
    let hdr := leBytes 4 salt.toNat ++ leBytes 8 i ++ tag ++ leBytes 4 0
    let s' := s.onSlice sl fun c => { c with streams := Tab.set c.streams j x }
    some (if x.stop then s'.post part { stamp := s.gtc, src := s.src eng, cause := 0x18, addr := j } else s', hdr, k, i)

/-- A packet opened with its header (R49): none when its invocation is in no range or the tag differs. -/
def State.openPacket (s : State) (sl j : Nat) (hdr : List Byte) : Option (StreamKey × BitVec 32 × Nat × List Byte) :=
  let i := field hdr 4 8
  match (s.stream sl j).keyFor i with
  | none => none
  | some k => some (k, BitVec.ofNat 32 (field hdr 0 4), i, (hdr.drop 12).take 16)

/-! ## Places of an operation -/

/-- The partition of an operation. -/
def State.barrowPart (s : State) (sl : Nat) : Nat := ((s.slice sl).part).getD 0

/-- For whom an operation acts. -/
def State.barrowCtx (s : State) (sl e : Nat) (o : BarrowOp) : EngCtx :=
  { unit := o.unit, part := s.barrowPart sl, ptb := o.ptb, priv := o.priv, world := o.world, tlb := .barrow sl e, sealedOk := true,
    stripe := o.stripe, lane := o.lane, pc := o.pc, ctx := o.ctx }

/-- Unit number of an engine (R25). -/
def barrowUnit (sl e : Nat) : Nat := 0xF00 + 2 * sl + e

/-- Whom its records name. -/
def BarrowOp.named (o : BarrowOp) (sl e : Nat) : EngOp := { eng := barrowUnit sl e, cls := 3, tag := o.tag, stripe := o.stripe, lane := o.lane, pc := o.pc, ctx := o.ctx }

/-- The place of n bytes of a memory endpoint at an offset (R109). A physical endpoint has no leaf to take the compressible bit of R34 from: the bit is clear (DESIGN CHOICE, log 79). -/
def State.endPlace (s : State) (c : EngCtx) (e : Endpoint) (off n : Nat) (write : Bool) : State × Except EngStop EngPlace :=
  if e.kind = 0 then
    if 2 ^ 52 < ptrOff e.addr + off + n then (s, .error (.fault { cause := 0x0C, dcode := 3, addr := e.addr })) else s.engPlace c (e.addr + off) n write
  else
    let pa := e.addr + off
    if (s.part c.part).size < pa + n then (s, .error (.fault { cause := 0x0C, dcode := 3, addr := pa }))
    else if pa < windowEnd then (s, .error (.fault { cause := 0x0F, addr := pa }))
    else
      match s.homeOf c.part pa with
      | none => (s, .error (.fault { cause := 0x0C, dcode := 3, addr := pa }))
      | some (sl, loc) =>
        let x : Xlat := { pa := pa, key := e.key, isSealed := (s.keySlot sl e.key).weight, compress := false }
        match s.engDenied c x with
        | some d => (s, .ok (.denied x d))
        | none =>
          if !s.keyOk (c.keyReq x) sl loc then (s, .error (.fault { cause := 0x10, addr := pa }))
          else if s.engHeld c x n write then (s, .error .wait) else (s.takeFrame (c.keyReq x) sl loc, .ok (.mem x))

/-- Bytes up to the next granule of an address, at most n. -/
def upTo (a n : Nat) : Nat := min n (16 - a % 16)

/-- What was read of a run: bytes, of each byte whether its granule is poisoned, and the stop that cut it short. -/
structure RunRead where
  bs   : List Byte := []
  bad  : List Bool := []
  stop : Option EngStop := none

/-- Reads a run of a memory endpoint, granule by granule. -/
def State.readRun (fuel : Nat) (s : State) (c : EngCtx) (e : Endpoint) (off n : Nat) (bs : List Byte) (bad : List Bool) : State × RunRead :=
  match fuel with
  | 0 => (s, { bs := bs, bad := bad })
  | k + 1 =>
    if n = 0 then (s, { bs := bs, bad := bad })
    else
      let m := upTo (e.addr + off) n
      match s.endPlace c e off m false with
      | (s, .error x) => (s, { bs := bs, bad := bad, stop := some x })
      | (s, .ok p) =>
        let (s, x, b) := s.engGet c p m
        State.readRun k s c e (off + m) (n - m) (bs ++ x) (bad ++ List.replicate m b)

/-- Writes a run of a memory endpoint, granule by granule; a granule with a poisoned source byte is poisoned (R111). None, or the offset of a stop. -/
def State.writeRun (fuel : Nat) (s : State) (c : EngCtx) (e : Endpoint) (off : Nat) (bs : List Byte) (bad : List Bool) : State × Option (Nat × EngStop) :=
  match fuel with
  | 0 => (s, none)
  | k + 1 =>
    if bs.isEmpty then (s, none)
    else
      let m := upTo (e.addr + off) bs.length
      match s.endPlace c e off m true with
      | (s, .error x) => (s, some (off, x))
      | (s, .ok p) => State.writeRun k (s.engPut c p (bs.take m) ((bad.take m).any id)) c e (off + m) (bs.drop m) (bad.drop m)

/-- Poisons a run of a memory endpoint; what cannot be reached is skipped (R78). False when it must wait. -/
def State.poisonRun (fuel : Nat) (s : State) (c : EngCtx) (e : Endpoint) (off n : Nat) : State × Bool :=
  match fuel with
  | 0 => (s, true)
  | k + 1 =>
    if n = 0 then (s, true)
    else
      let m := upTo (e.addr + off) n
      let (s, ok) := match s.endPlace c e off m true with
        | (s, .error .wait) => (s, false)
        | (s, .error (.fault _)) => (s, true)
        | (s, .ok (.spad u a)) => (s.onCore u fun k => k.poisonRun a m, true)
        | (s, .ok (.mem x)) => (s.engMark c x m, true)
        | (s, .ok (.denied x d)) => (s.engNoteDenied c x d, true)
      if ok then State.poisonRun k s c e (off + m) (n - m) else (s, false)

/-! ## The second tier (R32, R33, R470) -/

/-- The package's tier unit of a byte offset in a partition's share. -/
def State.tierUnit (s : State) (part off : Nat) : Nat := 2 ^ 18 * (s.part part).tierBase + off / 4096

/-- The port of a tier unit has failed (R470). -/
def State.tierLost (s : State) (t : Nat) : Bool := s.cxlFailed.getLsbD (t % 16)

/-- The eight bits of a position in reverse, so that neighbours in the result stand far apart in the frame. -/
def rev8 (k : Nat) : Nat := (List.range 8).foldl (fun a b => 2 * a + k / 2 ^ b % 2) 0

/-- The partition that has a turn of a frame of 256 (R465): of the partitions with their weights in order, each has one turn and its part of the rest in proportion to its weight, spread over the frame (DESIGN CHOICE, log 82). -/
def turnOwner (ws : List (Nat × Nat)) (k : Nat) : Option Nat :=
  let rest := 256 - ws.length
  let total := (ws.map (·.2)).sum
  let v := rev8 (k % 256)
  (ws.foldl (fun (r : Nat × Nat × Option Nat) w =>
    let cum := r.2.1 + w.2
    (r.1 + 1, cum, if r.1 + rest * r.2.1 / total ≤ v ∧ v < r.1 + 1 + rest * cum / total then some w.1 else r.2.2)) (0, 0, none)).2.2

/-- The port of a tier unit takes a packet of a partition now (R92, R465): the turn is the partition's and it has not used it. (log 82) -/
def State.portTurn (s : State) (part t : Nat) : Bool :=
  let ws := (s.parts.filter fun e => e.2.valid).map fun e => (e.1, e.2.wcxl)
  turnOwner ws s.gtc == some part && Tab.find (s.part part).cxlLast (t % 16) != some s.gtc

/-- A partition uses its turn on the port of a tier unit. -/
def State.usePort (s : State) (part t : Nat) : State := s.onPart part fun p => { p with cxlLast := Tab.set p.cxlLast (t % 16) s.gtc }

/-- A unit of the tier read back (R49): its payload, or the detail of the fault. (log 6) -/
def State.readTier (s : State) (sl part j off : Nat) : Except Nat (List Byte) :=
  let t := s.tierUnit part off
  if s.tierLost t then .error 0x1A
  else
    let payload := bytesGet s.tier (4096 * t) 4096
    match s.openPacket sl j (Tab.get s.tierHdr t []) with
    | none => .error 0x13
    | some (k, salt, i, tag) => if tag == Config.gcmTag k.key salt i payload then .ok payload else .error 0x13

/-- A unit of the tier written (R33, R112); none while the stream is stopped. -/
def State.writeTier (s : State) (sl part eng j off : Nat) (payload : List Byte) (poison : Bool) : Option State :=
  (s.sealPacket sl part eng j payload poison).map fun (s, hdr, _, _) =>
    let t := s.tierUnit part off
    ({ s with tier := bytesSet s.tier (4096 * t) payload, tierHdr := Tab.set s.tierHdr t hdr } : State).usePort part t

/-- A packet sent to an endpoint's window of a peer at an offset (R109, R112); none while the stream is stopped. (log 53) -/
def State.sendPacket (s : State) (sl part eng : Nat) (e : Endpoint) (off : Nat) (payload : List Byte) (poison : Bool) : Option State :=
  let salt := (s.stream sl e.strm).salt
  (s.sealPacket sl part eng e.strm payload poison).map fun (s, hdr, k, i) =>
    { s with pod := { s.pod with packets := s.pod.packets ++
      [{ part := part, stream := e.strm, pkg := e.pkg, win := e.win, addr := e.addr + off, bytes := some (hdr ++ Config.gcmSeal k.key salt i payload) }] } }

/-! ## Transfer (R111, R112) -/

/-- Changes one operation of an engine. -/
def State.onBarrow (s : State) (sl e tag : Nat) (f : BarrowOp → BarrowOp) : State :=
  s.onSlice sl fun k => { k with barrows := Tab.modify k.barrows e {} fun b => { b with ops := mapIf (fun o : BarrowOp => o.tag == tag) f b.ops } }

/-- The operation has moved to an offset. -/
def State.barrowTo (s : State) (sl e : Nat) (o : BarrowOp) (n : Nat) : State := s.onBarrow sl e o.tag fun x => { x with next := n, complete := decide (o.len ≤ n) }

/-- The operation stops at an offset with its record (R77), or waits there; one that writes packets goes on from the packet's first byte. -/
def State.barrowStop (s : State) (sl e : Nat) (o : BarrowOp) (off : Nat) (x : EngStop) : State :=
  let next := if o.dst.far then o.next else off
  match x with
  | .wait => s.onBarrow sl e o.tag fun x => { x with next := next }
  | .fault t => (s.engFault (s.barrowCtx sl e o) (o.named sl e) t off).onBarrow sl e o.tag fun x => { x with next := next, fault := some off }

/-- The bytes of a fill from an offset (R111). -/
def BarrowOp.pattern (o : BarrowOp) (off n : Nat) : List Byte := (List.range n).map fun i => ((o.block.drop (0x38 + (off + i) % 8)).head?).getD 0

/-- The packet of a peer source that the operation needs now, as a request (R109, R112). -/
def BarrowOp.ask (o : BarrowOp) (part : Nat) : PeerPacket :=
  { part := part, stream := o.src.strm, pkg := o.src.pkg, win := o.src.win, addr := o.src.addr + o.next / 4096 * 4096, bytes := none }

/-- The peer's answer to the operation's request. -/
def State.answerOf (s : State) (q : PeerPacket) : Option PeerPacket := s.pod.responses.find? fun r => r.bytes.isSome && decide ({ r with bytes := none } = q)

/-- Source bytes of n bytes from the operation's offset, each with its poison; a peer's come from the answer to its request (R112), which is consumed. -/
def State.barrowRead (s : State) (sl e : Nat) (o : BarrowOp) (n : Nat) : State × RunRead :=
  let c := s.barrowCtx sl e o
  let part := c.part
  let clean (bs : List Byte) : RunRead := { bs := bs, bad := List.replicate bs.length false }
  let lost (d : Nat) : RunRead := { stop := some (.fault { cause := 0x17, dcode := d, addr := o.src.addr + o.next }) }
  if o.fill then (s, clean (o.pattern o.next n))
  else if o.src.kind = 2 then
    match s.readTier sl part o.src.strm (o.src.addr + o.next) with
    | .error d => (s.usePort part (s.tierUnit part (o.src.addr + o.next)), lost d)
    | .ok bs => (s.usePort part (s.tierUnit part (o.src.addr + o.next)), clean ((bs.drop (o.next % 4096)).take n))
  else if o.src.kind = 3 then
    match s.answerOf (o.ask part) with
    | none => (s, { stop := some .wait })
    | some r =>
      let s := { s with pod := { s.pod with responses := s.pod.responses.erase r } }
      let bytes := r.bytes.getD []
      match s.openPacket sl o.src.strm (bytes.take 32) with
      | none => (s, lost 0x13)
      | some (k, salt, i, tag) =>
        let payload := Config.gcmOpen k.key salt i (bytes.drop 32)
        if tag == Config.gcmTag k.key salt i payload then (s, clean ((payload.drop (o.next % 4096)).take n)) else (s, lost 0x13)
  else s.readRun n c o.src o.next n [] []

/-- The step of an operation whose rest is poisoned (R78). -/
def State.barrowPoison (s : State) (sl e : Nat) (o : BarrowOp) : State :=
  let c := s.barrowCtx sl e o
  let n := min (o.len - o.next) (if o.dst.far then 4096 - o.next % 4096 else 64)
  let off := o.next / 4096 * 4096
  if o.dst.kind = 2 then
    if s.tierLost (s.tierUnit c.part (o.dst.addr + off)) then s.barrowTo sl e o (o.next + n)
    else match s.writeTier sl c.part (barrowUnit sl e) o.dst.strm (o.dst.addr + off) (List.replicate 4096 0) true with
      | none => s
      | some s => s.barrowTo sl e o (o.next + n)
  else if o.dst.kind = 3 then
    match s.sendPacket sl c.part (barrowUnit sl e) o.dst off (List.replicate 4096 0) true with
    | none => s
    | some s => s.barrowTo sl e o (o.next + n)
  else
    match s.poisonRun n c o.dst o.next n with
    | (s, true) => s.barrowTo sl e o (o.next + n)
    | (s, false) => s

/-- An operation whose source fails stops. One whose source packet cannot be opened poisons its destination granules (R49) and waits, unchanged, while one of them cannot be written; elsewhere the bytes read before the fault are written first (R77, R111). -/
def State.barrowLost (s : State) (sl e : Nat) (o : BarrowOp) (n : Nat) (r : RunRead) (t : Trap) (start : State) : State :=
  let off := o.next + r.bs.length
  if o.dst.far then s.barrowStop sl e o off (.fault t)
  else if t.cause = 0x17 ∧ t.dcode = 0x13 then
    match s.poisonRun n (s.barrowCtx sl e o) o.dst o.next n with
    | (s, true) => s.barrowStop sl e o off (.fault t)
    | (_, false) => start
  else match s.writeRun n (s.barrowCtx sl e o) o.dst o.next r.bs r.bad with
    | (s, some (at_, x)) => s.barrowStop sl e o at_ x
    | (s, none) => s.barrowStop sl e o off (.fault t)

/-- The tier unit at which an operation stands, when one of its endpoints is in the tier. -/
def State.barrowTier (s : State) (o : BarrowOp) (part : Nat) : Option Nat :=
  if o.dst.kind = 2 then some (s.tierUnit part (o.dst.addr + o.next))
  else if !o.fill && o.src.kind == 2 && !o.poisonRest then some (s.tierUnit part (o.src.addr + o.next))
  else none

/-- One step of an operation: 64 bytes between memory endpoints, one packet of a far one. A peer's packet is first asked for. -/
def State.barrowStep (s : State) (sl e : Nat) (o : BarrowOp) : State :=
  let c := s.barrowCtx sl e o
  let far := o.dst.far || (!o.fill && o.src.far)
  let n := min (o.len - o.next) (if far then 4096 - o.next % 4096 else 64)
  if (s.barrowTier o c.part).any fun t => !s.tierLost t && !s.portTurn c.part t then s
  else if o.poisonRest then s.barrowPoison sl e o
  else if o.dst.kind = 2 && s.tierLost (s.tierUnit c.part (o.dst.addr + o.next)) then
    s.barrowStop sl e o o.next (.fault { cause := 0x17, dcode := 0x1A, addr := o.dst.addr + o.next })
  else if o.dst.far && ((s.stream sl o.dst.strm).sealPacket).isNone then s
  else if !o.fill && o.src.kind == 3 && !o.asked then
    ({ s with pod := { s.pod with packets := s.pod.packets ++ [o.ask c.part] } } : State).onBarrow sl e o.tag fun o => { o with asked := true }
  else
    match s.barrowRead sl e o n with
    | (s', { stop := some (.fault t), bs := bs, bad := bad }) => s'.barrowLost sl e o n { bs := bs, bad := bad } t s
    | (s, { stop := some .wait, .. }) => s
    | (s, { stop := none, bs := bs, bad := bad }) =>
      let bs' := bs ++ List.replicate (4096 - bs.length) 0
      let s := s.onBarrow sl e o.tag fun o => { o with asked := false }
      if o.dst.kind = 2 then
        match s.writeTier sl c.part (barrowUnit sl e) o.dst.strm (o.dst.addr + o.next) bs' (bad.any id) with
        | none => s
        | some s => s.barrowTo sl e o (o.next + n)
      else if o.dst.kind = 3 then
        match s.sendPacket sl c.part (barrowUnit sl e) o.dst o.next bs' (bad.any id) with
        | none => s
        | some s => s.barrowTo sl e o (o.next + n)
      else
        match s.writeRun n c o.dst o.next bs bad with
        | (s, some (off, x)) => s.barrowStop sl e o off x
        | (s, none) => s.barrowTo sl e o (o.next + n)

/-- An engine. -/
def State.barrow (s : State) (sl e : Nat) : Barrow := Tab.get (s.slice sl).barrows e {}

/-- The operations of an engine that has failed end: each gives one record, and its counter falls (R460, log 32). -/
def State.endBarrowOps (s : State) (sl e : Nat) : State :=
  let s := (s.barrow sl e).ops.foldl (fun s o => (s.engFault (s.barrowCtx sl e o) (o.named sl e) { cause := 0x17 } o.next).retire o.unit o.stripe 3 none o.orphan) s
  s.onSlice sl fun k => { k with barrows := Tab.modify k.barrows e {} fun b => { b with ops := [] } }

/-- Two operations are of one stripe. -/
def BarrowOp.same (a b : BarrowOp) : Bool := a.unit == b.unit && a.stripe == b.stripe

/-- The operation that an engine moves: the first that is not complete, past paused ones and those of their stripes (R77, R107). -/
def Barrow.head (b : Barrow) : Option BarrowOp :=
  let paused := b.ops.filter fun o => !o.complete && o.fault.isSome
  b.ops.find? fun o => !o.complete && !paused.any o.same

/-- The operation that an engine of a slice moves: a slice of no partition executes nothing (R21). -/
def State.barrowHead (s : State) (sl e : Nat) : Option BarrowOp := if (s.slice sl).part.isNone then none else (s.barrow sl e).head

/-- BARROW_START (R107, R108): the engine's head operation starts, at NBT or later when it names one. -/
def execBarrowStart (sl e : Nat) (s : State) : Host.Outcome State Fault Refusal :=
  .next (match s.barrowHead sl e with
    | none => s
    | some o => if o.ctl.testBit 13 && decide (s.gtc < field o.block 0x28 8) then s else s.onBarrow sl e o.tag fun x => { x with started := true })

/-- BARROW_TRANSFER (R107, R111). (log 55) -/
def execBarrowTransfer (sl e : Nat) (s : State) : Host.Outcome State Fault Refusal :=
  .next (match s.barrowHead sl e with
    | none => s
    | some o =>
      if (s.barrow sl e).failed then s.endBarrowOps sl e else
      let s' := if o.started then s.barrowStep sl e o else s
      let moved (s : State) : Nat := ((s.barrow sl e).ops.map BarrowOp.next).sum
      s'.meter (((s.slice sl).part).getD 0) 0 (moved s' - moved s))

/-- Every operation of the slice's engines. -/
def State.barrowOps (s : State) (sl : Nat) : List BarrowOp := (s.slice sl).barrows.flatMap fun (_, b) => b.ops

/-- An operation may retire (R113): complete, reported by its peer, and the oldest of its stripe. -/
def State.barrowDone (s : State) (sl : Nat) (o : BarrowOp) : Bool :=
  (s.slice sl).part.isSome && o.complete && (o.dst.kind != 3 || o.reported) && !(s.barrowOps sl).any fun x => x.same o && decide (x.issue < o.issue)

/-- BARROW_RETIRE (R113). -/
def execBarrowRetire (sl e : Nat) (s : State) : Host.Outcome State Fault Refusal :=
  .next (match (s.barrow sl e).ops.find? (s.barrowDone sl) with
    | none => s
    | some o =>
      (s.onSlice sl fun k => { k with barrows := Tab.modify k.barrows e {} fun b => { b with ops := b.ops.filter fun x => x.tag != o.tag } }).retire o.unit o.stripe 3 o.ring o.orphan)

/-- POD_RETIRE_REPORT (R113): the peer reports that an operation's writes are performed. -/
def execPodRetireReport (sl e tag : Nat) (s : State) : Host.Outcome State Fault Refusal :=
  .next (s.onBarrow sl e tag fun o => if o.complete && o.dst.kind == 3 then { o with reported := true } else o)

/-! ## The commands (R262) -/

/-- Accepts checked operations one by one (R258). -/
def State.barrowAccept (s : State) (e dst : Nat) (b : Bool) (ops : List BarrowOp) : State :=
  let u := s.cur.unit
  let sl := sliceOf u
  match ops with
  | [] => s.finishPlain b
  | o :: rest =>
    let hold (w : Wait) : State := (s.onCore u fun c => { c with barrowWait := c.barrowWait ++ o :: rest }).blockPart w
    if s.curStripe.counterFull 3 then hold (.counter 3)
    else if 256 ≤ (s.barrow sl e).ops.length then hold (.queue (3 + e))
    else
      let tag := nextTag ((s.barrow sl e).ops.map BarrowOp.tag) (s.barrow sl e).tag
      let s := s.onSlice sl fun k =>
        { k with issued := k.issued + 1, barrows := Tab.modify k.barrows e {} fun x => { x with ops := x.ops ++ [{ o with tag := tag, issue := k.issued }], tag := (tag + 1) % 256 } }
      let s := s.onCur fun t => (t.count 3 (· + 1)).onLane o.lane fun th => th.setReg dst (BitVec.ofNat 32 tag)
      State.barrowAccept s e dst b rest

/-- The first failure of R110 and R262 over the checked blocks. (log 34) -/
def State.barrowCheck (s : State) (ops : List BarrowOp) (ptr : Nat → Nat) : Option Trap :=
  let host := s.curKind == .host
  let of (p : BarrowOp → Bool) (cause dcode : Nat) : Option Trap := (ops.find? p).map fun o => { cause := cause, dcode := dcode, lane := o.lane, addr := ptr o.lane }
  (of (fun o => !s.curPriv.atK && o.ends.any fun e => e.kind == 1) 0x03 0).or
    ((of (fun o => o.badBlock host) 0x17 0x0E).or (of (fun o => o.ends.any (s.badRange (sliceOf s.cur.unit) s.curPart o)) 0x17 0x0F))

/-- BCOPY and BFILL (R258, R262). (log 38) -/
def State.barrowWord (s : State) (fill : Bool) (f : FmtE) : State :=
  s.command f.hdr 1 true fun s lanes =>
    let e := f.imm8.toNat % 2
    let mine (o : BarrowOp) : Bool := o.stripe == s.cur.stripe && o.pc == s.cur.pc.toNat && s.cur.lanes.getLsbD o.lane
    let held := (s.core s.cur.unit).barrowWait.filter mine
    if !held.isEmpty then (s.onCore s.cur.unit fun c => { c with barrowWait := c.barrowWait.filter fun o => !mine o }).barrowAccept e f.dst.toNat f.hdr.b held
    else
      match s.checkSem lanes fun _ => { srcs := [(f.sa.toNat, f.fa), (f.sa.toNat + 1, f.fa)], dsts := [f.dst.toNat], apply := fun _ t => t } with
      | .error e => s.stopWord noRunAhead e
      | .ok _ =>
        let ptr (l : Nat) : Nat := ((s.curThread l).pair f.sa.toNat).toNat
        match lanes.find? fun l => ptrSpace (ptr l) != 0 with
        | some l => s.stopWord noRunAhead (.trap { cause := 0x0C, dcode := 1, lane := l, addr := ptr l })
        | none =>
          match s.readBlocks 4 [f.dst.toNat] (lanes.map fun l => (l, ptr l)) with
          | .error s => s
          | .ok (s, bs) =>
            let ops := bs.map fun (l, b) =>
              let o : BarrowOp :=
                { tag := 0, fill := fill, unit := s.cur.unit, stripe := s.cur.stripe, lane := l, pc := s.cur.pc.toNat, priv := s.curPriv, world := s.worldOf s.cur.unit s.cur.stripe l,
                  ctx := (s.ctxOf s.cur.unit s.cur.stripe l).toNat, ptb := s.ptbOf s.cur.unit s.cur.stripe l, block := b }
              if o.ctl.testBit 12 then { o with ring := some (bits o.ctl 7 4, bits o.ctl 11 8) } else o
            match s.barrowCheck ops ptr with
            | some t => s.stopWord noRunAhead (.trap t)
            | none => s.barrowAccept e f.dst.toNat f.hdr.b ops

/-- A command that firmware gives an engine for the slice's partition (R107): no stripe counts it, it acts at the highest privilege under the partition's key slots, and it translates with the root core's sr.ptb; a block that R110 refuses is not taken (log 70). -/
def State.firmwareBarrow (s : State) (sl e : Nat) (fill : Bool) (block : List Byte) : State :=
  let o : BarrowOp := { tag := nextTag ((s.barrow sl e).ops.map BarrowOp.tag) (s.barrow sl e).tag, fill := fill, unit := 0x1610, stripe := 0, lane := 0, pc := 0, priv := .f, world := 0, ctx := 0, ptb := s.ptbOf 0x1610 0 0,
                        block := block, orphan := true, issue := (s.slice sl).issued }
  if (s.slice sl).part.isNone || decide (256 ≤ (s.barrow sl e).ops.length) || o.badBlock true || o.ends.any (s.badRange sl (s.barrowPart sl) o) then s
  else s.onSlice sl fun k => { k with issued := k.issued + 1, barrows := Tab.modify k.barrows e {} fun x => { x with ops := x.ops ++ [o], tag := (o.tag + 1) % 256 } }

/-- BCOPY (R262). -/
def execBcopy (f : FmtE) (s : State) : Host.Outcome State Fault Refusal := .next (s.barrowWord false f)
/-- BFILL (R262). -/
def execBfill (f : FmtE) (s : State) : Host.Outcome State Fault Refusal := .next (s.barrowWord true f)

end Sys2Proof.Machine
end

