-- ==== Sys2Proof/Machine/Channels.lean ====
section
/-!
DEFINITION. Dataflow channels: CHSEND, CHRECV, CHPOLL, and the arrival of messages and credits (R126 to R129, R263 to R266).
-/
namespace Sys2Proof.Machine

/-- Bytes of a slot (R126). -/
def Channel.slotBytes (c : Channel) : Nat := 16 * (c.ssz + 1)
/-- Scratchpad offset of a slot (R127). -/
def Channel.slotOff (c : Channel) (i : Nat) : Nat := c.bank * bankBytes + 16 * (c.off + i * (c.ssz + 1))
/-- Every granule of a slot is full. -/
def Core.slotFull (k : Core) (c : Channel) (i : Nat) : Bool := (granRange (c.slotOff i) c.slotBytes).all k.full
/-- The sender has gone (R129, R265, R266): an empty head slot then closes the channel, also while a message is still under way to it. (log 36) -/
def Channel.closed (c : Channel) : Bool := c.senderGone

/-- Changes a channel of a unit. -/
def State.onChan (s : State) (u k : Nat) (f : Channel → Channel) : State :=
  s.onCore u fun c => { c with chans := c.chans.map fun (j, x) => (j, if j == k then f x else x) }

/-- A SIMT-core word that is no engine command (R259, R263, R267): a booth sends it home. -/
def State.simtWord (s : State) (h : Hdr) (async : Bool) (go : State → List Nat → State) : State :=
  match s.curKind with
  | .booth => s.goHome
  | .simt =>
    let run (s : State) (act : List Nat) : State := if act.isEmpty then s.finishPlain h.b else go s act
    if async then s.afterAsync h run else run s (s.active h)
  | _ => s.illegal

/-- The lane has done its part of a word that waits part-way. -/
def State.setDone (s : State) (l : Nat) : State := s.onThread s.cur.unit s.cur.stripe l fun t => { t with done := true }

/-- The checks of a channel word over its lanes (R263): the declaration, the message size, and the pointer of the scratchpad form. -/
def State.chanCheck (s : State) (f : FmtE) (lanes : List Nat) : Except Stop Channel :=
  let low := (lanes.head?).getD 0
  match Tab.find (s.core s.cur.unit).chans (f.imm8.toNat % 16) with
  | none => .error (.trap { cause := 0x16, dcode := 0x1D, lane := low })
  | some ch =>
    if !f.x.getLsbD 8 then
      if ch.slotBytes < 4 * (f.x.toNat % 16 + 1) then .error (.trap { cause := 0x16, dcode := 0x1E, lane := low }) else .ok ch
    else
      let ptr (l : Nat) : Nat := ((s.curThread l).pair f.sa.toNat).toNat
      let bad (l : Nat) : Option Nat :=
        if ptrSpace (ptr l) != 1 then some 1
        else if s.coreOfRank s.curPart (ptrRank (ptr l)) != some s.cur.unit then some 2
        else (s.core s.cur.unit).spadRun (ptrOff (ptr l)) ch.slotBytes
      match lanes.findSome? fun l => (bad l).map fun d => (l, d) with
      | some (l, d) => .error (.trap { cause := 0x0C, dcode := d, lane := l, addr := ptr l })
      | none =>
        match lanes.find? fun l => ptr l % 16 != 0 with
        | some l => .error (.trap { cause := 0x0D, lane := l, addr := ptr l })
        | none =>
          match lanes.findSome? fun l => (granRange (ptrOff (ptr l)) ch.slotBytes).find? fun g => (s.core s.cur.unit).clearing.contains (g / 4096) with
          | some g => .error (.block (.bank s.cur.unit (g / 4096)))
          | none =>
            match lanes.find? fun l => s.portBusy s.cur.unit (ptrOff (ptr l)) ch.slotBytes with
            | some l => .error (.block (.port s.cur.unit (ptrOff (ptr l)) ch.slotBytes))
            | none => .ok ch

/-- Registers of the register form (R263). -/
def chanRegs (r : BitVec 7) (f : FmtE) : List Nat := if f.x.getLsbD 8 then [] else (List.range (f.x.toNat % 16 + 1)).map (r.toNat + ·)

/-- The message of a lane (R264), zero-padded to the slot (R128). -/
def State.chanBytes (s : State) (f : FmtE) (ch : Channel) (l : Nat) : List Byte :=
  let t := s.curThread l
  let bs := if f.x.getLsbD 8 then bytesGet (s.core s.cur.unit).sram (ptrOff (t.pair f.sa.toNat).toNat) ch.slotBytes
    else (chanRegs f.sa f).flatMap fun r => leBytes 4 (t.reg r).toNat
  bs ++ List.replicate (ch.slotBytes - bs.length) 0

/-- Sends of the lanes in order (R264); the first without a credit, or without room in the X counter, blocks the word. -/
def State.sendLanes (s : State) (f : FmtE) (lanes : List Nat) : State :=
  let u := s.cur.unit
  let k := f.imm8.toNat % 16
  match lanes with
  | [] => s.finishPlain f.hdr.b
  | l :: rest =>
    match Tab.find (s.core u).chans k with
    | none => s.finishPlain f.hdr.b
    | some ch =>
      if ch.peerGone then State.sendLanes (s.setDone l) f rest
      else if ch.credits = 0 then s.blockWord (.credit k)
      else if s.curStripe.counterFull 4 then s.blockWord (.counter 4)
      else
        let m : Message := { stripe := s.cur.stripe, slot := ch.si, bytes := s.chanBytes f ch l }
        let s := s.onChan u k fun c => { c with credits := c.credits - 1, si := (c.si + 1) % (c.nsl + 1) }
        let s := s.onChan ch.toUnit k fun c => { c with flight := c.flight ++ [m] }
        State.sendLanes ((s.onCur fun t => t.count 4 (· + 1)).setDone l) f rest

/-- CHSEND (R264). -/
def State.chsend (s : State) (f : FmtE) : State :=
  s.simtWord f.hdr true fun s act =>
    let lanes := act.filter fun l => !(s.curThread l).done
    let srcs := if f.x.getLsbD 8 then [f.sa.toNat, f.sa.toNat + 1] else chanRegs f.sa f
    match s.checkRegs lanes srcs f.fa [] with
    | .error e => s.stopWord noRunAhead e
    | .ok _ =>
      match s.chanCheck f lanes with
      | .error e => s.stopWord noRunAhead e
      | .ok ch =>
        match (if f.x.getLsbD 8 then lanes.find? fun l => ((s.core s.cur.unit).readSram (ptrOff ((s.curThread l).pair f.sa.toNat).toNat) ch.slotBytes).2 else none) with
        | some l => s.stopWord noRunAhead (.trap { cause := 0x13, lane := l, addr := ((s.curThread l).pair f.sa.toNat).toNat })
        | none => s.sendLanes f lanes

/-- Receives of the lanes in order (R265); a slot that is not full blocks the word, a closed channel traps at its lane. (log 36) -/
def State.recvLanes (s : State) (f : FmtE) (lanes : List Nat) : State :=
  let u := s.cur.unit
  let k := f.imm8.toNat % 16
  match lanes with
  | [] => s.finishPlain f.hdr.b
  | l :: rest =>
    match Tab.find (s.core u).chans k with
    | none => s.finishPlain f.hdr.b
    | some ch =>
      let c := s.core u
      let off := ch.slotOff ch.hi
      if c.clearing.contains ch.bank then s.blockWord (.bank u ch.bank)
      else if !c.slotFull ch ch.hi then
        (if ch.closed then s.stopWord noRunAhead (.trap { cause := 0x16, dcode := 0x1F, lane := l }) else s.blockWord (.slot k))
      else
        let (bs, bad) := c.readSram off ch.slotBytes
        if bad then s.stopWord noRunAhead (.trap { cause := 0x13, lane := l, addr := off })
        else
          let s := s.onCore u fun c => (granRange off ch.slotBytes).foldl (fun c g => c.setFull g false) c
          let s := s.onChan u k fun c => { c with hi := (c.hi + 1) % (c.nsl + 1) }
          let s := if ch.senderGone then s else s.onChan ch.fromUnit k fun c => { c with returns := c.returns + 1 }
          let s := if f.x.getLsbD 8 then
              let dest := ptrOff ((s.curThread l).pair f.sa.toNat).toNat
              s.onCore u fun c => (granRange dest ch.slotBytes).foldl (fun c g => c.setFull g true) (c.writeSram dest bs)
            else s.onThread u s.cur.stripe l fun t => t.setRegs f.dst.toNat ((List.range (f.x.toNat % 16 + 1)).map fun i => BitVec.ofNat 32 (field bs (4 * i) 4))
          State.recvLanes (s.setDone l) f rest

/-- CHRECV (R265). -/
def State.chrecv (s : State) (f : FmtE) : State :=
  s.simtWord f.hdr true fun s act =>
    let lanes := act.filter fun l => !(s.curThread l).done
    match s.checkRegs lanes (if f.x.getLsbD 8 then [f.sa.toNat, f.sa.toNat + 1] else []) f.fa (chanRegs f.dst f) with
    | .error e => s.stopWord noRunAhead e
    | .ok _ =>
      match s.chanCheck f lanes with
      | .error e => s.stopWord noRunAhead e
      | .ok _ => s.recvLanes f lanes

/-- CHSEND (R264). -/
def execChsend (f : FmtE) (s : State) : Host.Outcome State Fault Refusal := .next (s.chsend f)
/-- CHSEND.s (R264). -/
def execChsendS (f : FmtE) (s : State) : Host.Outcome State Fault Refusal := .next (s.chsend f)
/-- CHRECV (R265). -/
def execChrecv (f : FmtE) (s : State) : Host.Outcome State Fault Refusal := .next (s.chrecv f)
/-- CHRECV.s (R265). -/
def execChrecvS (f : FmtE) (s : State) : Host.Outcome State Fault Refusal := .next (s.chrecv f)

/-- The status word of a channel (R266). (log 36) -/
def Core.chanStatus (c : Core) (ch : Channel) : Word :=
  let count := (List.range (ch.nsl + 1)).countP fun i => c.slotFull ch i
  let full := c.slotFull ch ch.hi
  BitVec.ofNat 32 (count * 4 + (if ch.closed && !full then 2 else 0) + (if full then 1 else 0))

/-- CHPOLL (R266). -/
def execChpoll (f : FmtE) (s : State) : Host.Outcome State Fault Refusal :=
  .next (s.simtWord f.hdr false fun s lanes =>
    match s.checkRegs lanes [] false [f.dst.toNat] with
    | .error e => s.stopWord noRunAhead e
    | .ok _ =>
      match Tab.find (s.core s.cur.unit).chans (f.imm8.toNat % 16) with
      | none => s.stopWord noRunAhead (.trap { cause := 0x16, dcode := 0x1D, lane := (lanes.head?).getD 0 })
      | some ch => s.finish f.hdr.b fun l t => if lanes.contains l then t.setReg f.dst.toNat ((s.core s.cur.unit).chanStatus ch) else t)

/-- CHANNEL_SLOT_FULL (R128): the oldest message reaches its slot of the receiving unit; every granule is full and the sender's X counter falls. A message waits while its bank is cleared, and one that arrives at a slice in drain is discarded (R93). -/
def execChannelSlotFull (u k : Nat) (s : State) : Host.Outcome State Fault Refusal :=
  .next (match Tab.find (s.core u).chans k with
    | none => s
    | some ch =>
      match ch.flight with
      | [] => s
      | m :: rest =>
        if s.inDrain u then s.onChan u k fun c => { c with flight := rest }
        else if (s.core u).clearing.contains ch.bank then s
        else
          let off := ch.slotOff m.slot
          let s := s.onCore u fun c => (granRange off ch.slotBytes).foldl (fun c g => c.setFull g true) (c.writeSram off m.bytes)
          let s := s.onChan u k fun c => { c with flight := rest }
          if ch.senderGone then s else s.onStripe ch.fromUnit m.stripe fun t => t.count 4 (· - 1))

/-- CHANNEL_CREDIT_RETURN (R128): a credit reaches the send end of a unit; one that arrives at a slice in drain is discarded (R93). -/
def execChannelCreditReturn (u k : Nat) (s : State) : Host.Outcome State Fault Refusal :=
  .next (s.onChan u k fun c => if c.returns = 0 then c else { c with returns := c.returns - 1, credits := if s.inDrain u then c.credits else c.credits + 1 })

end Sys2Proof.Machine
end

