-- ==== Sys2Proof/Machine/Rendezvous.lean ====
section
/-!
DEFINITION. Gangs and the arrival of threads at a rendezvous (R145 to R149, R335, R336).
-/
namespace Sys2Proof.Machine

/-- A thread that has neither exited nor never run. -/
def Thread.alive (t : Thread) : Bool := t.status != .exited && t.status != .absent

/-- Members of a gang by ascending TID (R145). -/
def Core.members (c : Core) (g : Nat) : List (Nat × Nat) :=
  (List.range 16).flatMap fun i => (List.range 32).filterMap fun l =>
    let t := (c.stripe i).lane l
    if t.alive && t.gangs.getLsbD g then some (i, l) else none

/-- What a gang word brings to a rendezvous. -/
structure GangReq where
  /-- Operation and qualifiers, which every arrival shares (R148). -/
  key   : Nat
  gang  : Nat
  /-- Register of the mask, if the word names one, and its policy. -/
  mreg  : Option (Nat × Bool)
  srcs  : List (Nat × Bool)
  dsts  : List Nat := []
  /-- Operands, read at the arrival (R149). -/
  a     : Thread → Nat
  b     : Thread → Nat := fun _ => 0
  dst   : Nat := 128
  pd    : Nat := 7
  /-- The thread is held until completion (R149). -/
  holds : Bool
  /-- A check of a lane beside the registers'. -/
  check : Nat → Option Trap := fun _ => none

/-- The mask that a thread names (R147). -/
def GangReq.maskOf (q : GangReq) (t : Thread) : LaneMask :=
  match q.mreg with
  | some (r, _) => t.reg r
  | none => 0xFFFFFFFF

/-- A lane of a stripe has arrived. -/
def Rendezvous.has (r : Rendezvous) (i l : Nat) : Bool := r.arrivals.any fun a => a.stripe == i && a.lane == l

/-- A lane of a stripe takes part and has not arrived. -/
def Rendezvous.awaits (r : Rendezvous) (i l : Nat) : Bool := r.parts.contains (i, l) && !r.has i l

/-- An ejected participant is called home (R146, R388): its booth thread is marked. -/
def State.recall (s : State) (u i l : Nat) : State :=
  match (s.thread u i l).status with
  | .ejected b k => s.onCore b fun c => { c with guests := c.guests.map fun (j, g) => (j, if j == k then { g with marked := true } else g) }
  | _ => s

/-- Members whose lane executes the word with a false guard drop out of the open rendezvous (R335). (log 39) -/
def State.dropInactive (s : State) (h : Hdr) (g : Nat) : State :=
  let out := s.curLanes.filter fun l => !guardVal h (s.curThread l).preds
  s.onCore s.cur.unit fun c => { c with gangs := c.gangs.map fun (j, r) => (j, if j == g then out.foldl (fun r l => r.drop s.cur.stripe l) r else r) }

/-- The register, mask and membership checks of a gang word, then the comparison of R148. The second list holds the lanes that differ. -/
def State.gangChecks (s : State) (q : GangReq) (act : List Nat) : Except (Stop × List Nat) Unit :=
  match s.checkSem act fun _ => { srcs := q.srcs ++ q.mreg.toList, dsts := q.dsts, apply := fun _ t => t } with
  | .error e => .error (e, [])
  | .ok _ =>
    match act.findSome? q.check with
    | some t => .error (.trap t, [])
    | none =>
    match act.find? fun l => !(q.maskOf (s.curThread l)).getLsbD l with
    | some l => .error (.trap { cause := 0x08, lane := l }, [])
    | none =>
      match act.find? fun l => !(s.curThread l).gangs.getLsbD q.gang with
      | some l => .error (.trap { cause := 0x15, dcode := 0x21, lane := l }, [])
      | none =>
        let open_ := Tab.find (s.core s.cur.unit).gangs q.gang
        let differ := act.filter fun l => match open_ with
          | some r => r.awaits s.cur.stripe l && (r.word != q.key || r.mask != q.maskOf (s.curThread l))
          | none => q.maskOf (s.curThread l) != q.maskOf (s.curThread ((act.head?).getD 0))
        match differ with
        | [] => .ok ()
        | l :: _ => .error (.trap { cause := 0x15, dcode := 0x22, lane := l }, differ)

/-- The active lanes arrive (R146, R149): a rendezvous opens with the first; a lane that is no participant of the open one, or has arrived at it, waits until it has completed. A word that holds a thread ends the turn (R140). -/
def State.gangArrive (s : State) (h : Hdr) (q : GangReq) (act : List Nat) : State :=
  let u := s.cur.unit
  let i := s.cur.stripe
  match s.gangChecks q act with
  | .error (e, out) =>
    let s := s.onCore u fun c => { c with gangs := c.gangs.map fun (j, r) => (j, if j == q.gang then out.foldl (fun r l => r.drop i l) r else r) }
    s.stopWord noRunAhead e
  | .ok _ =>
    let s := s.dropInactive h q.gang
    let c := s.core u
    let low := (act.head?).getD 0
    let mask := q.maskOf (s.curThread low)
    let r : Rendezvous := (Tab.find c.gangs q.gang).getD
      { word := q.key, mask := mask, arrivals := [],
        parts := (c.members q.gang).filter fun (j, l) => mask.getLsbD l && !(j == i && s.cur.lanes.getLsbD l && !(s.active h).contains l) }
    let come := act.filter fun l => r.awaits i l
    let late := act.filter fun l => !r.awaits i l
    let r := { r with arrivals := r.arrivals ++ come.map fun l =>
      { stripe := i, lane := l, a := q.a (s.curThread l), b := q.b (s.curThread l), dst := q.dst, pd := q.pd } }
    let s := s.onCore u fun c => { c with gangs := Tab.set c.gangs q.gang r }
    let s := r.parts.foldl (fun s (j, l) => s.recall u j l) s
    -- lanes that must wait keep their PC and leave the group; the others move on
    let stay := laneMask late.contains
    let cur := s.cur.lanes
    let s := if late.isEmpty then s
      else
        ({ s with cur := { s.cur with lanes := cur &&& ~~~stay } } : State).onStripe u i fun t =>
          late.foldl (fun t l => t.onLane l fun th => { th with status := .waiting (.gang q.gang) }) t
    let s := s.finish h.b fun l t =>
      if !come.contains l then t
      else if q.holds then { t with status := .waiting (.gang q.gang) }
      else q.dsts.foldl Thread.mark t
    if q.holds || !late.isEmpty then s.holdTurn else s

/-- A gang word on a SIMT core (R335). -/
def State.gangWord (s : State) (h : Hdr) (q : GangReq) : State :=
  match s.curKind with
  | .booth => s.goHome
  | .simt =>
    if (s.active h).isEmpty then (s.dropInactive h q.gang).finishPlain h.b else s.gangArrive h q (s.active h)
  | _ => s.illegal

/-- GJOIN (R145, R336). -/
def execGjoin (f : FmtE) (s : State) : Host.Outcome State Fault Refusal :=
  .next (match s.curKind with
    | .booth => s.goHome
    | .simt =>
      let g := f.imm8.toNat % 32
      let lanes := s.active f.hdr
      s.finish f.hdr.b fun l t => if lanes.contains l then { t with gangs := setBit t.gangs g true } else t
    | _ => s.illegal)

/-- GLEAVE (R145, R336). -/
def execGleave (f : FmtE) (s : State) : Host.Outcome State Fault Refusal :=
  .next (match s.curKind with
    | .booth => s.goHome
    | .simt =>
      let g := f.imm8.toNat % 32
      let lanes := s.active f.hdr
      match lanes.find? fun l => !(s.curThread l).gangs.getLsbD g with
      | some l => s.stopWord noRunAhead (.trap { cause := 0x15, dcode := 0x21, lane := l })
      | none =>
        let s := s.onCore s.cur.unit fun c => { c with gangs := c.gangs.map fun (j, r) => (j, if j == g then lanes.foldl (fun r l => r.drop s.cur.stripe l) r else r) }
        s.finish f.hdr.b fun l t => if lanes.contains l then { t with gangs := setBit t.gangs g false } else t
    | _ => s.illegal)

/-! ## The end of a rendezvous -/

/-- A rendezvous is complete (R146). -/
def Rendezvous.complete (r : Rendezvous) : Bool := r.parts.all fun (i, l) => r.has i l

/-- Participants by ascending TID with their arrivals (R335). -/
def Rendezvous.ranked (r : Rendezvous) : List Arrival :=
  ((List.range 512).filterMap fun t => if r.parts.contains (t / 32, t % 32) then r.arrivals.find? fun a => a.stripe == t / 32 && a.lane == t % 32 else none)

/-- TID of an arrival. -/
def Arrival.tid (a : Arrival) : Nat := 32 * a.stripe + a.lane

/-- A rendezvous closes: threads that waited for its end, and those it held, go on. -/
def State.closeGang (s : State) (u g : Nat) : State :=
  s.onCore u fun c =>
    { c with gangs := Tab.erase c.gangs g,
             stripes := c.stripes.map fun (i, t) => (i, { t with lanes := t.lanes.map fun (l, th) => (l, if th.status == .waiting (.gang g) then { th with status := .ready } else th) }) }

/-- A participant's results: register and predicate (R149); a register whose producer has gone is not written. (log 39) -/
def State.giveResult (s : State) (u : Nat) (a : Arrival) (v : Option Nat) (p : Option Bool) : State :=
  s.onThread u a.stripe a.lane fun t =>
    if !t.alive then t
    else
      let t := match v with
        | some x => if a.dst < 128 then t.setReg a.dst (BitVec.ofNat 32 x) else t
        | none => t
      match p with
      | some b => t.setPred a.pd b
      | none => t

/-- Held participants trap at the word they arrived by: each stripe's lanes enter their handler (R268, R335). (log 39) -/
def State.trapHeld (s : State) (u : Nat) (as : List Arrival) (cause dcode : Nat) : State :=
  (as.map Arrival.stripe).eraseDups.foldl (fun s i =>
    let ls := (as.filter fun a => a.stripe == i).map Arrival.lane
    let low := ls.foldl Nat.min 31
    let pc := (s.thread u i low).pc - 8
    let s := s.onStripe u i fun t => ls.foldl (fun t l => t.onLane l fun th => { th with pc := th.pc - 8, status := .ready }) t
    let s := ls.foldl (fun s l => s.abortLane u i l (txCause 5 cause)) s
    s.takeTrap u i (laneMask ls.contains) pc { cause := cause, dcode := dcode, lane := low }) s

/-- A handler that a participant is not in runs in its stripe, or the record of its trap cannot be written yet, so that a trap of the word waits (R421, R422); a participant of the handler takes the double trap (R423). (log 39) -/
def State.inHandler (s : State) (u : Nat) (as : List Arrival) : Bool := as.any fun a => s.handlerElsewhere u a.stripe a.lane || (s.recordWait u a.stripe a.lane).isSome

end Sys2Proof.Machine
end

