-- ==== Sys2Proof/Machine/MatrixUnit.lean ====
section
/-!
DEFINITION. The matrix engine and its drain: how accepted operations are performed, stop and retire (R172 to R177, R181 to R199, R311 to R314).
-/
namespace Sys2Proof.Machine

/-! ## Till elements and tiles -/

/-- Element (r, j) of a tile, as a till key (R130). -/
def tillKey (tile r j : Nat) : Nat := 1024 * tile + 32 * r + j
/-- The bits of an element. -/
def Core.tillAt (c : Core) (tile r j : Nat) : Word := Tab.get c.till (tillKey tile r j) 0
/-- An element written; zero is not listed. -/
def Core.putTill (c : Core) (tile r j : Nat) (w : Word) : Core :=
  { c with till := if w = 0 then Tab.erase c.till (tillKey tile r j) else Tab.set c.till (tillKey tile r j) w }

/-- An integer that a value with exponent zero or above holds. -/
def FVal.int (v : FVal) : Int := v.scaled 0

/-! ## Operations -/

/-- Argument k of an operation. -/
def MatOp.arg (o : MatOp) (k : Nat) : Nat := (o.args[k]?).getD 0
/-- A field of the operation's block. -/
def MatOp.at (o : MatOp) (off n : Nat) : Nat := field o.block off n

/-- Fields of a product's parameter block (R189). -/
def MatOp.mctl (o : MatOp) : Nat := o.at 0x24 4
/-- NT, the number of destination tiles. -/
def MatOp.nt (o : MatOp) : Nat := bits o.mctl 14 10 + 1
/-- The first destination tile. -/
def MatOp.tile0 (o : MatOp) : Nat := bits o.mctl 9 0
/-- KLEN. -/
def MatOp.klen (o : MatOp) : Nat := o.at 0x28 2
/-- A comes from till tiles. -/
def MatOp.asrc (o : MatOp) : Bool := o.mctl.testBit 16
/-- The first A tile. -/
def MatOp.atile (o : MatOp) : Nat := o.at 0x2C 2 % 1024
/-- A tiles of a product. -/
def MatOp.aTiles (o : MatOp) : List Nat := if o.asrc then (List.range (o.nt * ((o.klen + 31) / 32))).map (o.atile + ·) else []
/-- Descriptor of A; with A from tiles the down-converter's target takes its place (R172). -/
def MatOp.descA (o : MatOp) : Descr := if o.asrc then Descr.ofNat (o.at 0x20 4) else Descr.ofNat (o.fmt.toNat % 2 ^ 32)
/-- Descriptor of B. -/
def MatOp.descB (o : MatOp) : Descr := Descr.ofNat (o.fmt.toNat / 2 ^ 32)
/-- INT32 accumulation (R172). (log 80) -/
def accInt (a b : Descr) : Bool := a.cls == 0 && a.e == 0 && a.scf == 0 && b.cls == 0 && b.e == 0 && b.scf == 0
/-- A product accumulates in INT32 (R172): the descriptors of its format word say so, and an A from the till has CLS 3 there. (log 80) -/
def MatOp.int (o : MatOp) : Bool := accInt (Descr.ofNat (o.fmt.toNat % 2 ^ 32)) o.descB
/-- The k-step length (R173). -/
def MatOp.ks (o : MatOp) : Nat := if 1 ≤ o.descA.cls ∨ 1 ≤ o.descB.cls then 16 else 32

/-- Fields of a drain block (R194). -/
def MatOp.dctl (o : MatOp) : Nat := o.at 0x2C 4
/-- Tiles of a drain. -/
def MatOp.dnt (o : MatOp) : Nat := bits o.dctl 9 5 + 1
/-- DROWS. -/
def MatOp.drows (o : MatOp) : Nat := o.at 0x32 2
/-- DCOLS. -/
def MatOp.dcols (o : MatOp) : Nat := o.at 0x34 1
/-- TGT. -/
def MatOp.tgt (o : MatOp) : Nat := bits o.dctl 13 12
/-- AOP. -/
def MatOp.aop (o : MatOp) : Nat := bits o.dctl 18 16
/-- The tiles hold INT32. -/
def MatOp.srct (o : MatOp) : Bool := o.dctl.testBit 11
/-- Bits of a destination element. -/
def MatOp.dwidth (o : MatOp) : Nat := match o.tgt with
  | 0 => 32
  | 3 => (Descr.ofNat (o.at 0x28 4)).bitsPer
  | _ => 16
/-- The row bytes of a drain (R194). -/
def MatOp.rowBytes (o : MatOp) : Nat := 4 * o.dwidth

/-- Tiles that an operation reads or writes (R158). -/
def MatOp.tiles (o : MatOp) : List Nat :=
  match o.op with
  | 1 => (List.range o.nt).map (o.tile0 + ·) ++ o.aTiles
  | 2 | 3 | 4 => (List.range (o.arg 1)).map (o.arg 0 + ·)
  | 5 | 6 => [o.arg 0]
  | 7 => (List.range o.dnt).map (o.at 0x30 2 % 1024 + ·)
  | _ => []

/-- For whom an operation acts. -/
def State.matCtx (s : State) (u : Nat) (o : MatOp) : EngCtx :=
  { unit := u, part := (s.partOf u).getD 0, ptb := o.ptb, priv := o.priv, world := o.world, tlb := .core u,
    stripe := o.stripe, lane := o.lane, pc := o.pc, ctx := o.ctx }

/-- Whom its engine-fault records name (R25, R77). -/
def MatOp.named (o : MatOp) (u : Nat) : EngOp :=
  { eng := 0x800 + u, cls := if o.op = 7 then 2 else 1, tag := o.tag, stripe := o.stripe, lane := o.lane, pc := o.pc, ctx := o.ctx }

/-- The matrix engine of a unit changed. -/
def State.onMatrix (s : State) (u : Nat) (f : Matrix → Matrix) : State := s.onCore u fun c => { c with matrix := f c.matrix }

/-- The engine queue of a unit as its engine works on it: on a slice of no partition it executes nothing (R21). -/
def State.matQueue (s : State) (u : Nat) : List MatOp := if (s.partOf u).isNone then [] else (s.core u).matrix.queue

/-- The drain queue of a unit as its drain works on it (R21). -/
def State.drainQueue (s : State) (u : Nat) : List MatOp := if (s.partOf u).isNone then [] else (s.core u).matrix.drain

/-- The head operation of the engine queue changed. -/
def State.onHead (s : State) (u : Nat) (f : MatOp → MatOp) : State :=
  s.onMatrix u fun m => { m with queue := match m.queue with
    | [] => []
    | o :: r => f o :: r }

/-- The M counter of an operation falls (R104, R314). -/
def State.uncount (s : State) (u : Nat) (o : MatOp) : State := if o.op = 8 then s else s.retire u o.stripe 1 none o.orphan

/-- The head operation of the engine queue retires. -/
def State.matRetire (s : State) (u : Nat) (o : MatOp) : State := (s.onMatrix u fun m => { m with queue := m.queue.drop 1 }).uncount u o

/-- One more operation is discarded after a stop: DISC of the pending trap rises, to 63 at most (R176, R177). (log 35) -/
def Deferred.discard (d : Deferred) : Deferred :=
  { d with det := d.det.zipIdx.map fun (w, k) => if k = 0 ∧ w.toNat / 2 ^ 26 < 63 then w + 0x4000000 else w }

/-- A stop of the head operation (R176, R177, R184): it retires, what was accepted after it is discarded, and the trap waits for the issuing thread; its record goes to the fault queue when the thread has gone. (log 35) -/
def State.matStop (s : State) (u : Nat) (o : MatOp) (cause det0 addr : Nat) : State :=
  let q := ((s.core u).matrix.queue).drop 1
  let gone := q.filter fun x => x.op != 8
  let s := (s.onMatrix u fun m => { m with queue := q.filter fun x => x.op == 8 })
  let s := gone.foldl (fun s x => s.uncount u x) (s.uncount u o)
  let d : Deferred := { cause := cause, dcode := 0, src := s.src (0x800 + u), pc := o.pc, addr := addr, stamp := s.gtc,
                        det := [BitVec.ofNat 32 (det0 + min gone.length 63 * 2 ^ 26)] }
  if o.orphan || !(s.thread u o.stripe o.lane).alive then
    s.post ((s.partOf u).getD 0)
      { stamp := d.stamp, src := d.src, cause := cause, ppriv := o.priv.code, world := o.world.toNat, pc := d.pc, addr := addr, lane := o.lane, stripe := o.stripe, part := (s.partOf u).getD 0, ctx := o.ctx, det := d.det }
  else (s.onThread u o.stripe o.lane fun t => { t with deferred := some d }).onMatrix u fun m => { m with stop := some (o.stripe, o.lane) }

/-- Detail word 0 of a TAGFAIL or POISON stop (R184): source kind and granule offset. -/
def stopDet (kind off : Nat) : Nat := kind * 2 ^ 24 + off / 16 % 2 ^ 17

/-- A read of the issuing core's scratchpad by the engine (R183): waits for every granule, then stops at a poisoned one. -/
inductive SpadRead where
  | wait
  | poison (off : Nat)
  | ok (bs : List Byte)

/-- Reads a run of the scratchpad. -/
def Core.engRun (c : Core) (off n : Nat) : SpadRead :=
  let gs := granRange off n
  if n = 0 then .ok []
  else if gs.any fun g => c.clearing.contains (g / 4096) || !c.full g then .wait
  else match gs.find? c.poisoned with
    | some g => .poison (16 * g)
    | none => .ok (bytesGet c.sram off n)

/-- A read of a core's scratchpad by its engine: an earlier access at the ports goes first (R124). -/
def State.engRun (s : State) (u off n : Nat) : SpadRead := if n != 0 && s.portBusy u off n then .wait else (s.core u).engRun off n

/-- The granules of a run become full. -/
def Core.fillRun (c : Core) (off n : Nat) : Core := (granRange off n).foldl (fun c g => c.setFull g true) c

/-! ## MXLDB (R185 to R187) -/

/-- LCTL of a load. -/
def MatOp.lctl (o : MatOp) : Nat := o.at 0x20 4
/-- KCNT. -/
def MatOp.kcnt (o : MatOp) : Nat := bits o.lctl 10 0
/-- Bytes of one B row (R185). -/
def ldbWidth (ecls : Nat) : Nat := 16 * 2 ^ ecls
/-- Bytes of the B block. -/
def MatOp.bBytes (o : MatOp) : Nat := o.kcnt * ldbWidth (bits o.lctl 12 11)
/-- Bytes the port reads: whole chunks of a sealed block (R187). -/
def MatOp.ldbRead (o : MatOp) : Nat := if o.lctl.testBit 16 then (o.bBytes + 8191) / 8192 * 8192 else o.bBytes
/-- Scale bytes. -/
def MatOp.ldbScales (o : MatOp) : Nat := if o.lctl.testBit 15 then 32 * ((o.kcnt + 16 * 2 ^ bits o.lctl 14 13 - 1) / (16 * 2 ^ bits o.lctl 14 13)) else 0

/-- The sealed block checked and decrypted (R46, R187): an error names the first chunk whose tag differs. (log 27) -/
def sealedBlock (keys : List Byte) (toff : Nat) (data tags : List Byte) : Except Nat (List Byte) :=
  let chunk (c : Nat) : List Byte := (data.drop (8192 * c)).take 8192
  match (List.range (data.length / 8192)).find? fun c => Config.gmacTag ((keys.drop 64).take 32) (toff / 8192 + c) (chunk c) != (tags.drop (16 * c)).take 16 with
  | some c => .error c
  | none => .ok ((List.range (data.length / 128)).flatMap fun k => Config.xtsDecrypt (keys.take 64) (toff / 128 + k) ((data.drop (128 * k)).take 128))

/-- MXLDB_PERFORM (R187): the slot is filled and valid; a tag mismatch or a poisoned source stops the load and leaves the slot invalid. -/
def execMxldbPerform (u : Nat) (s : State) : Host.Outcome State Fault Refusal :=
  .next (match s.matQueue u with
    | [] => s
    | o :: _ =>
      if o.op != 0 then s
      else
        let isSealed := o.lctl.testBit 16
        let invalid (s : State) : State := s.onMatrix u fun m => { m with slots := Tab.set m.slots (o.arg 0) {} }
        let stop (kind off cause : Nat) : State := (invalid s).matStop u o cause (stopDet kind off) o.ptr
        match s.engRun u (ptrOff (o.at 0 8)) o.ldbRead, s.engRun u (ptrOff (o.at 0x10 8)) (if isSealed then o.ldbRead / 8192 * 16 else 0),
              s.engRun u (ptrOff (o.at 0x18 8)) o.ldbScales with
        | .wait, _, _ => s
        | _, .wait, _ => s
        | _, _, .wait => s
        | .poison a, _, _ => stop 0 a 0x13
        | _, .poison a, _ => stop 1 a 0x13
        | _, _, .poison a => stop 3 a 0x13
        | .ok data, .ok tags, .ok scales =>
          let key := s.keySlot (sliceOf u) (bits o.lctl 24 17)
          match (if isSealed then sealedBlock key.keys (o.at 8 8) data tags else .ok data) with
          | .error n => stop 1 (ptrOff (o.at 0x10 8) + 16 * n) 0x12
          | .ok bs =>
            let slot : Slot := { valid := true, ecls := bits o.lctl 12 11, kcnt := o.kcnt, scl := bits o.lctl 15 15, blk := bits o.lctl 14 13, bytes := bs.take o.bBytes, scales := scales }
            (s.onMatrix u fun m => { m with slots := Tab.set m.slots (o.arg 0) slot }).matRetire u o)

/-! ## MXMUL (R172 to R176, R188 to R193) -/

/-- Element k of a packed row (R168). -/
def packedElem (w : Nat) (bs : List Byte) (k : Nat) : Nat :=
  match w with
  | 4 => ((bs[k / 2]?).getD 0).toNat / 2 ^ (4 * (k % 2)) % 16
  | 8 => ((bs[k]?).getD 0).toNat
  | _ => ((bs[2 * k]?).getD 0).toNat + 256 * ((bs[2 * k + 1]?).getD 0).toNat

/-- Value of B element (k, j) of a slot. -/
def Slot.value (x : Slot) (d : Descr) (k j : Nat) : FVal := d.value (packedElem d.bitsPer (x.bytes.drop (k * ldbWidth x.ecls)) j)

/-- What the A side of a step needs from the scratchpad: bytes of row i for K positions lo to hi - 1, and its scale bytes (R191). -/
def MatOp.aRun (o : MatOp) (i lo hi : Nat) : Nat × Nat :=
  let w := o.descA.bitsPer
  (ptrOff (o.at 0 8) + i * o.at 8 4 + lo * w / 8, (hi * w + 7) / 8 - lo * w / 8)

/-- The scale bytes of row i for K positions lo to hi - 1. -/
def MatOp.sRun (o : MatOp) (i lo hi : Nat) : Nat × Nat :=
  let d := o.descA
  if d.scf = 0 then (0, 0) else (ptrOff (o.at 0x10 8) + i * o.at 0x0C 4 + lo / d.block, (hi - 1) / d.block + 1 - lo / d.block)

/-- Runs of the scratchpad that a step reads, with their source kinds (R184). -/
def MatOp.stepRuns (o : MatOp) (lo hi : Nat) : List (Nat × Nat × Nat) :=
  if o.asrc then []
  else (List.range (o.arg 0)).flatMap fun i => [(2, (o.aRun i lo hi).1, (o.aRun i lo hi).2), (3, (o.sRun i lo hi).1, (o.sRun i lo hi).2)]

/-- Value of A element (i, k), scale excluded (R191). -/
def MatOp.aValue (o : MatOp) (c : Core) (i k : Nat) : FVal :=
  let d := o.descA
  if o.asrc then
    let w := c.tillAt (o.atile + i / 32 * ((o.klen + 31) / 32) + k / 32) (i % 32) (k % 32)
    d.value (d.store .rn (fp32.decode w.toNat))
  else
    let w := d.bitsPer
    d.value (packedElem w (bytesGet c.sram (ptrOff (o.at 0 8) + i * o.at 8 4 + k * w / 8) 2) (if w = 4 then k % 2 else 0))

/-- Scale of A for row i and K position k (R171). -/
def MatOp.aScale (o : MatOp) (c : Core) (i k : Nat) : FVal :=
  let d := o.descA
  if d.scf = 0 then .fin false 1 0 else scaleValue d.scf (bytesAt c.sram (ptrOff (o.at 0x10 8) + i * o.at 0x0C 4 + k / d.block)).toNat

/-- The terms of the step sum of element (i, j) over K positions lo to hi - 1 (R173). -/
def MatOp.terms (o : MatOp) (c : Core) (x : Slot) (i j lo hi : Nat) : List FVal :=
  let d := o.descB
  (List.range (hi - lo)).map fun n =>
    let k := lo + n
    let sb := if d.scf = 0 then FVal.fin false 1 0 else scaleValue d.scf ((x.scales[32 * (k / d.block) + j]?).getD 0).toNat
    (((o.aValue c i k).mul (x.value d k j)).mul (o.aScale c i k)).mul sb

/-- The element after a step (R173, R174). -/
def MatOp.accumulate (o : MatOp) (old : Word) (ts : List FVal) : Word :=
  if o.int then
    let v := old.toInt + (FVal.sum false ts).int
    BitVec.ofInt 32 (if o.mctl.testBit 17 then clampInt v (-2 ^ 31) (2 ^ 31 - 1) else v)
  else BitVec.ofNat 32 (fp32.round .rn (FVal.sum false [fp32.decode old.toNat, FVal.sum false ts]))

/-- What the A elements of K positions lo to hi - 1 add to the row sums (R193). -/
def MatOp.stepSums (o : MatOp) (c : Core) (lo hi : Nat) : List Int :=
  if !o.mctl.testBit 18 then []
  else (List.range (o.arg 0)).map fun i => (o.sums[i]?).getD 0 + (List.range (hi - lo)).foldl (fun a k => a + (o.aValue c i (lo + k)).int) 0

/-- The end of the row sums of a product (R193): nothing to write, a wait, a poisoned old sum, or the core with them written. -/
inductive RowSums where
  | wait
  | poison (off : Nat)
  | ok (c : Core)

/-- Row sums of a finished product (R193): they are written when no bank of theirs is being cleared and no earlier access stands at their port (R118, R124), and the old sums that RSACC adds to are full and not poisoned (R183, R184). Those of a team that has gone are discarded. (log 76) -/
def State.rowSums (s : State) (u : Nat) (o : MatOp) : RowSums :=
  let c := s.core u
  let vr := o.arg 0
  let base := ptrOff (o.at 0x18 8)
  let acc := o.mctl.testBit 19
  if !o.mctl.testBit 18 || vr == 0 then .ok c
  else if s.portBusy u base (4 * vr) || (granRange base (4 * vr)).any (fun g => c.clearing.contains (g / 4096)) then .wait
  else match (if acc then c.engRun base (4 * vr) else .ok []) with
    | .wait => .wait
    | .poison a => .poison a
    | .ok olds =>
      let n := if acc then vr else (vr + 3) / 4 * 4
      let bs := (List.range n).flatMap fun i => leBytes 4 (wrapNat (sext (field olds (4 * i) 4) 32 + (o.sums[i]?).getD 0) 32)
      .ok ((if o.orphan then c else c.writeSram base bs).fillRun base (4 * vr))

/-- MXMUL_KSTEP (R175, R176, R183, R184): one k-step over every valid element of the head product, or its end. A poisoned old row sum is a stop of source kind 2, which the spec leaves open (DESIGN CHOICE, log 76). (log 55) -/
def execMxmulKstep (u : Nat) (s : State) : Host.Outcome State Fault Refusal :=
  .next (match s.matQueue u with
    | [] => s
    | o :: _ =>
      if o.op != 1 then s
      else
        let c := s.core u
        let lo := o.ks * o.next
        let hi := min o.klen (lo + o.ks)
        if o.klen ≤ lo then
          match s.rowSums u o with
          | .wait => s
          | .poison a => s.matStop u o 0x13 (stopDet 2 a) o.ptr
          | .ok c' => (s.setCore u c').matRetire u o
        else
          let runs := (o.stepRuns lo hi).map fun (k, a, n) => (k, s.engRun u a n)
          if runs.any fun (_, r) => match r with
              | .wait => true
              | _ => false then s
          else
            match runs.findSome? fun (k, r) => match r with
                | .poison a => some (k, a)
                | _ => none with
            | some (k, a) => s.matStop u o 0x13 (stopDet k a) o.ptr
            | none =>
              let x := Tab.get c.matrix.slots (bits o.mctl 15 15) {}
              let upd := (List.range (o.arg 0)).flatMap fun i => (List.range (o.arg 1)).map fun j =>
                let old := c.tillAt (o.tile0 + i / 32) (i % 32) j
                (i, j, old, o.accumulate old (o.terms c x i j lo hi))
              let nan (w : Word) : Bool := fp32.isNan w.toNat
              let bad := if (Descr.ofNat (o.fmt.toNat % 2 ^ 32)).nt && !o.int then upd.find? fun (_, _, old, new) => !nan old && nan new else none
              match bad with
              | some (i, j, _, _) => s.matStop u o 0x0A (o.next * 2 ^ 20 + j * 2 ^ 15 + i % 32 * 2 ^ 10 + (o.tile0 + i / 32)) o.ptr
              | none =>
                let s := s.onCore u fun c =>
                  (List.range o.nt).foldl (fun c t => c.dirty (o.tile0 + t)) (upd.foldl (fun c (i, j, _, w) => c.putTill (o.tile0 + i / 32) (i % 32) j w) c)
                (s.meter ((s.partOf u).getD 0) (o.arg 0 * o.arg 1 * (hi - lo)) 0).onHead u fun x => { x with next := x.next + 1, sums := o.stepSums c lo hi })

/-! ## MXZERO, MXSAVE, MXREST, MXRD, MXWR (R311 to R313) -/

/-- Pointer to row k of an area (R312). -/
def MatOp.rowPtr (o : MatOp) (k : Nat) : Nat := o.ptr + 128 * k

/-- A row of a tile as bytes. -/
def Core.tillRow (c : Core) (tile r : Nat) : List Byte := (List.range 32).flatMap fun j => leBytes 4 (c.tillAt tile r j).toNat
/-- A row of a tile written from bytes. -/
def Core.putRow (c : Core) (tile r : Nat) (bs : List Byte) : Core := (List.range 32).foldl (fun c j => c.putTill tile r j (BitVec.ofNat 32 (field bs (4 * j) 4))) c

/-- The head operation has done one more row; it retires with the last. -/
def State.nextRow (s : State) (u : Nat) (o : MatOp) : State :=
  if 32 * o.arg 1 ≤ o.next + 1 then s.matRetire u o else s.onHead u fun o => { o with next := o.next + 1 }

/-- The head operation meets a stop of R77 at its row. -/
def State.rowStop (s : State) (u : Nat) (o : MatOp) (e : EngStop) : State :=
  match e with
  | .wait => s
  | .fault t => (s.engFault (s.matCtx u o) (o.named u) t (32 * o.next)).onHead u fun o => { o with fault := some o.next }

/-- One row of MXSAVE (R312). -/
def State.saveRow (s : State) (u : Nat) (o : MatOp) : State :=
  let c := s.matCtx u o
  let bs := (s.core u).tillRow (o.arg 0 + o.next / 32) (o.next % 32)
  if ptrSpace o.ptr = 1 ∧ o.orphan then (s.onCore u fun k => k.fillRun (ptrOff (o.rowPtr o.next)) 128).nextRow u o
  else if o.poisonRest then
    match s.engPoison c (o.rowPtr o.next) 128 with
    | (s, true) => s.nextRow u o
    | (s, false) => s
  else
    match s.engPlace c (o.rowPtr o.next) 128 true with
    | (s, .error e) => s.rowStop u o e
    | (s, .ok p) =>
      let s := s.engPut c p bs false
      match p with
      | .spad t off => (s.onCore t fun k => k.fillRun off 128).nextRow u o
      | .mem _ | .denied _ _ => s.nextRow u o

/-- One row of MXREST (R312). A scratchpad area is read only once all of it is full, and a poisoned granule stops the operation before its first effect (R183, R184). R184 leaves open what a poisoned row of a global area does after earlier rows: the operation stops there and the rows restored before it stay (DESIGN CHOICE, log 83). -/
def State.restRow (s : State) (u : Nat) (o : MatOp) : State :=
  let c := s.matCtx u o
  let tile := o.arg 0 + o.next / 32
  let put (s : State) (bs : List Byte) : State := (s.onCore u fun k => (k.putRow tile (o.next % 32) bs).dirty tile).nextRow u o
  if o.poisonRest then put s (List.replicate 128 0)
  else if ptrSpace o.ptr = 1 then
    match (if o.next = 0 then (match s.engRun u (ptrOff o.ptr) (4096 * o.arg 1) with
        | .ok bs => .ok (bs.take 128)
        | r => r)
      else s.engRun u (ptrOff (o.rowPtr o.next)) 128) with
    | .wait => s
    | .poison a => s.matStop u o 0x13 (stopDet 2 a) o.ptr
    | .ok bs => put s bs
  else
    match s.engRead c (o.rowPtr o.next) 128 with
    | (s, .error e) => s.rowStop u o e
    | (s, .ok (_, true)) => s.matStop u o 0x13 (stopDet 2 0) o.ptr
    | (s, .ok (bs, false)) => put s bs

/-- MXRD (R313): the run of every lane of the word that still waits for it is written and full. -/
def State.mxrd (s : State) (u : Nat) (o : MatOp) : State :=
  let c := s.core u
  if o.orphan then s
  else s.onStripe u o.stripe fun t => (maskLanes o.lanes).foldl (fun t l => t.onLane l fun th =>
    if !th.alive then th
    else (List.range (o.arg 2)).foldl (fun th i => if o.masked.getLsbD l && decide (o.arg 3 + i < 32) then th else th.setReg (o.arg 3 + i) (c.tillAt (o.arg 0) (o.arg 1 + i) l)) th) t

/-- MXWR (R313). -/
def State.mxwr (s : State) (u : Nat) (o : MatOp) : State :=
  s.onCore u fun c => ((maskLanes o.lanes).zipIdx.foldl (fun c (l, n) =>
    ((o.data[n]?).getD []).zipIdx.foldl (fun c (w, i) => c.putTill (o.arg 0) (o.arg 1 + i) l w) c) c).dirty (o.arg 0)

/-- MATRIX_OP_PERFORM (R182, R311 to R313): the head operation, when it is MXZERO, MXRD or MXWR, or one row of MXSAVE or MXREST. A paused one waits for its answer (R77). (log 35) -/
def execMatrixOpPerform (u : Nat) (s : State) : Host.Outcome State Fault Refusal :=
  .next (match s.matQueue u with
    | [] => s
    | o :: _ =>
      if o.fault.isSome then s
      else
        match o.op with
        | 2 => (s.onCore u fun c => o.tiles.foldl (fun c t => (c.clearTile t).dirty t) c).matRetire u o
        | 3 => s.saveRow u o
        | 4 => s.restRow u o
        | 5 => (s.mxrd u o).matRetire u o
        | 6 => (s.mxwr u o).matRetire u o
        | _ => s)

/-- MATRIX_CLAIM_RELEASE (R181): every operation accepted before the release has been performed, drains among them, and both slots are cleared. -/
def execMatrixClaimRelease (u : Nat) (s : State) : Host.Outcome State Fault Refusal :=
  .next (match s.matQueue u with
    | [] => s
    | o :: rest => if o.op = 8 ∧ !((s.core u).matrix.drain.any fun d => o.args.contains d.tag && !d.complete) then s.onMatrix u fun m => { m with queue := rest, slots := [] } else s)

/-! ## The drain (R194 to R199) -/

/-- The target format of a drain, for Round or Encode of a value (R195). -/
def MatOp.encodeTo (o : MatOp) (mode : Rounding) (v : FVal) : Nat :=
  match o.tgt with
  | 1 => bf16.round mode v
  | 2 => fp16.round mode v
  | _ => (Descr.ofNat (o.at 0x28 4)).encode mode v

/-- Nearest integer of y / 2^k, ties away from zero (R196). -/
def halfAway (y : Int) (k : Nat) : Int :=
  let q : Int := ((y.natAbs + 2 ^ k / 2) / 2 ^ k : Nat)
  if y < 0 then -q else q

/-- The value of an element for the destination (R195, R196); rs and mul are the words of its row and column. -/
def MatOp.drainValue (o : MatOp) (x : Word) (rs mul : Nat) : Nat :=
  let mode := Rounding.ofCode (BitVec.ofNat 2 (bits o.dctl 15 14))
  if !o.srct then (if o.tgt = 0 then x.toNat else o.encodeTo mode (fp32.decode x.toNat))
  else if !o.dctl.testBit 19 then (if o.tgt = 0 then x.toNat else o.encodeTo mode (FVal.ofInt x.toInt))
  else
    let c := if o.dctl.testBit 20 then x.toInt - sext (o.at 0x20 4) 32 * sext rs 32 else x.toInt
    let n := halfAway (c * sext mul 32) (31 + bits o.dctl 25 21) + sext (o.at 0x24 4) 32
    if o.tgt = 0 then wrapNat (clampInt n (-2 ^ 31) (2 ^ 31 - 1)) 32 else o.encodeTo .rn (FVal.ofInt n)

/-- The new value at the destination from the old one and the element's (R197). -/
def MatOp.merge (o : MatOp) (w v : Nat) : Nat :=
  let fmt := match o.tgt with
    | 0 => fp32
    | 1 => bf16
    | _ => fp16
  match o.aop with
  | 0 => v
  | 1 => fp32.round .rn (FVal.sum false [fp32.decode w, fp32.decode v])
  | 2 => bf16.round .rn (FVal.sum false [bf16.decode w, bf16.decode v])
  | 3 => (w + v) % 2 ^ 32
  | 4 => wrapNat (clampInt (sext w 32 + sext v 32) (-2 ^ 31) (2 ^ 31 - 1)) 32
  | k =>
    if o.srct ∧ o.tgt = 0 then (if (sext w 32 < sext v 32) = (k = 5) then v else w)
    else fmt.pick (k == 5) w v

/-- Bytes of a row that a drain writes. -/
def MatOp.rowRun (o : MatOp) : Nat := (o.dcols * o.dwidth + 7) / 8

/-- Tagged pointer to a global row of a drain (R194); none when it leaves the 52-bit offset. -/
def MatOp.drainPtr (o : MatOp) (i : Nat) : Option Nat :=
  let off := ptrOff (o.at 0 8) + i / 32 * o.at 0x0C 4 + i % 32 * o.at 8 4
  if off + o.rowRun ≤ 2 ^ 52 then some (o.at 0 8 / 2 ^ 52 * 2 ^ 52 + off) else none

/-- The whole tile is one unit (R198): in scratchpad, or packed and aligned to 4,096 bytes in global memory. -/
def MatOp.wholeTile (o : MatOp) (t : Nat) : Bool :=
  ptrSpace (o.at 0 8) == 1 || (o.at 8 4 == o.rowBytes && (ptrOff (o.at 0 8) + t * o.at 0x0C 4) % 4096 == 0)

/-- Rows of the unit that starts at a row (R198). -/
def MatOp.unitRows (o : MatOp) (i : Nat) : List Nat :=
  if o.wholeTile (i / 32) then (List.range (min 32 (o.drows - i / 32 * 32))).map (i / 32 * 32 + ·) else [i]

/-- The new bytes of a row from the old ones (R195 to R197). -/
def MatOp.rowNew (o : MatOp) (c : Core) (i : Nat) (old : List Byte) : List Byte :=
  let w := o.dwidth
  let rs := if o.dctl.testBit 20 then leNat (bytesGet c.sram (ptrOff (o.at 0x18 8) + 4 * i) 4) else 0
  let v (j : Nat) : Nat :=
    let mul := if o.dctl.testBit 19 then leNat (bytesGet c.sram (ptrOff (o.at 0x10 8) + 4 * j) 4) else 0
    let x := o.drainValue (c.tillAt (o.at 0x30 2 % 1024 + i / 32) (i % 32) j) rs mul
    o.merge (leNat old / 2 ^ (w * j) % 2 ^ w) x
  let n := o.dcols * w
  leBytes o.rowRun ((List.range o.dcols).foldl (fun a j => a + v j % 2 ^ w * 2 ^ (w * j)) (leNat old / 2 ^ n * 2 ^ n))

/-- The source arrays of a row: none while they cannot be read, else whether one is poisoned (R51, R183). -/
def State.arrays (s : State) (u : Nat) (o : MatOp) (i : Nat) : Option Bool :=
  let run (a n : Nat) : Option Bool := match s.engRun u a n with
    | .wait => none
    | .poison _ => some true
    | .ok _ => some false
  match run (ptrOff (o.at 0x10 8)) (if o.dctl.testBit 19 then 4 * o.dcols else 0), run (ptrOff (o.at 0x18 8) + 4 * i) (if o.dctl.testBit 20 then 4 else 0) with
  | some a, some b => some (a || b)
  | _, _ => none

/-- Places of the rows of a unit; the first stop met governs (R198). -/
def State.drainPlaces (s : State) (c : EngCtx) (o : MatOp) (rows : List Nat) : State × Except EngStop (List (Nat × EngPlace)) :=
  rows.foldl (fun (s, r) i => match r with
    | .error e => (s, .error e)
    | .ok ps =>
      match o.drainPtr i with
      | none => (s, .error (.fault { cause := 0x0C, dcode := 3, addr := o.at 0 8 }))
      | some p =>
        match s.engPlace c p o.rowRun true with
        | (s, .error e) => (s, .error e)
        | (s, .ok pl) => (s, .ok (ps ++ [(i, pl)]))) (s, .ok [])

/-- Changes one drain of a core. -/
def State.onDrain (s : State) (u tag : Nat) (f : MatOp → MatOp) : State :=
  s.onMatrix u fun m => { m with drain := mapIf (fun o : MatOp => o.tag == tag) f m.drain }

/-- A drain has applied a unit. -/
def State.drainTo (s : State) (u : Nat) (o : MatOp) (rows : List Nat) : State :=
  let n := o.next + rows.length
  s.onDrain u o.tag fun o => { o with next := n, complete := decide (o.drows ≤ n) }

/-- The drain that the unit works on: the first that is not complete, past paused ones and those of their stripes (R77). -/
def State.drainHead (s : State) (u : Nat) : Option MatOp :=
  let paused := (s.drainQueue u).filter fun o => !o.complete && o.fault.isSome
  (s.drainQueue u).find? fun o => !o.complete && !paused.any fun p => p.stripe == o.stripe

/-- The old bytes of a row and their poison: a row that its elements cover whole reads nothing (R51, R197). -/
def State.drainOld (s : State) (c : EngCtx) (o : MatOp) (p : EngPlace) : State × List Byte × Bool :=
  if o.aop = 0 ∧ o.dcols * o.dwidth % 8 = 0 then (s, List.replicate o.rowRun 0, false) else s.engGet c p o.rowRun

/-- DRAIN_APPLY (R195 to R198): one indivisible unit of a drain. (log 55) -/
def execDrainApply (u : Nat) (s : State) : Host.Outcome State Fault Refusal :=
  .next (match s.drainHead u with
    | none => s
    | some o =>
      let c := s.matCtx u o
      let rows := o.unitRows o.next
      let own := ptrSpace (o.at 0 8) == 1 && s.coreOfRank c.part (ptrRank (o.at 0 8)) == some u
      if o.orphan && own then (rows.foldl (fun s i => s.onCore u fun k => k.fillRun (ptrOff ((o.drainPtr i).getD 0)) o.rowRun) s).drainTo u o rows
      else if o.poisonRest then
        let (s', ok) := rows.foldl (fun (s, ok) i => match ok, o.drainPtr i with
          | true, some p => s.engPoison c p o.rowRun
          | ok, _ => (s, ok)) (s, true)
        if ok then s'.drainTo u o rows else s
      else
        match s.drainPlaces c o rows with
        | (s, .error .wait) => s
        | (s, .error (.fault t)) => (s.engFault c (o.named u) t (32 * o.next)).onDrain u o.tag fun x => { x with fault := some o.next }
        | (s, .ok ps) =>
          let k := s.core u
          let spoilt (i : Nat) : Bool := (s.arrays u o i).getD false
          let empty := ps.any fun (_, p) => match p with
            | .spad t off => o.aop != 0 && (granRange off o.rowRun).any fun g => !(s.core t).full g
            | .mem _ | .denied _ _ => false
          if empty || rows.any fun i => (s.arrays u o i).isNone then s
          else
            let s := ps.foldl (fun s (i, p) =>
              let (s, old, bad) := s.drainOld c o p
              let s := s.engPut c p (o.rowNew k i old) (spoilt i || (bad && o.aop != 0))
              match p with
              | .spad t off => s.onCore t fun x => x.fillRun off o.rowRun
              | .mem _ | .denied _ _ => s) s
            s.drainTo u o rows)

/-- DRAIN_RETIRE (R199): the oldest drain of its stripe that is complete retires; its tiles are cleared first when it says so. -/
def execDrainRetire (u : Nat) (s : State) : Host.Outcome State Fault Refusal :=
  .next (match (s.drainQueue u).zipIdx.find? fun (o, n) => o.complete && !((s.drainQueue u).take n).any fun p => p.stripe == o.stripe with
    | none => s
    | some (o, _) =>
      let s := s.onMatrix u fun m => { m with drain := m.drain.filter fun x => x.tag != o.tag }
      let s := if o.dctl.testBit 10 then s.onCore u fun c => o.tiles.foldl (fun c t => (c.clearTile t).dirty t) c else s
      s.retire u o.stripe 2 none o.orphan)

end Sys2Proof.Machine
end

