-- ==== Sys2Proof/Machine/Matrix.lean ====
section
/-!
DEFINITION. The matrix commands: the checks that precede them, their acceptance, and the end of the rendezvous of MXCLAIM, MXFREE and MXMUL (R179, R180, R186, R188 to R190, R194, R302 to R313).
-/
namespace Sys2Proof.Machine

/-! ## Checks (R180, R303) -/

/-- The issuing thread is a member of the claiming gang, or its privilege frees it from the claim (R180). -/
def State.claimOk (s : State) (l : Nat) : Bool :=
  s.curPriv.atK || (match (s.core s.cur.unit).matrix.claim with
    | some g => (s.curThread l).gangs.getLsbD g
    | none => false)

/-- A matrix command on a SIMT core (R180, R302): ASYNC first inside a transaction (R328), then a pending stop, ROLE and the claim. A word without an active lane does what idle says and goes on. -/
def State.matrixWord (s : State) (h : Hdr) (claim : Bool) (go : State → List Nat → State) (idle : State → State := id) : State :=
  match s.curKind with
  | .booth => s.goHome
  | .simt => s.afterAsync h fun s act =>
    match s.takeDeferred act with
    | some s => s
    | none =>
      if s.curPriv == .u && s.curStripe.role != 2 then s.stopWord noRunAhead (.trap { cause := 0x04, lane := (act.head?).getD s.lowLane })
      else
        match (if claim then act.find? fun l => !s.claimOk l else none) with
        | some l => s.stopWord noRunAhead (.trap { cause := 0x15, dcode := 0x20, lane := l })
        | none => if act.isEmpty then (idle s).finishPlain h.b else go s act
  | _ => s.illegal

/-- A till access of a word command (R132, R303): TILL at the lowest lane that the owner test refuses. -/
def State.tillCheck (s : State) (lanes : List Nat) : Option Trap :=
  (lanes.find? fun l => !s.tillOk s.cur.unit s.cur.stripe l).map fun l => { cause := 0x0B, lane := l }

/-- A run of tiles is refused (R130, R304). -/
def State.badTiles (s : State) (tiles : List Nat) : Bool := tiles.any fun t => decide (1024 ≤ t) || !(((s.core s.cur.unit).team.map fun x => x.owns t).getD false)

/-- A scratchpad pointer to n bytes of the core's own S-mode banks: the detail of SPACE when it is not (R56). -/
def State.ownSpad (s : State) (u part p n : Nat) : Option Nat :=
  if ptrSpace p != 1 then some 1 else if s.coreOfRank part (ptrRank p) != some u then some 2 else (s.core u).spadRun (ptrOff p) n

/-- The tile word of MXZERO, MXSAVE and MXREST (R304): first tile and count. -/
def tileWord (w : Word) : Nat × Nat := (bits w.toNat 9 0, bits w.toNat 21 16)

/-- The next tag of the engine (R305). -/
def Core.matTag (c : Core) : Nat := nextTag ((c.matrix.queue ++ c.matrix.drain).filterMap fun o => if o.op = 3 ∨ o.op = 4 ∨ o.op = 7 then some o.tag else none) c.matrix.tag

/-- An operation is accepted (R182): it joins its queue and its counter rises. After a stop that is not delivered it is discarded at once (R176). -/
def State.matAccept (s : State) (u : Nat) (o : MatOp) : State :=
  let tagged := o.op = 3 ∨ o.op = 4 ∨ o.op = 7
  let tag := (s.core u).matTag
  let s := if tagged then s.onMatrix u fun m => { m with tag := (tag + 1) % 256 } else s
  let o := { o with tag := if tagged then tag else 256 }
  if o.op = 7 then (s.onMatrix u fun m => { m with drain := m.drain ++ [o] }).onStripe u o.stripe fun t => t.count 2 (· + 1)
  else
    match (s.core u).matrix.stop with
    | some (i, l) => s.onThread u i l fun t => { t with deferred := t.deferred.map Deferred.discard }
    | none => (s.onMatrix u fun m => { m with queue := m.queue ++ [o] }).onStripe u o.stripe fun t => t.count 1 (· + 1)

/-- What a queue or a counter makes the word wait for (R115, R182). -/
def State.matWait (s : State) (u i : Nat) (drain : Bool) : Option Wait :=
  let m := (s.core u).matrix
  if (if drain then decide (32 ≤ m.drain.length) else decide (32 ≤ (m.queue.filter fun o => o.op != 8).length)) then some (.queue (if drain then 2 else 1))
  else if (s.stripe u i).counterFull (if drain then 2 else 1) then some (.counter (if drain then 2 else 1))
  else none

/-- A new operation of the issuing word. -/
def State.matOp (s : State) (op : Nat) (act : List Nat) : MatOp :=
  let l := (act.head?).getD 0
  { tag := 0, op := op, stripe := s.cur.stripe, lanes := laneMask act.contains, lane := l, pc := s.cur.pc.toNat, priv := s.curPriv,
    world := s.worldOf s.cur.unit s.cur.stripe l, ctx := (s.ctxOf s.cur.unit s.cur.stripe l).toNat, ptb := s.ptbOf s.cur.unit s.cur.stripe l }

/-- The register checks of a word command over its lowest active lane (R303 steps 5 and 6): every register it names is mapped, its sources are full. -/
def State.checkWord (s : State) (l : Nat) (srcs : List (Nat × Bool)) (tag : Option Nat) : Chk Unit :=
  match s.checkMapped [l] fun _ => srcs.map (·.1) ++ tag.toList with
  | .error e => .error e
  | .ok _ => s.checkSources [l] fun _ => srcs

/-- A checked word command is accepted once its queue and counter have room and the register of its tag is full (R153, R303); f changes the active lanes. -/
def State.matFinish (s : State) (b : Bool) (o : MatOp) (tag : Option Nat) (f : Thread → Thread) : State :=
  match s.checkDests [o.lane] fun _ => tag.toList with
  | .error e => s.stopWord noRunAhead e
  | .ok _ =>
  match s.matWait s.cur.unit s.cur.stripe (o.op == 7) with
  | some w => s.blockWord w
  | none =>
    let t := (s.core s.cur.unit).matTag
    (s.matAccept s.cur.unit o).finish b fun l x =>
      if !o.lanes.getLsbD l then x
      else match tag with
        | some d => if l = o.lane then x.setReg d (BitVec.ofNat 32 t) else x
        | none => f x

/-- Bytes of the issuing core's scratchpad read at the checks of a command: a wait while their bank is cleared or a granule is not full (R183), POISON when a granule is poisoned. (log 34) -/
def State.ownBlock (s : State) (u p n : Nat) : Except Stop (List Byte) :=
  let c := s.core u
  match (granRange (ptrOff p) n).find? fun g => c.clearing.contains (g / 4096) with
  | some g => .error (.block (.bank u (g / 4096)))
  | none =>
    let (bs, bad) := c.readSram (ptrOff p) n
    if s.portBusy u (ptrOff p) n then .error (.block (.port u (ptrOff p) n))
    else if (granRange (ptrOff p) n).any fun g => !c.full g then .error (.block (.full u (ptrOff p) n))
    else if bad then .error (.trap { cause := 0x13, addr := p }) else .ok bs

/-- A stop names the word's lane. (log 17) -/
def Stop.atLane (e : Stop) (l : Nat) : Stop :=
  match e with
  | .trap t => .trap { t with lane := l }
  | e => e

/-! ## MXLDB (R186, R308) -/

/-- The first failed check of a load descriptor (R186). -/
def State.ldbCheck (s : State) (o : MatOp) : Option Trap :=
  let u := s.cur.unit
  let part := s.curPart
  let ecls := bits o.lctl 12 11
  let isSealed := o.lctl.testBit 16
  let fail : Trap := { cause := 0x17, dcode := 0x10, lane := o.lane, addr := o.ptr }
  let kmax := if ecls = 2 then 512 else 1024
  let bad := bits o.lctl 31 25 != 0 || (o.block.drop 0x24).any (· != 0) || ecls == 3 || o.kcnt == 0 || decide (kmax < o.kcnt) || (ecls == 0 && o.kcnt % 2 == 1)
    || o.at 0 8 % 16 != 0 || (isSealed && o.at 0x10 8 % 16 != 0) || (o.lctl.testBit 15 && o.at 0x18 8 % 16 != 0)
  let space (p n : Nat) : Option Trap := (s.ownSpad u part p n).map fun d => { cause := 0x0C, dcode := d, lane := o.lane, addr := p }
  if bad then some fail
  else
    (space (o.at 0 8) o.ldbRead).or <|
    (if isSealed then space (o.at 0x10 8) (o.ldbRead / 8192 * 16) else none).or <|
    (if o.lctl.testBit 15 then space (o.at 0x18 8) o.ldbScales else none).or <|
    if !isSealed then none
    else if o.at 8 8 % 8192 != 0 then some fail
    else
      let k := s.keySlot (sliceOf u) (bits o.lctl 24 17)
      if k.valid && k.weight && k.world == o.world then none else some { cause := 0x10, lane := o.lane, addr := o.ptr }

/-- MXLDB (R308). -/
def execMxldb (f : FmtE) (s : State) : Host.Outcome State Fault Refusal :=
  .next (s.matrixWord f.hdr true fun s act =>
    let o := s.matOp 0 act
    match s.checkWord o.lane [(f.sa.toNat, f.fa), (f.sa.toNat + 1, f.fa)] none with
    | .error e => s.stopWord noRunAhead e
    | .ok _ =>
      let p := ((s.curThread o.lane).pair f.sa.toNat).toNat
      match s.ownSpad s.cur.unit s.curPart p 64 with
      | some d => s.stopWord noRunAhead (.trap { cause := 0x0C, dcode := d, lane := o.lane, addr := p })
      | none =>
        if p % 16 != 0 then s.stopWord noRunAhead (.trap { cause := 0x17, dcode := 0x10, lane := o.lane, addr := p })
        else
          match s.ownBlock s.cur.unit p 64 with
          | .error e => s.stopWord noRunAhead (e.atLane o.lane)
          | .ok bs =>
            let o := { o with ptr := p, block := bs, args := [f.imm8.toNat % 2] }
            match s.ldbCheck o with
            | some t => s.stopWord noRunAhead (.trap t)
            | none => s.matFinish f.hdr.b o none id)

/-! ## MXZERO, MXSAVE, MXREST (R311, R312) -/

/-- The tile word's check (R304), and the allotment's below privilege K. -/
def State.tileWordCheck (s : State) (l : Nat) (w : Word) : Option Trap :=
  let (t, n) := tileWord w
  if n = 0 ∨ 32 < n ∨ 1024 < t + n ∨ (s.curPriv = .u ∧ s.badTiles ((List.range n).map (t + ·))) then some { cause := 0x05, dcode := 0x23, lane := l } else none

/-- MXZERO, MXSAVE and MXREST: the shared checks; ptr says whether the word names an area and writes a tag. (log 35) -/
def State.tileCommand (s : State) (op : Nat) (f : FmtE) (ptr : Bool) : State :=
  s.matrixWord f.hdr true fun s act =>
    let o := s.matOp op act
    let srcs := (if ptr then [(f.sa.toNat, f.fa), (f.sa.toNat + 1, f.fa)] else []) ++ [(f.sb.toNat, f.fb)]
    match s.checkWord o.lane srcs (if ptr then some f.dst.toNat else none) with
    | .error e => s.stopWord noRunAhead e
    | .ok _ =>
      let w := (s.curThread o.lane).reg f.sb.toNat
      let p := ((s.curThread o.lane).pair f.sa.toNat).toNat
      let n := 4096 * (tileWord w).2
      let space : Option Trap :=
        if !ptr then none
        else
          let d := if ptrSpace p = 0 then (if ptrRank p != 0 then some 2 else none) else s.ownSpad s.cur.unit s.curPart p n
          match d with
          | some d => some { cause := 0x0C, dcode := d, lane := o.lane, addr := p }
          | none => if p % 128 != 0 then some { cause := 0x0D, lane := o.lane, addr := p } else none
      match ((if s.curPriv.atK then none else s.tillCheck [o.lane]).or (s.tileWordCheck o.lane w)).or space with
      | some t => s.stopWord noRunAhead (.trap t)
      | none => s.matFinish f.hdr.b { o with ptr := p, args := [(tileWord w).1, (tileWord w).2] } (if ptr then some f.dst.toNat else none) id

/-- MXZERO (R311). -/
def execMxzero (f : FmtE) (s : State) : Host.Outcome State Fault Refusal := .next (s.tileCommand 2 f false)
/-- MXSAVE (R312). -/
def execMxsave (f : FmtE) (s : State) : Host.Outcome State Fault Refusal := .next (s.tileCommand 3 f true)
/-- MXREST (R312). -/
def execMxrest (f : FmtE) (s : State) : Host.Outcome State Fault Refusal := .next (s.tileCommand 4 f true)

/-! ## MXRD, MXWR (R313) -/

/-- MXRD and MXWR: the run is checked in every active lane, the tile-row word in the lowest (R302). -/
def State.rowCommand (s : State) (rd : Bool) (f : FmtE) : State :=
  s.matrixWord f.hdr true fun s act =>
    let o := s.matOp (if rd then 5 else 6) act
    let m := f.x.toNat % 32 + 1
    let first := if rd then f.dst.toNat else f.sa.toNat
    let run := (List.range m).map (first + ·)
    match s.checkMapped act fun l => run ++ (if l = o.lane then [f.sb.toNat] else []) with
    | .error e => s.stopWord noRunAhead e
    | .ok _ =>
      match s.checkSources act fun l => (if rd then [] else run.map fun r => (r, f.fa)) ++ (if l = o.lane then [(f.sb.toNat, f.fb)] else []) with
      | .error e => s.stopWord noRunAhead e
      | .ok _ =>
        let w := ((s.curThread o.lane).reg f.sb.toNat).toNat
        let tile := bits w 9 0
        let row := bits w 14 10
        let bad : Option Trap := if 31 < row + m - 1 ∨ (s.curPriv = .u ∧ s.badTiles [tile]) then some { cause := 0x05, dcode := 0x23, lane := o.lane } else none
        match (s.tillCheck [o.lane]).or bad with
        | some t => s.stopWord noRunAhead (.trap t)
        | none =>
          match (if rd then s.checkDests act fun _ => run else .ok ()) with
          | .error e => s.stopWord noRunAhead e
          | .ok _ =>
            let o := { o with args := [tile, row, m, first], data := if rd then [] else act.map fun l => run.map (s.curThread l).reg }
            s.matFinish f.hdr.b o none fun t => if rd then run.foldl Thread.mark t else t

/-- MXRD (R313). -/
def execMxrd (f : FmtE) (s : State) : Host.Outcome State Fault Refusal := .next (s.rowCommand true f)
/-- MXWR (R313). -/
def execMxwr (f : FmtE) (s : State) : Host.Outcome State Fault Refusal := .next (s.rowCommand false f)

/-! ## MXDRAIN (R194, R310) -/

/-- A drain block that R194 refuses with RESERVED. -/
def MatOp.badDrain (o : MatOp) : Bool :=
  let d := Descr.ofNat (o.at 0x28 4)
  let rsc := o.dctl.testBit 20
  let req := o.dctl.testBit 19
  bits o.dctl 31 26 != 0 || bits o.dctl 4 0 != 0 || bits (o.at 0x30 2) 15 10 != 0 || (o.block.drop 0x35).any (· != 0) || o.aop == 7
    || ((rsc || req) && !o.srct) || (rsc && !req)
    || (o.tgt == 3 && (d.bad true false || d.cls != 0))
    || (o.aop == 1 && (o.tgt != 0 || o.srct)) || (o.aop == 2 && o.tgt != 1) || ((o.aop == 3 || o.aop == 4) && (o.tgt != 0 || !o.srct || req))
    || ((o.aop == 5 || o.aop == 6) && o.tgt == 3)
    || o.drows == 0 || decide (32 * o.dnt < o.drows) || o.dcols == 0 || decide (32 < o.dcols)

/-- The first failed check of a drain block (R194). -/
def State.drainCheck (s : State) (o : MatOp) : Option Trap :=
  let rb := o.rowBytes
  let rsc := o.dctl.testBit 20
  let req := o.dctl.testBit 19
  let at_ (cause dcode addr : Nat) : Option Trap := some { cause := cause, dcode := dcode, lane := o.lane, addr := addr }
  if o.badDrain then at_ 0x02 0x15 o.ptr
  else if s.badTiles o.tiles then at_ 0x05 0x23 0
  else if ptrOff (o.at 0 8) % rb != 0 || o.at 8 4 % rb != 0 || o.at 0x0C 4 % rb != 0 || (req && o.at 0x10 8 % 4 != 0) || (rsc && o.at 0x18 8 % 4 != 0) then at_ 0x0D 0 o.ptr
  else
    match (if req then s.ownSpad s.cur.unit s.curPart (o.at 0x10 8) 128 else none), (if rsc then s.ownSpad s.cur.unit s.curPart (o.at 0x18 8) (4 * o.drows) else none) with
    | some d, _ => at_ 0x0C d (o.at 0x10 8)
    | none, some d => at_ 0x0C d (o.at 0x18 8)
    | none, none => none

/-- MXDRAIN (R310). -/
def execMxdrain (f : FmtE) (s : State) : Host.Outcome State Fault Refusal :=
  .next (s.matrixWord f.hdr true fun s act =>
    let o := s.matOp 7 act
    match s.checkWord o.lane [(f.sa.toNat, f.fa), (f.sa.toNat + 1, f.fa)] (some f.dst.toNat) with
    | .error e => s.stopWord noRunAhead e
    | .ok _ =>
      let p := ((s.curThread o.lane).pair f.sa.toNat).toNat
      let trap (cause dcode : Nat) : Option Trap := some { cause := cause, dcode := dcode, lane := o.lane, addr := p }
      let early := (s.tillCheck [o.lane]).or (match s.ownSpad s.cur.unit s.curPart p 128 with
        | some d => trap 0x0C d
        | none => if p % 128 != 0 then trap 0x0D 0 else none)
      match early with
      | some t => s.stopWord noRunAhead (.trap t)
      | none =>
        match s.ownBlock s.cur.unit p 128 with
        | .error e => s.stopWord noRunAhead (e.atLane o.lane)
        | .ok bs =>
          let o := { o with ptr := p, block := bs }
          match s.drainCheck o with
          | some t => s.stopWord noRunAhead (.trap t)
          | none => s.matFinish f.hdr.b o (some f.dst.toNat) id)

/-! ## MXCLAIM, MXFREE, MXMUL: arrival (R307, R309) -/

/-- MXCLAIM (R179, R307). -/
def execMxclaim (f : FmtE) (s : State) : Host.Outcome State Fault Refusal :=
  .next (s.matrixWord f.hdr false (idle := fun s => s.dropInactive f.hdr (f.imm8.toNat % 32)) fun s act =>
    s.gangArrive f.hdr { key := 0x200, gang := f.imm8.toNat % 32, mreg := if f.x.getLsbD 8 then some (f.sc.toNat, f.fc) else none, srcs := [], a := fun _ => 0, pd := bits f.x.toNat 6 4, holds := true } act)

/-- MXFREE (R179, R307): not refused for want of the claim; its own test at completion raises that. -/
def execMxfree (f : FmtE) (s : State) : Host.Outcome State Fault Refusal :=
  .next (s.matrixWord f.hdr false (idle := fun s => s.dropInactive f.hdr (f.imm8.toNat % 32)) fun s act =>
    s.gangArrive f.hdr { key := 0x201, gang := f.imm8.toNat % 32, mreg := if f.x.getLsbD 8 then some (f.sc.toNat, f.fc) else none, srcs := [], a := fun _ => 0, holds := true } act)

/-- MXMUL (R188, R309): each participant brings its format word, parameter block, and counts; arrivals agree in MK as well. -/
def execMxmul (f : FmtE) (s : State) : Host.Outcome State Fault Refusal :=
  .next (s.matrixWord f.hdr true (idle := fun s => s.dropInactive f.hdr (f.imm8.toNat % 32)) fun s act =>
    let pairOf (r : BitVec 7) (p : Bool) : List (Nat × Bool) := [(r.toNat, p), (r.toNat + 1, p)]
    s.gangArrive f.hdr
      { key := 0x203 + (if f.x.getLsbD 8 then 0x400 else 0), gang := f.imm8.toNat % 32, mreg := if f.x.getLsbD 8 then some (f.dst.toNat, false) else none,
        srcs := pairOf f.sa f.fa ++ pairOf f.sb f.fb ++ pairOf f.sc f.fc, a := fun t => (t.pair f.sa.toNat).toNat,
        b := fun t => (t.pair f.sb.toNat).toNat + 2 ^ 64 * (t.pair f.sc.toNat).toNat, holds := true,
        check := fun l => if s.tillOk s.cur.unit s.cur.stripe l then none else some { cause := 0x0B, lane := l } } act)

/-! ## MXCLAIM, MXFREE, MXMUL: completion (R179, R188, R190) -/

/-- The claim is released: the slots are cleared once what was accepted before has been performed (R181). -/
def State.releaseClaim (s : State) (u : Nat) : State :=
  s.onMatrix u fun m =>
    { m with claim := none, queue := m.queue ++ [{ tag := 256, op := 8, stripe := 0, lanes := 0, lane := 0, pc := 0, priv := .k, world := 0, ctx := 0, ptb := 0,
                                                      args := m.drain.map MatOp.tag }] }

/-- The claim of a gang without members is released (R179). -/
def State.settleClaim (s : State) (u : Nat) : State :=
  match (s.core u).matrix.claim with
  | some g => if ((s.core u).members g).isEmpty then s.releaseClaim u else s
  | none => s

/-- MXCLAIM completes (R179): the predicate says whether the gang holds the engine. -/
def State.doneClaim (s : State) (u g : Nat) (as : List Arrival) : State :=
  let m := (s.core u).matrix
  let ok := m.claim.isNone || m.claim == some g
  let s := if m.claim.isNone then s.onMatrix u fun m => { m with claim := some g } else s
  (as.foldl (fun s a => s.giveResult u a none (some ok)) s).closeGang u g

/-- MXFREE completes (R179, R307): the claim is released when every participant belongs to the claiming gang; otherwise each that does not traps, and the others go on (log 77). -/
def State.doneFree (s : State) (u g : Nat) (as : List Arrival) : State :=
  let bad := as.filter fun a => match (s.core u).matrix.claim with
    | some c => !(s.thread u a.stripe a.lane).gangs.getLsbD c
    | none => true
  if bad.isEmpty then (s.releaseClaim u).closeGang u g
  else if s.inHandler u bad then s
  else (s.closeGang u g).trapHeld u bad 0x15 0x20

/-- The operation of the elected issuer (R188); VR and VC are cut to the operation's size. -/
def State.mulOp (s : State) (u : Nat) (a : Arrival) (pc : Nat) : MatOp :=
  let th := s.thread u a.stripe a.lane
  let p := a.b % 2 ^ 64
  let o : MatOp := { tag := 256, op := 1, stripe := a.stripe, lanes := 0, lane := a.lane, pc := pc, priv := th.priv, world := s.worldOf u a.stripe a.lane,
                     ctx := (s.ctxOf u a.stripe a.lane).toNat, ptb := s.ptbOf u a.stripe a.lane, ptr := p, fmt := BitVec.ofNat 64 a.a,
                     block := bytesGet (s.core u).sram (ptrOff p) 128 }
  { o with args := [min (a.b / 2 ^ 64 % 2 ^ 32) (32 * o.nt), min (a.b / 2 ^ 96) 32] }

/-- The checks of the parameter block (R190): cause and detail of the first that fails. R190 names no consequence of an ADCV that breaks R167 otherwise than by CLS and SCF, of KLEN 0 and of a pitch below the packed row, and no rows for the SPACE check: those give ENGFAIL with detail "param", and the check covers the VR valid rows (DESIGN CHOICE, log 83). -/
def State.mulCheck (s : State) (u : Nat) (o : MatOp) : Option (Nat × Nat) :=
  let part := (s.partOf u).getD 0
  let c := s.core u
  let da := Descr.ofNat (o.fmt.toNat % 2 ^ 32)
  let db := o.descB
  let cv := Descr.ofNat (o.at 0x20 4)
  let ea := o.descA
  let x := Tab.get c.matrix.slots (bits o.mctl 15 15) {}
  let vr := o.arg 0
  let dst := (List.range o.nt).map (o.tile0 + ·)
  let bad (ts : List Nat) : Bool := ts.any fun t => decide (1024 ≤ t) || !((c.team.map fun m => m.owns t).getD false)
  let aw := ea.bitsPer
  let rowB := (o.klen * aw + 7) / 8
  let rsum := o.mctl.testBit 18
  let scaled := !o.asrc && ea.scf != 0
  let ecls := match db.bitsPer with
    | 4 => 0
    | 8 => 1
    | _ => 2
  let area (p n : Nat) : Option Nat := s.ownSpad u part p n
  let pitches := vr != 0
  match s.ownSpad u part o.ptr 128 with
  | some d => some (0x0C, d)
  | none =>
    if o.ptr % 128 != 0 then some (0x17, 0x12)
    else if da.bad false o.asrc || db.bad false false || (da.scf != 0 && db.scf != 0 && da.blk != db.blk) then some (0x02, 0x09)
    else if bad dst || bad o.aTiles then some (0x05, 0x23)
    else if !x.valid || x.ecls != ecls || x.scl != (if db.scf = 0 then 0 else 1) || x.blk != db.blk || decide (x.kcnt < o.klen) then some (0x17, 0x11)
    else if bits o.mctl 31 20 != 0 || o.at 0x2A 2 != 0 || bits (o.at 0x2C 2) 15 10 != 0 || (o.block.drop 0x2E).any (· != 0)
        || (o.asrc != (da.cls == 3)) || (o.asrc && (cv.bad true false || (cv.cls == 0 && cv.scf != 0)))
        || (o.asrc && o.aTiles.any dst.contains) || o.klen == 0 || (o.klen % 2 == 1 && (aw == 4 || db.bitsPer == 4))
        || (rsum && !o.int)
        || (!o.asrc && (o.at 0 8 % 16 != 0 || o.at 8 4 % 16 != 0 || decide (o.at 8 4 < (rowB + 15) / 16 * 16))) || (rsum && o.at 0x18 8 % 16 != 0) then some (0x17, 0x12)
    else
      let space := (if o.asrc || !pitches then none else area (o.at 0 8) ((vr - 1) * o.at 8 4 + rowB)).or
        ((if scaled && pitches then area (o.at 0x10 8) ((vr - 1) * o.at 0x0C 4 + (o.klen + ea.block - 1) / ea.block) else none).or
          (if rsum && pitches then area (o.at 0x18 8) ((4 * vr + 15) / 16 * 16) else none))
      space.map fun d => (0x0C, d)

/-- MXMUL completes (R188): the format vote, the wait for a full parameter block that the port gives (R118, R124, R183), the checks, then the operation is queued; participants stay held while there is no room. (log 34) -/
def State.doneMul (s : State) (u g : Nat) (as : List Arrival) : State :=
  match as with
  | [] => s.closeGang u g
  | a :: _ =>
    let o := s.mulOp u a ((s.thread u a.stripe a.lane).pc - 8).toNat
    let inside := o.ptr % 128 == 0 && (s.ownSpad u ((s.partOf u).getD 0) o.ptr 128).isNone
    let poisoned := inside && ((s.core u).readSram (ptrOff o.ptr) 128).2
    if (as.all fun x => x.a == a.a) && inside && (s.portBusy u (ptrOff o.ptr) 128 || (granRange (ptrOff o.ptr) 128).any fun g => (s.core u).clearing.contains (g / 4096) || !(s.core u).full g) then s
    else
    let fail : Option (Nat × Nat) :=
      if as.any fun x => x.a != a.a then some (0x09, 0)
      else if poisoned then some (0x13, 0) else s.mulCheck u o
    match fail with
    | some (c, d) => if s.inHandler u as then s else (s.closeGang u g).trapHeld u as c d
    | none => if (s.matWait u a.stripe false).isSome then s else (s.matAccept u o).closeGang u g

end Sys2Proof.Machine
end

