-- ==== Sys2Proof/Machine/Stage.lean ====
section
/-!
DEFINITION. The stage engine: tensor records, the layout of a box, the five stage commands, the transfer of their operations and their retirement (R95 to R106, R258 to R261).
-/
namespace Sys2Proof.Machine

/-! ## Tensor records (R96 to R99) -/

/-- A tensor record as its dimensions in use show it (R96): a dimension that is not in use has size 1, box 1, origin 0. -/
structure Tensor where
  base : Nat
  ctl  : Nat
  /-- Dimensions in use, and the element size code. -/
  ndim : Nat
  ecls : Nat
  size : List Nat
  /-- Strides and origins of dimensions 1 to 4; the origin of dimension 1 comes from the command. -/
  stride : List Int
  box  : List Nat
  org  : List Int
  deriving DecidableEq, Repr

/-- The record's 64 bytes read as R96 lays them out, with the command's origin of dimension 1. -/
def Tensor.ofBytes (b : List Byte) (org1 : Int) : Tensor :=
  let ctl := field b 8 4
  let nd := ctl % 8
  let used {α : Type} (d : Nat) (v dflt : α) : α := if d < nd then v else dflt
  { base := field b 0 8, ctl := ctl, ndim := nd, ecls := bits ctl 6 3,
    size := (List.range 5).map fun d => used d (field b (0x0C + 4 * d) 4) 1,
    stride := (List.range 4).map fun d => sext (field b (0x20 + 4 * d) 4) 32,
    box := (List.range 5).map fun d => used d (field b (0x30 + 2 * d) 2) 1,
    org := (List.range 4).map fun d => used (d + 1) (if d = 0 then org1 else sext (field b (0x3A + 2 * (d - 1)) 2) 16) 0 }

/-- Box extent of a dimension. -/
def Tensor.ext (t : Tensor) (d : Nat) : Nat := (t.box[d]?).getD 1
/-- Size of an element in half-bytes. -/
def Tensor.halves (t : Tensor) : Nat := 2 ^ t.ecls
/-- Bytes that one step of the engine moves of a row: an element, or two nibbles. -/
def Tensor.unit (t : Tensor) : Nat := if t.ecls = 0 then 1 else 2 ^ (t.ecls - 1)
/-- Bytes of a row without padding. -/
def Tensor.rowBytes (t : Tensor) : Nat := t.ext 0 * t.halves / 2
/-- The row pitch P (R99). -/
def Tensor.pitch (t : Tensor) : Nat := (t.ext 0 * t.halves + 31) / 32 * 16
/-- The fill byte (R96, R100). -/
def Tensor.fill (t : Tensor) : Nat := if bits t.ctl 8 7 = 1 then bits t.ctl 23 16 else 0

/-- Gather or scatter. -/
def StageOp.listed (o : StageOp) : Bool := o.op == 2 || o.op == 3
/-- The operation writes the scratchpad. -/
def StageOp.loads (o : StageOp) : Bool := o.op == 0 || o.op == 2
/-- The operation's record. -/
def StageOp.tensor (o : StageOp) : Tensor := Tensor.ofBytes o.record o.org1
/-- Rows of the layout: the box's, or the items (R99, R101). -/
def StageOp.rows (o : StageOp) : Nat := if o.listed then o.items else o.tensor.ext 1 * o.tensor.ext 2 * o.tensor.ext 3 * o.tensor.ext 4
/-- Bytes of the footprint (R99). (log 33) -/
def StageOp.footprint (o : StageOp) : Nat := o.tensor.pitch * o.rows

/-- A record that R97 refuses. -/
def StageOp.badRecord (o : StageOp) : Bool :=
  let t := o.tensor
  bits t.ctl 31 24 != 0 || bits t.ctl 15 9 != 0 || decide (2 ≤ bits t.ctl 8 7) || decide (6 ≤ t.ecls) || t.ndim == 0 || decide (6 ≤ t.ndim)
    || ptrOff t.base % t.unit != 0 || decide (2 ≤ ptrSpace t.base)
    || (t.box.zipIdx.any fun (x, d) => x == 0 && !(o.listed && d == 1))
    || (t.ecls == 0 && (t.ext 0 % 2 == 1 || o.org0 % 2 != 0))
    || decide (2 ^ 21 < o.footprint) || (o.listed && t.ndim != 2)

/-- Coordinates of dimensions 1 to 4 in a row (R98, R101); idx is the list's entry. -/
def StageOp.rowCoord (o : StageOp) (idx : Int) (j : Nat) : List Int :=
  let t := o.tensor
  if o.listed then [idx, 0, 0, 0]
  else
    let b1 := t.ext 1
    let b2 := t.ext 2
    let b3 := t.ext 3
    t.org.zipWith (fun a i => a + ((i : Nat) : Int)) [j % b1, j / b1 % b2, j / (b1 * b2) % b3, j / (b1 * b2 * b3)]

/-- One row of the layout: whether its upper coordinates are in bounds, and the offset of its element of coordinate 0. -/
structure Row where
  ok   : Bool
  zero : Int
  poison : Bool := false
  deriving DecidableEq, Repr

/-- A row of an operation. -/
def StageOp.row (o : StageOp) (idx : Int) (j : Nat) : Row :=
  let t := o.tensor
  let c := o.rowCoord idx j
  { ok := (c.zip (t.size.drop 1)).all fun (x, n) => decide (0 ≤ x) && decide (x < n),
    zero := (ptrOff t.base : Int) + ((c.zip t.stride).foldl (fun a (x, s) => a + x * s) 0) * 16 }

/-- What stands at one unit of a row: padding, fill, or memory at an offset with its lower and its upper nibble in bounds (R98, R100). -/
inductive UnitAt where
  | fill
  | mem (off : Int) (lo hi : Bool)
  deriving DecidableEq, Repr

/-- The unit at a byte of a row. -/
def StageOp.unitAt (o : StageOp) (r : Row) (b : Nat) : UnitAt :=
  let t := o.tensor
  if t.rowBytes ≤ b then .fill
  else
    let c0 := o.org0 + ((2 * b / t.halves : Nat) : Int)
    let isIn (c : Int) : Bool := r.ok && decide (0 ≤ c) && decide (c < (((t.size[0]?).getD 1 : Nat) : Int))
    let lo := isIn c0
    let hi := if t.ecls = 0 then isIn (c0 + 1) else lo
    if lo || hi then .mem (r.zero + c0 * t.halves / 2) lo hi else .fill

/-- The tagged pointer to an offset of the tensor; none outside the 52-bit offset (R98). -/
def StageOp.unitPtr (o : StageOp) (off : Int) : Option Nat :=
  if 0 ≤ off ∧ off < 2 ^ 52 then some (o.tensor.base / 2 ^ 52 * 2 ^ 52 + off.toNat) else none

/-! ## Accesses of an operation -/

/-- For whom an operation acts. -/
def State.stageCtx (s : State) (u : Nat) (o : StageOp) : EngCtx :=
  { unit := u, part := (s.partOf u).getD 0, ptb := o.ptb, priv := o.priv, world := o.world, tlb := .ahead u,
    stripe := o.stripe, lane := o.lane, pc := o.pc, ctx := o.ctx }

/-- Whom its records name: stage engine 0x400 + n (R25). -/
def StageOp.named (o : StageOp) (u : Nat) : EngOp := { eng := 0x400 + u, cls := 0, tag := o.tag, stripe := o.stripe, lane := o.lane, pc := o.pc, ctx := o.ctx }

/-- Element number of a byte of the footprint (R77). -/
def StageOp.elemOf (o : StageOp) (pos : Nat) : Nat :=
  let t := o.tensor
  pos / t.pitch * t.ext 0 + min (2 * (pos % t.pitch) / t.halves) (t.ext 0)

/-- The fault of an address outside the space (R98). R77 asks for the VA of the element, which the 64-bit pointer cannot hold: the record names the tensor's BASE (DESIGN CHOICE, log 33). -/
def StageOp.outside (o : StageOp) : Trap := { cause := 0x0C, dcode := 3, addr := o.tensor.base }

/-- The row that holds a byte of the footprint; the index entry of an item waits until its granule is full (R101). (log 33) -/
def State.stageRow (s : State) (u : Nat) (o : StageOp) (j : Nat) : Except EngStop Row :=
  if !o.listed then .ok (o.row 0 j)
  else
    let a := o.index + 4 * j
    let c := s.core u
    if c.clearing.contains (a / bankBytes) || !c.full (a / 16) || s.portBusy u a 4 then .error .wait
    else
      let (bs, bad) := c.readSram a 4
      .ok { o.row (sext (leNat bs) 32) j with poison := bad }

/-- What a step of an operation's transfer met. -/
structure Moved where
  s    : State
  /-- Bytes and poison of the units read so far, and the byte at which a stop stands. -/
  bs   : List Byte := []
  bad  : Bool := false
  stop : Option (Nat × EngStop) := none
  /-- Places of a scratchpad that a store has written whole. -/
  hits : List (Nat × Nat) := []

/-- The bytes of one unit of a load: read, or filled (R100). -/
def State.loadUnit (s : State) (c : EngCtx) (o : StageOp) (r : Row) (b : Nat) : State × Except EngStop (List Byte × Bool) :=
  let t := o.tensor
  let fill : Byte := BitVec.ofNat 8 t.fill
  match o.unitAt r b with
  | .fill => (s, .ok (List.replicate t.unit fill, false))
  | .mem off lo hi =>
    match o.unitPtr off with
    | none => (s, .error (.fault o.outside))
    | some p =>
      match s.engRead c p t.unit with
      | (s, .error e) => (s, .error e)
      | (s, .ok (bs, bad)) =>
        if t.ecls = 0 then
          let m : Byte := (if lo then 0x0F else 0) ||| (if hi then 0xF0 else 0)
          (s, .ok (bs.map fun x => (x &&& m) ||| (fill &&& ~~~m), bad))
        else (s, .ok (bs, bad))

/-- Where a byte of a row stands in the space of the tensor. -/
def StageOp.place (o : StageOp) (r : Row) (b : Nat) : Int := r.zero + o.org0 * o.tensor.halves / 2 + (b : Int)

/-- The operation stores to a scratchpad. -/
def StageOp.toSpad (o : StageOp) : Bool := !o.loads && o.op != 4 && ptrSpace o.tensor.base == 1

/-- Where a step from a byte of the footprint ends: behind the granule, or, for a store to a scratchpad, behind the destination granule or the row that ends in it (R105). -/
def StageOp.reach (o : StageOp) (r : Row) (pos : Nat) : Nat :=
  let t := o.tensor
  if !o.toSpad then (pos / 16 + 1) * 16
  else
    let b := pos % t.pitch
    let n := (16 - o.place r b % 16).toNat
    if t.rowBytes ≤ b + n then (pos / t.pitch + 1) * t.pitch else pos + n

/-- Units of a step from a byte: up to its end, or to a fault that walk-ahead has recorded (R77). -/
def StageOp.count (o : StageOp) (pos reach : Nat) : Nat := (min reach (o.fault.getD reach) - pos) / o.tensor.unit

/-- Units of a granule of a load from a byte of the row on. -/
def State.loadGranule (s : State) (c : EngCtx) (o : StageOp) (r : Row) (b count : Nat) : Moved :=
  let n := o.tensor.unit
  (List.range count).foldl (fun m k =>
    match m.stop with
    | some _ => m
    | none =>
      match m.s.loadUnit c o r (b + n * k) with
      | (s, .error e) => { m with s := s, stop := some (n * k, e) }
      | (s, .ok (bs, bad)) => { m with s := s, bs := m.bs ++ bs, bad := m.bad || bad || (r.poison && o.unitAt r (b + n * k) != UnitAt.fill) })
    { s := s }

/-- One unit of a store from the scratchpad: only its in-bounds elements are written (R100). It answers the place of a scratchpad that it covers whole; data for the scratchpad of a team that has gone is discarded (R106). -/
def State.storeUnit (s : State) (c : EngCtx) (o : StageOp) (r : Row) (b : Nat) (bs : List Byte) (bad : Bool) : State × Except EngStop (Option (Nat × Nat)) :=
  let t := o.tensor
  match o.unitAt r b with
  | .fill => (s, .ok none)
  | .mem off lo hi =>
    match o.unitPtr off with
    | none => (s, .error (.fault o.outside))
    | some p =>
      if t.ecls = 0 && !(lo && hi) then
        match s.engPlace c p 1 true with
        | (s, .error e) => (s, .error e)
        | (s, .ok pl) =>
          if o.orphan && (match pl with
            | .spad tu _ => tu == c.unit
            | _ => false) then (s, .ok none)
          else
          let (s, old, _) := s.engGet c pl 1
          let m : Byte := if lo then 0x0F else 0xF0
          (s.engPut c pl (bs.zipWith (fun x y => (x &&& m) ||| (y &&& ~~~m)) old) bad, .ok none)
      else
        match s.engPlace c p t.unit true with
        | (s, .error e) => (s, .error e)
        | (s, .ok pl) =>
          match pl with
          | .spad tu so => (if o.orphan && tu == c.unit then s else s.engPut c pl bs bad, .ok (some (tu, so)))
          | .mem _ | .denied _ _ => (s.engPut c pl bs bad, .ok none)

/-- The units of one row in one step of a store. (log 33) -/
def State.storeGranule (s : State) (c : EngCtx) (o : StageOp) (r : Row) (b count : Nat) (src : List Byte) (bad : Bool) (hits : List (Nat × Nat) := []) : Moved :=
  let n := o.tensor.unit
  (List.range count).foldl (fun m k =>
    match m.stop with
    | some _ => m
    | none =>
      match m.s.storeUnit c o r (b + n * k) ((src.drop (n * k)).take n) (bad || r.poison) with
      | (s, .error e) => { m with s := s, stop := some (n * k, e) }
      | (s, .ok h) => { m with s := s, hits := m.hits ++ h.toList }) { s := s, hits := hits }

/-- One line of a home fetched for SPREF (R102): false when it must wait. -/
def State.fetchHome (s : State) (part : Nat) (x : Xlat) : State × Bool :=
  match s.homeOf part x.pa with
  | none => (s, true)
  | some (sl, loc) =>
    if (s.frame (frameKey sl loc)).dead || s.resident sl loc then (s, true)
    else if s.bankTakes sl loc false false false then ((s.readPa part x.pa 1 x.compress).1, true)
    else (s, false)

/-- The units of one granule of SPREF; a fault drops the rest of the operation (R102). Its translations set no A bit, though R64 names only walk-ahead, run-ahead and LDSX (DESIGN CHOICE, log 75). -/
def State.prefGranule (s : State) (c : EngCtx) (o : StageOp) (r : Row) (b count : Nat) : Moved :=
  let n := o.tensor.unit
  (List.range count).foldl (fun m k =>
    match m.stop with
    | some _ => m
    | none =>
      match o.unitAt r (b + n * k) with
      | .fill => m
      | .mem off _ _ =>
        match o.unitPtr off with
        | none => { m with stop := some (n * k, .fault o.outside) }
        | some p =>
          match m.s.engPlace c p n false false with
          | (s, .error e) => { m with s := s, stop := some (n * k, e) }
          | (s, .ok (.spad _ _)) | (s, .ok (.denied _ _)) => { m with s := s }
          | (s, .ok (.mem x)) =>
            match s.fetchHome c.part x with
            | (s, true) => { m with s := s }
            | (s, false) => { m with s := s, stop := some (n * k, .wait) }) { s := s }

/-- The poison of one granule with no source read (R78); false when it must wait. -/
def State.poisonGranule (s : State) (u : Nat) (c : EngCtx) (o : StageOp) (r : Row) (pos count : Nat) : State × Bool :=
  let n := o.tensor.unit
  let b := pos % o.tensor.pitch
  if o.loads then
    let off := o.spad + pos / 16 * 16
    if ((s.core u).spadRun off 16).isSome then (s, true)
    else if (s.core u).clearing.contains (off / bankBytes) || s.portBusy u off 16 then (s, false)
    else (s.onCore u fun k => (if o.orphan then k else k.poisonRun off 16).setFull (off / 16) true, true)
  else if o.op = 4 then (s, true)
  else
    (List.range count).foldl (fun (s, ok) k =>
      if !ok then (s, ok)
      else
        match o.unitAt r (b + n * k) with
        | .fill => (s, ok)
        | .mem off _ _ => match o.unitPtr off with
          | none => (s, ok)
          | some p => if o.orphan && ptrSpace p == 1 && s.coreOfRank c.part (ptrRank p) == some u then (s, ok) else s.engPoison c p n) (s, true)

/-- Changes one operation of a core. -/
def State.onStage (s : State) (u : Nat) (o : StageOp) (f : StageOp → StageOp) : State :=
  s.onCore u fun c => { c with stage := mapIf (fun x : StageOp => x.tag == o.tag) f c.stage }

/-- An operation stops at a byte of its footprint: the record is posted once, and SPREF drops its rest (R77, R102). -/
def State.stageFault (s : State) (u : Nat) (o : StageOp) (pos : Nat) (t : Trap) : State :=
  if o.op = 4 then s.onStage u o fun x => { x with complete := true }
  else (s.engFault (s.stageCtx u o) (o.named u) t (o.elemOf pos)).onStage u o fun x => { x with next := pos, fault := some pos }

/-- An operation has moved up to a byte of its footprint. -/
def State.stageReach (s : State) (u : Nat) (o : StageOp) (reach : Nat) : State :=
  s.onStage u o fun x => { x with next := reach, complete := decide (o.footprint ≤ reach) }

/-- The end of a step at a byte: progress, or the stop it met. -/
def State.stageEnd (s : State) (u : Nat) (o : StageOp) (stop : Option (Nat × EngStop)) (reach : Nat) : State :=
  match stop with
  | none => s.stageReach u o reach
  | some (k, .wait) => s.onStage u o fun x => { x with next := o.next + k }
  | some (k, .fault t) => s.stageFault u o (o.next + k) t

/-- What a load writes to a granule of its footprint from the granule's first byte (R99, R103, R106): a whole granule becomes full; of one that a fault cuts, the elements before the fault. The data of a team that has gone is discarded. -/
def State.stageWrite (s : State) (u : Nat) (o : StageOp) (pos : Nat) (bs : List Byte) (bad : Bool) : State :=
  if bs.isEmpty then s
  else
    s.onCore u fun k =>
      let g := (o.spad + pos) / 16
      let whole := bs.length == 16
      let k := if o.orphan then k else (k.writeSram (o.spad + pos) bs).setPoisoned g (bad || (!whole && k.poisoned g))
      if whole then k.setFull g true else k

/-- What a load has read of the granule in which it stands. -/
def State.stageGot (s : State) (u : Nat) (o : StageOp) (bs : List Byte) (bad : Bool) : State :=
  s.onStage u o fun x => if bs.length = 16 then { x with got := [], gotBad := false } else { x with got := bs, gotBad := bad }

/-- A granule of a load (R98 to R100, R105): all its units are read before any is written, so that it holds the bytes of one operation; a fault leaves the elements before it, and behind the fault the bytes already read keep their values. -/
def State.loadStep (s : State) (u : Nat) (o : StageOp) (r : Row) (pos : Nat) : State :=
  let m := s.loadGranule (s.stageCtx u o) o r (o.next % o.tensor.pitch) (o.count o.next (pos + 16))
  let bs := o.got ++ m.bs
  let bad := o.gotBad || m.bad
  let moved := (m.s.stageWrite u o pos bs bad).stageGot u o bs bad
  match m.stop with
  | some (_, .wait) => m.s
  | some (k, .fault t) => moved.stageFault u o (o.next + k) t
  | none => moved.stageReach u o (pos + bs.length)

/-- What keeps a step of a store from its source granules: a bank being cleared, an earlier access at the port, a granule that is not full (R103, R118, R124). -/
def State.sourceHeld (s : State) (u : Nat) (o : StageOp) (pos reach : Nat) : Bool :=
  let c := s.core u
  let gs := granRange (o.spad + pos) (reach - pos)
  gs.any (fun g => c.clearing.contains (g / 4096)) || s.portBusy u (o.spad + pos) (reach - pos) || (!o.loads && o.wf && !gs.all c.full)

/-- A row of a store to a scratchpad is joined to the next one when that begins in the granule in which the row ends (R105). -/
def StageOp.joined (o : StageOp) (r r' : Row) : Bool :=
  let last := o.place r (o.tensor.rowBytes - 1)
  o.toSpad && r.ok && r'.ok && o.place r' 0 / 16 == last / 16

/-- The rows of one step of a store from a byte of the footprint on (R100, R101, R103); n bounds the rows that one granule joins. A step that meets a wait is taken again as a whole. (log 55) -/
def State.storeRows (n : Nat) (s : State) (u : Nat) (o : StageOp) (hits : List (Nat × Nat)) (r : Row) : Option (StageOp × Moved) :=
  let t := o.tensor
  let reach := o.reach r o.next
  if s.sourceHeld u o o.next reach then none
  else
    let k := o.count o.next reach
    let (src, bad) := (s.core u).readSram (o.spad + o.next) (k * t.unit)
    let m := s.storeGranule (s.stageCtx u o) o r (o.next % t.pitch) k src bad hits
    let o' := { o with next := o.next + k * t.unit }
    match n, m.stop with
    | _, some (_, .wait) => if o.toSpad then none else some (o, m)
    | _, some (_, .fault _) | 0, none => some (match m.stop with
      | none => o'
      | some _ => o, m)
    | n + 1, none =>
      if !o.toSpad || o'.next % t.pitch != 0 || o.footprint ≤ o'.next || o.fault.any (· ≤ o'.next) then some (o', m)
      else match m.s.stageRow u o (o'.next / t.pitch) with
        | .error _ => if o.listed then none else some (o', m)
        | .ok r' => if o.joined r r' then m.s.storeRows n u o' m.hits r' else some (o', m)

/-- A step of a store: a scratchpad granule that it covers from its first byte to its last becomes full (R103). -/
def State.storeStep (s : State) (u : Nat) (o : StageOp) (r : Row) : State :=
  match s.storeRows 16 u o [] r with
  | none => s
  | some (o', m) =>
    let covered (g : Nat × Nat) : Bool := (List.range (16 / o.tensor.unit)).all fun k => m.hits.contains (g.1, g.2 * 16 + o.tensor.unit * k)
    let full := ((m.hits.map fun h => (h.1, h.2 / 16)).eraseDups).filter covered
    let s := full.foldl (fun s g => s.onCore g.1 fun k => k.setFull g.2 true) m.s
    match m.stop with
    | some (k, .fault t) => s.stageFault u o (o'.next + k) t
    | some (k, .wait) => s.stageReach u o (o'.next + k)
    | none => s.stageReach u o o'.next

/-- One step of an operation's transfer (R98 to R103); one whose fault is recorded pauses when it arrives there (R77). -/
def State.stageStep (s : State) (u : Nat) (o : StageOp) : State :=
  let t := o.tensor
  let c := s.stageCtx u o
  let pos := if o.loads then o.next / 16 * 16 else o.next
  if o.fault.any (· ≤ o.next) then s
  else
    match s.stageRow u o (pos / t.pitch) with
    | .error _ => s
    | .ok r =>
      let reach := o.reach r pos
      if o.poisonRest then
        match s.poisonGranule u c o r pos ((reach - pos) / t.unit) with
        | (s, true) => s.stageReach u o reach
        | (s, false) => s
      else if o.op = 4 then
        let m := s.prefGranule c o r (pos % t.pitch) (o.count pos reach)
        m.s.stageEnd u o m.stop reach
      else if !o.loads then s.storeStep u o r
      else if s.sourceHeld u o pos reach then s
      else s.loadStep u o r pos

/-- The head operation of a stripe: the first that is not complete (R95). -/
def Core.stageHead (c : Core) (i : Nat) : Option StageOp := c.stage.find? fun o => o.stripe == i && !o.complete

/-- Up to n granules for the head operation of a stripe. -/
def State.stageRun (n : Nat) (s : State) (u i : Nat) : State :=
  match n with
  | 0 => s
  | k + 1 =>
    match (s.core u).stageHead i with
    | none => s
    | some o => State.stageRun k (s.stageStep u o) u i

/-- The stripe whose head operation moves next (R95): the first behind the one served last whose operation can move. -/
def State.stageTurn (s : State) (u : Nat) : Option Nat :=
  let last := (s.core u).stageLast
  ((List.range 16).map fun k => (last + 1 + k) % 16).find? fun i => (s.partOf u).isSome && (s.core u).stage.any (fun o => o.stripe == i && !o.complete) && ((State.stageRun 8 s u i).core u).stage != (s.core u).stage

/-- STAGE_TRANSFER (R95): 128 bytes of the head operation of a stripe whose turn it is. (log 55) -/
def execStageTransfer (u i : Nat) (s : State) : Host.Outcome State Fault Refusal :=
  let s' := (State.stageRun 8 s u i).onCore u fun c => { c with stageLast := i }
  let moved (s : State) : Nat := ((s.core u).stage.map fun o => if o.op = 4 then 0 else o.next).sum
  .next (if s.stageTurn u == some i then s'.meter ((s.partOf u).getD 0) 0 (moved s' - moved s) else s)

/-- STAGE_RETIRE (R104): the oldest operation of a stripe retires once it is complete. -/
def execStageRetire (u i : Nat) (s : State) : Host.Outcome State Fault Refusal :=
  .next (match (s.core u).stage.find? fun o => o.stripe == i with
    | none => s
    | some o =>
      if !o.complete || (s.partOf u).isNone then s
      else (s.onCore u fun c => { c with stage := c.stage.filter fun x => x.tag != o.tag }).retire u i 0 o.ring o.orphan)

/-- Pages that the units of the granules from a byte to another touch. -/
def State.aheadPages (s : State) (u : Nat) (o : StageOp) (from_ reach : Nat) : List Nat :=
  ((List.range ((reach + 15 - from_) / 16)).flatMap fun k =>
    let pos := from_ / 16 * 16 + 16 * k
    match s.stageRow u o (pos / o.tensor.pitch) with
    | .error _ => []
    | .ok r => (List.range (16 / o.tensor.unit)).filterMap fun j => match o.unitAt r (pos % o.tensor.pitch + o.tensor.unit * j) with
      | .mem off _ _ => (o.unitPtr off).map (· / 8192)
      | .fill => none).eraseDups

/-- WALK_AHEAD (R67, R77): the units of the next granule ahead of the transfer are translated, up to 64 pages ahead; a fault is recorded when it is met. (log 24) -/
def execWalkAhead (u i : Nat) (s : State) : Host.Outcome State Fault Refusal :=
  .next (match (s.core u).stageHead i with
    | none => s
    | some o =>
      let pos := max o.walked o.next / 16 * 16
      if (s.partOf u).isNone || s.inDrain u || o.fault.isSome || o.poisonRest || o.op = 4 || o.footprint ≤ pos || 64 < (s.aheadPages u o o.next (pos + 16)).length then s
      else
        match s.stageRow u o (pos / o.tensor.pitch) with
        | .error _ => s
        | .ok r =>
          let c := s.stageCtx u o
          let n := o.tensor.unit
          let write := !o.loads
          let (s, bad) := (List.range (16 / n)).foldl (fun ((s, bad) : State × Option (Nat × Trap)) k =>
            match bad, o.unitAt r (pos % o.tensor.pitch + n * k) with
            | some _, _ => (s, bad)
            | none, .fill => (s, none)
            | none, .mem off _ _ => match o.unitPtr off with
              | none => (s, some (pos + n * k, o.outside))
              | some p =>
                match s.checkPtr u c.part c.world c.priv p n write with
                | .error d => (s, some (pos + n * k, { cause := 0x0C, dcode := d, addr := p }))
                | .ok (.global va) =>
                  match s.translate { part := c.part, ptb := c.ptb, priv := c.priv, need := if write then .write else .read, tlb := c.tlb, setA := false } va with
                  | (s, .error (.held _)) => (s, none)
                  | (s, .error e) => (s, some (pos + n * k, e.trap p))
                  | (s, .ok _) => (s, none)
                | .ok _ => (s, none)) (s, none)
          match bad with
          | none => s.onStage u o fun x => { x with walked := pos + 16 }
          | some (at_, t) => (s.engFault c (o.named u) t (o.elemOf at_)).onStage u o fun x => { x with walked := at_, fault := some at_ })

/-! ## The commands (R260, R261) -/

/-- The checked operation of a lane. -/
def State.stageOp (s : State) (op : Nat) (f : FmtE) (l : Nat) (b : List Byte) : StageOp :=
  let t := s.curThread l
  let idx := (t.reg (f.sc.toNat + 1)).toNat
  let listed := op = 2 ∨ op = 3
  { tag := 0, op := op, stripe := s.cur.stripe, lane := l, pc := s.cur.pc.toNat, priv := s.curPriv, world := s.worldOf s.cur.unit s.cur.stripe l,
    ctx := (s.ctxOf s.cur.unit s.cur.stripe l).toNat, ptb := s.ptbOf s.cur.unit s.cur.stripe l, record := b,
    org0 := sext (t.reg f.sc.toNat).toNat 32, org1 := if listed then 0 else sext idx 32,
    spad := ptrOff (t.pair f.sb.toNat).toNat, index := if listed then idx % 2 ^ 21 else 0, items := if listed then bits idx 30 21 + 1 else 0,
    ring := if f.x.getLsbD 8 then some (bits f.x.toNat 7 4, bits f.x.toNat 3 0) else none, wf := f.imm8.getLsbD 0 }

/-- The scratchpad checks of a command (R261). -/
def State.stageSpad (s : State) (f : FmtE) (o : StageOp) : Option Trap :=
  let p := ((s.curThread o.lane).pair f.sb.toNat).toNat
  let c := s.core s.cur.unit
  if o.op = 4 then none
  else if ptrSpace p != 1 then some { cause := 0x0C, dcode := 1, lane := o.lane, addr := p }
  else if s.coreOfRank s.curPart (ptrRank p) != some s.cur.unit then some { cause := 0x0C, dcode := 2, lane := o.lane, addr := p }
  else if p % 16 != 0 then some { cause := 0x0D, lane := o.lane, addr := p }
  else
    match c.spadRun (ptrOff p) o.footprint with
    | some d => some { cause := 0x0C, dcode := d, lane := o.lane, addr := p }
    | none =>
      if !o.listed then none
      else if o.index % 4 != 0 then some { cause := 0x0D, lane := o.lane, addr := o.index }
      else (c.spadRun o.index (4 * o.items)).map fun d => { cause := 0x0C, dcode := d, lane := o.lane, addr := o.index }

/-- Accepts checked operations one by one (R258): the counter rises, the tag goes to gD, and a load's footprint becomes empty (R103). The first that finds no room blocks the word with those behind it. (log 17) -/
def State.stageAccept (s : State) (dst : Option Nat) (b : Bool) (ops : List StageOp) : State :=
  let u := s.cur.unit
  match ops with
  | [] => s.finishPlain b
  | o :: rest =>
    let hold (w : Wait) : State := (s.onCore u fun c => { c with stageWait := c.stageWait ++ o :: rest }).blockPart w
    if s.curStripe.counterFull 0 then hold (.counter 0)
    else if 64 ≤ (s.core u).stage.length then hold (.queue 0)
    else
      let tag := nextTag ((s.core u).stage.map StageOp.tag) (s.core u).stageTag
      let s := s.onCore u fun c =>
        let c : Core := { c with stage := c.stage ++ [{ o with tag := tag, complete := decide (o.footprint = 0) }], stageTag := (tag + 1) % 256 }
        if o.loads then (List.range (o.footprint / 16)).foldl (fun c k => c.setFull (o.spad / 16 + k) false) c else c
      let s := s.onCur fun t =>
        let t := t.count 0 (· + 1)
        match dst with
        | some d => t.onLane o.lane fun th => th.setReg d (BitVec.ofNat 32 tag)
        | none => t
      State.stageAccept s dst b rest

/-- A stage command (R258, R260, R261). (log 38) -/
def State.stageWord (s : State) (op : Nat) (f : FmtE) : State :=
  s.command f.hdr 1 false fun s lanes =>
    let dst := if op = 4 then none else some f.dst.toNat
    let mine (o : StageOp) : Bool := o.stripe == s.cur.stripe && o.pc == s.cur.pc.toNat && s.cur.lanes.getLsbD o.lane
    let held := (s.core s.cur.unit).stageWait.filter mine
    if !held.isEmpty then (s.onCore s.cur.unit fun c => { c with stageWait := c.stageWait.filter fun o => !mine o }).stageAccept dst f.hdr.b held
    else
      let src (r : BitVec 7) (p : Bool) : List (Nat × Bool) := [(r.toNat, p), (r.toNat + 1, p)]
      match s.checkSem lanes fun _ => { srcs := src f.sa f.fa ++ (if op = 4 then [] else src f.sb f.fb) ++ src f.sc f.fc, dsts := dst.toList, apply := fun _ t => t } with
      | .error e => s.stopWord noRunAhead e
      | .ok _ =>
        let ptrs := lanes.map fun l => (l, ((s.curThread l).pair f.sa.toNat).toNat)
        match pointerTrap true 16 ptrs with
        | some t => s.stopWord noRunAhead (.trap t)
        | none =>
        match s.readBlocks 4 dst.toList ptrs with
        | .error s => s
        | .ok (s, bs) =>
          let ops := bs.map fun (l, b) => s.stageOp op f l b
          match ops.find? fun o => o.badRecord || (o.listed && ((s.curThread o.lane).reg (f.sc.toNat + 1)).getLsbD 31) with
          | some o => s.stopWord noRunAhead (.trap { cause := 0x17, dcode := 0x0D, lane := o.lane, addr := ((s.curThread o.lane).pair f.sa.toNat).toNat })
          | none =>
            match ops.findSome? (s.stageSpad f) with
            | some t => s.stopWord noRunAhead (.trap t)
            | none => s.stageAccept dst f.hdr.b ops

/-- SLOAD (R261). -/
def execSload (f : FmtE) (s : State) : Host.Outcome State Fault Refusal := .next (s.stageWord 0 f)
/-- SSTORE (R261). -/
def execSstore (f : FmtE) (s : State) : Host.Outcome State Fault Refusal := .next (s.stageWord 1 f)
/-- SGATHER (R261). -/
def execSgather (f : FmtE) (s : State) : Host.Outcome State Fault Refusal := .next (s.stageWord 2 f)
/-- SSCATTER (R261). -/
def execSscatter (f : FmtE) (s : State) : Host.Outcome State Fault Refusal := .next (s.stageWord 3 f)
/-- SPREF (R261). -/
def execSpref (f : FmtE) (s : State) : Host.Outcome State Fault Refusal := .next (s.stageWord 4 f)

end Sys2Proof.Machine
end

