-- ==== Sys2Proof/Machine/Allotment.lean ====
section
/-!
DEFINITION. TAKE and GIVE: extended blocks, scratchpad banks and till tiles move between a team and its core (R118, R119, R150, R151, R155 to R158, R267 to R269).
-/
namespace Sys2Proof.Machine

/-! ## Arrival (R267) -/

/-- The request of a TAKE or GIVE word: operand register when it has one, destination when it has one, whether it is a till access (R132). -/
def State.takeReq (s : State) (key : Nat) (f : FmtE) (operand dst till : Bool) : GangReq :=
  let try_ := f.x.getLsbD 7
  { key := 2 * key + (if try_ then 1 else 0), gang := f.imm8.toNat % 32, mreg := if f.x.getLsbD 8 then some (f.sc.toNat, f.fc) else none,
    srcs := if operand then [(f.sb.toNat, f.fb)] else [], dsts := if dst then [f.dst.toNat] else [],
    a := fun t => if operand then (t.reg f.sb.toNat).toNat else 0, dst := if dst then f.dst.toNat else 128, pd := if try_ then bits f.x.toNat 6 4 else 7, holds := true,
    check := fun l => if !till || s.tillOk s.cur.unit s.cur.stripe l then none else some { cause := 0x0B, lane := l } }

/-- TAKE.r (R156). -/
def execTakeR (f : FmtE) (s : State) : Host.Outcome State Fault Refusal := .next (s.gangWord f.hdr (s.takeReq 0x198 f true false false))
/-- TAKE.s (R157). -/
def execTakeS (f : FmtE) (s : State) : Host.Outcome State Fault Refusal := .next (s.gangWord f.hdr (s.takeReq 0x199 f false true false))
/-- TAKE.k (R158). -/
def execTakeK (f : FmtE) (s : State) : Host.Outcome State Fault Refusal := .next (s.gangWord f.hdr (s.takeReq 0x19A f true true true))
/-- GIVE.r (R156). -/
def execGiveR (f : FmtE) (s : State) : Host.Outcome State Fault Refusal := .next (s.gangWord f.hdr (s.takeReq 0x19C f true false false))
/-- GIVE.s (R157). -/
def execGiveS (f : FmtE) (s : State) : Host.Outcome State Fault Refusal := .next (s.gangWord f.hdr (s.takeReq 0x19D f true false false))
/-- GIVE.k (R158). -/
def execGiveK (f : FmtE) (s : State) : Host.Outcome State Fault Refusal := .next (s.gangWord f.hdr (s.takeReq 0x19E f true false true))

/-! ## Resources -/

/-- Blocks of a mask that a thread has not mapped. -/
def Thread.unmapped (t : Thread) (m : Nat) : Nat := (List.range 12).countP fun b => m.testBit b && !t.blocks.getLsbD b
/-- Blocks of a mask that a thread has mapped. -/
def Thread.mappedIn (t : Thread) (m : Nat) : Nat := (List.range 12).countP fun b => m.testBit b && t.blocks.getLsbD b

/-- The registers of newly mapped blocks read zero and are full (R156). -/
def Thread.mapBlocks (t : Thread) (m : Nat) : Thread :=
  let new (r : Nat) : Bool := decide (32 ≤ r) && m.testBit ((r - 32) / 8) && !t.blocks.getLsbD ((r - 32) / 8)
  { t with g := t.g.filter fun e => !new e.1, empty := (List.range 128).foldl (fun e r => if new r then setBit e r false else e) t.empty, blocks := t.blocks ||| BitVec.ofNat 12 m }

/-- Blocks are unmapped and their contents lost (R156). -/
def Thread.unmapBlocks (t : Thread) (m : Nat) : Thread :=
  let gone (r : Nat) : Bool := decide (32 ≤ r) && m.testBit ((r - 32) / 8) && t.blocks.getLsbD ((r - 32) / 8)
  { t with g := t.g.filter fun e => !gone e.1, blocks := t.blocks &&& ~~~(BitVec.ofNat 12 m) }

/-- The lowest run of n tiles outside the allotment (R158). -/
def Team.freeRun (t : Team) (n : Nat) : Option Nat := (List.range 1024).find? fun k => decide (k + n ≤ 1024) && (List.range n).all fun j => !t.owns (k + j)

/-- The units a TAKE.r asks for (R156). -/
def State.unitsFor (s : State) (u : Nat) (as : List Arrival) (m : Nat) : Nat := as.foldl (fun n a => n + (s.thread u a.stripe a.lane).unmapped m) 0

/-- A request can be granted now (R156 to R158). -/
def State.canTake (s : State) (u : Nat) (t : Taking) : Bool :=
  let c := s.core u
  match t.kind, c.team with
  | 0, some x => decide (x.used + s.unitsFor u t.parts t.arg ≤ x.pool)
  | 1, _ => (List.range 32).any fun b => c.mode b == 0
  | 2, some x => (x.freeRun t.count).isSome
  | _, none => false
  | _, _ => false

/-- Held participants go on with a result and a predicate. -/
def State.release (s : State) (u : Nat) (as : List Arrival) (v : Option Nat) (p : Option Bool) : State :=
  as.foldl (fun s a => (s.giveResult u a v p).onThread u a.stripe a.lane fun t => match t.status with
    | .waiting (.take _) => { t with status := .ready }
    | .waiting (.gang _) => { t with status := .ready }
    | _ => t) s

/-- A bank enters S or F mode, and its clearing begins (R118). -/
def State.openBank (s : State) (u b m : Nat) : State :=
  s.onCore u fun c => { (c.enterBank b m).trimLines b with clearAt := Tab.set c.clearAt b (s.gtc + clkTicks 512) }

/-- A TAKE is granted (R156 to R158). -/
def State.grantTake (s : State) (u : Nat) (t : Taking) : State :=
  let c := s.core u
  match t.kind with
  | 0 =>
    let n := s.unitsFor u t.parts t.arg
    let s := t.parts.foldl (fun s a => s.onThread u a.stripe a.lane fun th => th.mapBlocks t.arg) s
    (s.onCore u fun c => { c with team := c.team.map fun x => { x with used := x.used + n } }).release u t.parts none (some true)
  | 1 =>
    let b := ((List.range 32).find? fun b => c.mode b == 0).getD 0
    (s.openBank u b 1).release u t.parts (some b) (some true)
  | _ =>
    match c.team.bind fun x => x.freeRun t.count with
    | none => s
    | some k =>
      let tiles := (List.range t.count).map (k + ·)
      (s.onCore u fun c => { tiles.foldl Core.clearTile c with team := c.team.map fun x => { x with taken := x.taken ++ tiles } }).release u t.parts (some k) (some true)

/-! ## What operations in flight use (R119, R158) -/

/-- A run of bytes at a tagged pointer lies in a bank of a core. -/
def State.runIn (s : State) (part u b p n : Nat) : Bool :=
  ptrSpace p == 1 && s.coreOfRank part (ptrRank p) == some u && n != 0 && decide (ptrOff p / bankBytes ≤ b) && decide (b ≤ (ptrOff p + n - 1) / bankBytes)

/-- A run of bytes at a scratchpad offset lies in a bank. -/
def offIn (b off n : Nat) : Bool := n != 0 && decide (off / bankBytes ≤ b) && decide (b ≤ (off + n - 1) / bankBytes)

/-- A matrix or drain operation of core v uses a bank of core u (R119). -/
def State.matUses (s : State) (part u b v : Nat) (o : MatOp) : Bool :=
  let own (off n : Nat) : Bool := v == u && offIn b off n
  match o.op with
  | 0 => own (ptrOff o.ptr) 64 || own (ptrOff (o.at 0 8)) o.ldbRead || (o.lctl.testBit 16 && own (ptrOff (o.at 0x10 8)) (o.ldbRead / 512)) || own (ptrOff (o.at 0x18 8)) o.ldbScales
  | 1 =>
    let vr := o.arg 0
    own (ptrOff o.ptr) 128
      || (!o.asrc && vr != 0 && own (ptrOff (o.at 0 8)) ((vr - 1) * o.at 8 4 + (o.klen * o.descA.bitsPer + 7) / 8))
      || (!o.asrc && vr != 0 && o.descA.scf != 0 && own (ptrOff (o.at 0x10 8)) ((vr - 1) * o.at 0x0C 4 + (o.klen + o.descA.block - 1) / o.descA.block))
      || (o.mctl.testBit 18 && own (ptrOff (o.at 0x18 8)) (4 * vr))
  | 3 | 4 => s.runIn part u b o.ptr (4096 * o.arg 1)
  | 7 =>
    own (ptrOff o.ptr) 128 || (o.dctl.testBit 19 && own (ptrOff (o.at 0x10 8)) 128) || (o.dctl.testBit 20 && own (ptrOff (o.at 0x18 8)) (4 * o.drows))
      || (List.range o.drows).any fun i => match o.drainPtr i with
        | some p => s.runIn part u b p o.rowRun
        | none => false
  | _ => false

/-- The in-bounds elements of a row of an operation lie in a bank, by their offsets (R98). -/
def StageOp.rowIn (o : StageOp) (r : Row) (b : Nat) : Bool :=
  let t := o.tensor
  let lo := max o.org0 0
  let hi := min (o.org0 + t.ext 0) (((t.size[0]?).getD 1 : Nat) : Int)
  let first := r.zero + lo * t.halves / 2
  let last := r.zero + (hi * t.halves + 1) / 2
  r.ok && decide (lo < hi) && decide (first < ((bankBytes * (b + 1) : Nat) : Int)) && decide (((bankBytes * b : Nat) : Int) < last)

/-- A stage operation of core v uses a bank of core u (R119): its footprint, its index list, or a row of its tensor lies there; a row whose list entry is not there yet may. -/
def State.stageUses (s : State) (part u b v : Nat) (o : StageOp) : Bool :=
  (v == u && o.op != 4 && (offIn b o.spad o.footprint || (o.listed && offIn b o.index (4 * o.items))))
    || (ptrSpace o.tensor.base == 1 && s.coreOfRank part (ptrRank o.tensor.base) == some u
        && (List.range o.rows).any fun j => match s.stageRow v o j with
          | .error _ => true
          | .ok r => o.rowIn r b)

/-- A barrow operation uses a bank of a core. -/
def State.barrowUses (s : State) (part u b : Nat) (o : BarrowOp) : Bool := !o.complete && o.ends.any fun e => e.kind == 0 && s.runIn part u b e.addr o.len

/-- A channel message uses a bank of its receiver. -/
def Core.chanUses (c : Core) (b : Nat) : Bool := c.chans.any fun (_, ch) => ch.bank == b && !ch.flight.isEmpty

/-- An operation in flight reads or writes a bank (R119); a qualified access that waits at the bank's port counts as one, so that it never meets the bank in C mode (log 40). -/
def State.bankBusy (s : State) (u b : Nat) : Bool :=
  let part := (s.partOf u).getD 0
  (s.core u).chanUses b || (s.granq.any fun g => g.target == u && g.off / bankBytes == b)
    || (s.cores.any fun (v, c) => (c.stage.any fun o => s.stageUses part u b v o) || (c.matrix.queue ++ c.matrix.drain).any fun o => s.matUses part u b v o)
    || s.slices.any fun (_, k) => k.barrows.any fun (_, w) => w.ops.any fun o => s.barrowUses part u b o

/-- A matrix or drain operation in flight uses a tile (R158). -/
def Core.tileBusy (c : Core) (t : Nat) : Bool := (c.matrix.queue ++ c.matrix.drain).any fun o => o.tiles.contains t

/-! ## Completion (R155 to R158, R268, R269) -/

/-- First tile and count of a GIVE.k operand (R267). -/
def giveTiles (arg : Nat) : List Nat := (List.range (bits arg 21 16)).map (bits arg 9 0 + ·)

/-- A waiting GIVE may complete now; GIVE.s completes with its bank's return. -/
def State.canGive (s : State) (u : Nat) (t : Taking) : Bool :=
  match t.kind with
  | 0 => t.parts.all fun a => (List.range 96).all fun r => !t.arg.testBit (r / 8) || !(s.thread u a.stripe a.lane).blocks.getLsbD (r / 8) || !(s.thread u a.stripe a.lane).empty.getLsbD (32 + r)
  | 1 => false
  | _ => (giveTiles t.arg).all fun k => !(s.core u).tileBusy k

/-- A GIVE completes (R156, R158). -/
def State.grantGive (s : State) (u : Nat) (t : Taking) : State :=
  match t.kind with
  | 0 =>
    let n := t.parts.foldl (fun n a => n + (s.thread u a.stripe a.lane).mappedIn t.arg) 0
    let s := t.parts.foldl (fun s a => s.onThread u a.stripe a.lane fun th => th.unmapBlocks t.arg) s
    (s.onCore u fun c => { c with team := c.team.map fun x => { x with used := x.used - n } }).release u t.parts none none
  | 2 =>
    (s.onCore u fun c => { c with team := c.team.map fun x => { x with taken := x.taken.filter fun k => !(giveTiles t.arg).contains k },
                                  kdirty := c.kdirty.filter fun e => !(giveTiles t.arg).contains e.1 }).release u t.parts none none
  | _ => s.release u t.parts none none

/-- The operand limits of R268: cause XREG with this detail in every participant. -/
def State.takeBad (s : State) (u : Nat) (give : Bool) (kind arg : Nat) : Option Nat :=
  let c := s.core u
  match give, kind with
  | false, 2 => if arg % 64 = 0 ∨ 32 < arg % 64 then some 0x23 else none
  | true, 1 => if c.mode (arg % 32) != 1 then some 0x04 else none
  | true, 2 =>
    let n := bits arg 21 16
    if n = 0 ∨ 32 < n ∨ ((giveTiles arg).any fun t => !((c.team.map fun x => x.taken.contains t).getD false)) then some 0x23 else none
  | _, _ => none

/-- The rendezvous of a TAKE or GIVE is complete (R155, R268, R269): a trap, a .try answered at once, or a place in the order of its kind. -/
def State.doneTake (s : State) (u g key : Nat) (as : List Arrival) : State :=
  match as with
  | [] => s.closeGang u g
  | a :: _ =>
    let opc := key / 2
    let give := decide (0x19C ≤ opc)
    let kind := if give then opc - 0x19C else opc - 0x198
    match s.takeBad u give kind a.a with
    | some d => if s.inHandler u as then s else (s.closeGang u g).trapHeld u as 0x05 d
    | none =>
      let t : Taking := { kind := kind, give := give, arg := if kind = 0 then a.a % 4096 else a.a, count := a.a % 64, parts := as }
      let s := s.closeGang u g
      if key % 2 = 1 then
        if ((s.core u).takes.any fun x => !x.give && x.kind == kind) || !s.canTake u t then s.release u as (if kind = 0 then none else some 0xFFFFFFFF) (some false)
        else s.grantTake u t
      else
        let s := s.onCore u fun c => { c with takes := c.takes ++ [t], leaving := if give && kind == 1 && !c.leaving.contains (a.a % 32) then c.leaving ++ [a.a % 32] else c.leaving }
        as.foldl (fun s a => s.onThread u a.stripe a.lane fun th => { th with status := .waiting (.take kind) }) s

/-- The first waiting GIVE of a kind that may complete, else the first TAKE of the kind when it can be granted. -/
def State.nextTaking (s : State) (u kind : Nat) : Option Taking :=
  let ts := (s.core u).takes.filter fun t => t.kind == kind
  (ts.find? fun t => t.give && s.canGive u t).or ((ts.find? fun t => !t.give).filter fun t => s.canTake u t)

/-- TAKE_GRANT (R155 to R158). -/
def execTakeGrant (u kind : Nat) (s : State) : Host.Outcome State Fault Refusal :=
  .next (match s.nextTaking u kind with
    | none => s
    | some t =>
      let s := s.onCore u fun c => { c with takes := c.takes.erase t }
      if t.give then s.grantGive u t else s.grantTake u t)

/-- BANK_CLEAR_DONE (R118): 512 clk after a bank entered S or F mode. -/
def execBankClearDone (u b : Nat) (s : State) : Host.Outcome State Fault Refusal :=
  .next (s.onCore u fun c => if s.gtc < Tab.get c.clearAt b 0 then c else { c with clearing := c.clearing.filter (· != b), clearAt := Tab.erase c.clearAt b })

/-- BANK_RETURN (R119, R157): a bank returns to C mode once nothing in flight uses it, and the GIVE.s that named it completes. With its last bank back a core without a team can be placed again, which a decision follows as it follows the exit (log 41). -/
def execBankReturn (u b : Nat) (s : State) : Host.Outcome State Fault Refusal :=
  .next (if !(s.core u).leaving.contains b || s.bankBusy u b then s
    else
      let done (t : Taking) : Bool := t.give && t.kind == 1 && t.arg % 32 == b
      let gs := (s.core u).takes.filter done
      let s := s.onCore u fun c => { c.setMode b 0 with leaving := c.leaving.filter (· != b), clearing := c.clearing.filter (· != b), takes := c.takes.filter fun t => !done t }
      let s := if (s.core u).team.isNone && (s.core u).leaving.isEmpty then s.onPart ((s.partOf u).getD 0) fun p => { p with decide := true } else s
      gs.foldl (fun s t => s.grantGive u t) s)

end Sys2Proof.Machine
end

