-- ==== Sys2Proof/Machine/Transactions.lean ====
section
/-!
DEFINITION. Transactions: their words, the resolution of a group, and the commit protocol at the home slices (R315 to R328).
-/
namespace Sys2Proof.Machine

/-- A transaction word exists on SIMT and booth cores only (R315). -/
def State.txWord (s : State) (h : Hdr) (go : State → List Nat → State) : State :=
  match s.curKind with
  | .simt => if (s.active h).isEmpty then s.finishPlain h.b else go s (s.active h)
  | .booth => if (s.active h).isEmpty then s.finishPlain h.b else go s (s.active h)
  | _ => s.illegal

/-- The first failed operand check of TXBEGIN over the lanes at depth 0, check by check (R316). -/
def State.txCheck (s : State) (f : FmtE) (lanes : List Nat) : Option Trap :=
  let ptr (l : Nat) : Nat := ((s.curThread l).pair f.sa.toNat).toNat
  let cap (l : Nat) : Nat := ((s.curThread l).reg f.sb.toNat).toNat
  let tgt (l : Nat) : Nat := ((s.curThread l).pair f.sc.toNat).toNat
  let at_ (p : Nat → Bool) (cause dcode : Nat) (addr : Nat → Nat) : Option Trap := (lanes.find? p).map fun l => { cause := cause, dcode := dcode, lane := l, addr := addr l }
  (at_ (fun l => ptrSpace (ptr l) != 1 || s.coreOfRank s.curPart (ptrRank (ptr l)) != some s.curHome) 0x0C 2 ptr).or <|
  (at_ (fun l => ptr l % 16 != 0) 0x0D 0 ptr).or <|
  (at_ (fun l => cap l == 0 || decide (4096 < cap l) || ((s.core s.curHome).spadRun (ptrOff (ptr l)) (16 * cap l)).isSome) 0x0C 3 ptr).or <|
  at_ (fun l => tgt l % 8 != 0) 0x0D 0 tgt

/-- TXBEGIN (R316). -/
def execTxbegin (f : FmtE) (s : State) : Host.Outcome State Fault Refusal :=
  .next (s.txWord f.hdr fun s act =>
    let pairOf (r : BitVec 7) (p : Bool) : List (Nat × Bool) := [(r.toNat, p), (r.toNat + 1, p)]
    match s.checkSem act fun _ => { srcs := pairOf f.sa f.fa ++ [(f.sb.toNat, f.fb)] ++ pairOf f.sc f.fc, apply := fun _ t => t } with
    | .error e => s.stopWord noRunAhead e
    | .ok _ =>
      match s.txCheck f (act.filter fun l => (s.curThread l).tx.depth == 0) with
      | some t => s.stopWord noRunAhead (.trap t)
      | none =>
        let nest := act.filter fun l => (s.curThread l).tx.depth == 8
        let s := s.finish f.hdr.b fun l t =>
          if !act.contains l || t.tx.depth == 8 then t
          else if t.tx.depth != 0 then { t with tx := { t.tx with depth := t.tx.depth + 1 } }
          else { t with tx := { depth := 1, log := ptrOff (t.pair f.sa.toNat).toNat, cap := (t.reg f.sb.toNat).toNat, count := 0,
                                target := BitVec.ofNat 52 (t.pair f.sc.toNat).toNat, check := { g := (List.range 32).map t.reg, preds := t.preds, pc := t.pc } } }
        let s := nest.foldl (fun s l => s.abortLane s.cur.unit s.cur.stripe l (txCause 6)) s
        s.leaveGroup (laneMask nest.contains))

/-- TXABORT (R327). -/
def execTxabort (f : FmtE) (s : State) : Host.Outcome State Fault Refusal :=
  .next (s.txWord f.hdr fun s act => s.finishAborting f.hdr.b ((act.filter s.inTx).map fun l => (l, txCause 4 0 f.imm8.toNat)))

/-! ## Resolution of a group (R321) -/

/-- A member of a group: where it runs and its log. -/
structure Member where
  unit   : Nat
  stripe : Nat
  lane   : Nat
  log    : List TxEntry
  deriving DecidableEq, Repr

/-- A member of a thread at a place. -/
def State.member (s : State) (u i l : Nat) : Member := { unit := u, stripe := i, lane := l, log := (s.core (s.txHome u i l)).logEntries (s.thread u i l).tx }

/-- Two logs conflict (R321): a word that one has written is a word of the other. -/
def Member.conflicts (a b : Member) : Bool := a.log.any fun x => b.log.any fun y => x.va == y.va && (x.wmask != 0 || y.wmask != 0)

/-- Members in ascending TID: the kept ones and those that abort with INTRA (R321). -/
def resolveGroup (ms : List Member) : List Member × List Member :=
  ms.foldl (fun (kept, out) m => if kept.any m.conflicts then (kept, out ++ [m]) else (kept ++ [m], out)) ([], [])

/-! ## The start of a commit (R322) -/

/-- An entry translated again under checks 3 to 6 of R65; an error is the cause of the FAULT. -/
def State.txTranslate (s : State) (m : Member) (e : TxEntry) : State × Except Nat TxEntry :=
  let th := s.thread m.unit m.stripe m.lane
  let part := (s.partOf m.unit).getD 0
  let req (n : Need) : Req := { part := part, ptb := s.ptbOf m.unit m.stripe m.lane, priv := th.priv, need := n, tlb := .core m.unit, setD := false }
  let one (s : State) (n : Need) : State × Except Nat Xlat := match s.translate (req n) e.va with
    | (s, .error x) => (s, .error (x.trap e.va).cause)
    | (s, .ok x) => if x.pa < windowEnd then (s, .error 0x0F) else (s, .ok x)
  let both (s : State) : State × Except Nat Xlat :=
    if e.wmask = 0 then one s .read
    else if e.rd then (match one s .read with
      | (s, .error c) => (s, .error c)
      | (s, .ok _) => one s .write)
    else one s .write
  match both s with
  | (s, .error c) => (s, .error c)
  | (s, .ok x) =>
    match s.keyCheck { part := part, world := s.worldOf m.unit m.stripe m.lane, pass := false, key := x.key, isSealed := x.isSealed } x.pa with
    | (s, false) => (s, .error 0x10)
    | (s, true) => (s, .ok { e with pa := x.pa, key := x.key, compress := x.compress })

/-- Every entry of a log translated, or the cause of the first failure. (log 78) -/
def State.txTranslateAll (s : State) (m : Member) (es : List TxEntry) : State × Except Nat (List TxEntry) :=
  es.foldl (fun (s, r) e => match r with
    | .error c => (s, .error c)
    | .ok out => match s.txTranslate m e with
      | (s, .error c) => (s, .error c)
      | (s, .ok e) => (s, .ok (out ++ [e]))) (s, .ok [])

/-- The translation of an entry that sets the D bit of its leaf when the commit writes through it (R64). -/
def State.txLeaf (s : State) (m : Member) (e : TxEntry) : State × Except XFault Xlat :=
  s.translate { part := (s.partOf m.unit).getD 0, ptb := s.ptbOf m.unit m.stripe m.lane, priv := (s.thread m.unit m.stripe m.lane).priv, need := if e.wmask == 0 then .read else .write, tlb := .core m.unit } e.va

/-- What makes the end of a transaction wait before its log is translated: a bank of the log that is being cleared (R118), a table entry that another commit holds reserved (R323) or whose home cannot serve it. -/
def State.txHeld (s : State) (m : Member) : Option Wait :=
  (s.logClearing m.unit m.stripe m.lane).or (m.log.findSome? fun (e : TxEntry) => match (s.txLeaf m e).2 with
    | .error x => x.wait?
    | .ok _ => none)

/-- The commit unit of an entry: its home bank (R322). -/
def State.txBank (s : State) (part : Nat) (e : TxEntry) : Nat := match s.homeOf part e.pa with
  | some (sl, loc) => bankOf sl loc
  | none => 0

/-- The transaction of a member ends with success (R322, R323, R326): depth 0, sr.txcause zero; its commit is an acquire at partition scope. -/
def State.txSucceed (s : State) (u i l : Nat) (acquire : Bool) : State :=
  s.onThread u i l fun t => if t.tx.depth = 0 then t else { t with tx := {}, txcause := 0, acquired := t.acquired || acquire }

/-- A kept member's log goes to the commit units (R322). A missing page of this translation aborts with FAULT and posts no batch (DESIGN CHOICE, log 78). (log 37) -/
def State.startCommit (s : State) (m : Member) : State :=
  if m.log.isEmpty then s.txSucceed m.unit m.stripe m.lane false
  else
    match s.txTranslateAll m m.log with
    | (s, .error c) => s.abortLane m.unit m.stripe m.lane (txCause 5 c)
    | (s, .ok es) =>
      let s := es.foldl (fun s e => if e.wmask = 0 then s else (s.txLeaf m e).1) s
      let part := (s.partOf m.unit).getD 0
      let banks := ((es.map (s.txBank part)).eraseDups)
      let c : Commit := { id := s.nextTx, unit := m.unit, stripe := m.stripe, lane := m.lane, count := es.length, entries := banks.map fun b => (b, es.filter fun e => s.txBank part e == b) }
      { s with commits := s.commits ++ [c], nextTx := s.nextTx + 1 }

/-- The members of a group end their transactions (R321, R322). -/
def State.commitGroup (s : State) (ms : List Member) : State :=
  let (kept, out) := resolveGroup ms
  let s := out.foldl (fun s m => s.abortLane m.unit m.stripe m.lane (txCause 2)) s
  kept.foldl State.startCommit s

/-! ## TXEND (R320) -/

/-- TXEND (R320): inner levels fall by one; the lanes at depth 1 form a group, whose commits hold the stripe. -/
def execTxend (f : FmtE) (s : State) : Host.Outcome State Fault Refusal :=
  .next (s.txWord f.hdr fun s act =>
    let outer := act.filter fun l => (s.curThread l).tx.depth == 1
    let late := outer.filter fun l => s.pending s.cur.unit s.cur.stripe l true false false
    if !late.isEmpty then s.blockWord (.order (laneMask late.contains) true false false)
    else match outer.findSome? fun l => s.txHeld (s.member s.cur.unit s.cur.stripe l) with
    | some w => s.blockWord w
    | none =>
      let s := s.finish f.hdr.b fun l t => if act.contains l && decide (1 < t.tx.depth) then { t with tx := { t.tx with depth := t.tx.depth - 1 } } else t
      let s := s.commitGroup (outer.map fun l => s.member s.cur.unit s.cur.stripe l)
      let gone := outer.filter fun l => (s.curThread l).pc != s.cur.pc + 8
      let s := s.leaveGroup (laneMask gone.contains)
      if s.commits.any fun c => c.unit == s.cur.unit && c.stripe == s.cur.stripe then (s.onCur fun t => { t with wait := some .commit }).endTurn else s)

/-- TXEND.g (R320): inner levels fall by one without a rendezvous; the other lanes arrive and are held until their commits have ended. A booth sends home the thread that arrives, with its transaction (R328), and one whose guard is false, which drops out at home (R335). -/
def execTxendG (f : FmtE) (s : State) : Host.Outcome State Fault Refusal :=
  .next (match s.curKind with
    | .booth =>
      let act := s.active f.hdr
      if act.isEmpty then s.goHome
      else if act.all fun l => decide (1 < (s.curThread l).tx.depth) then
        s.finish f.hdr.b fun l t => if act.contains l then { t with tx := { t.tx with depth := t.tx.depth - 1 } } else t
      else (s.onCore s.cur.unit fun c => { c with guests := mapIf (fun e : Nat × Guest => e.1 == s.cur.stripe) (fun e => (e.1, { e.2 with keepTx := true })) c.guests }).goHome
    | .simt =>
      let act := s.active f.hdr
      let inner := act.filter fun l => decide (1 < (s.curThread l).tx.depth)
      let come := act.filter fun l => !inner.contains l
      let lower (s : State) : State := s.onCur fun t => inner.foldl (fun t l => t.onLane l fun th => { th with tx := { th.tx with depth := th.tx.depth - 1 } }) t
      if come.isEmpty then (lower (s.dropInactive f.hdr (f.imm8.toNat % 32))).finishPlain f.hdr.b
      else
        let q : GangReq := { key := txendKey, gang := f.imm8.toNat % 32, mreg := if f.x.getLsbD 8 then some (f.sc.toNat, f.fc) else none, srcs := [], a := fun _ => 0, holds := true }
        match s.gangChecks q come with
        | .error _ => s.gangArrive f.hdr q come
        | .ok _ => (lower s).gangArrive f.hdr q come
    | _ => s.illegal)

/-- The rendezvous of a TXEND.g is complete (R320): once every participant's earlier accesses are performed, the group commits. -/
def State.doneTxend (s : State) (u g : Nat) (as : List Arrival) : State :=
  if as.any fun a => s.pending u a.stripe a.lane true false false then s
  else
    let ms := (as.filter fun a => (s.thread u a.stripe a.lane).tx.depth == 1).map fun a => s.member u a.stripe a.lane
    if ms.any fun m => (s.txHeld m).isSome then s
    else
    let s := (s.closeGang u g).commitGroup ms
    as.foldl (fun s a => if s.commits.any fun c => c.unit == u && c.stripe == a.stripe && c.lane == a.lane then s.onThread u a.stripe a.lane fun t => { t with status := .waiting .commit } else s) s

/-! ## Commit units (R322 to R324) -/

/-- A commit by its number. -/
def State.commit (s : State) (tx : Nat) : Option Commit := s.commits.find? fun c => c.id == tx
/-- Changes a commit. -/
def State.onCommit (s : State) (tx : Nat) (f : Commit → Commit) : State := { s with commits := mapIf (fun c : Commit => c.id == tx) f s.commits }
/-- The partition of a commit. -/
def State.txPart (s : State) (c : Commit) : Nat := (s.partOf c.unit).getD 0

/-- The word of an entry as its home holds it now; none when it is poisoned. -/
def State.txCurrent (s : State) (part : Nat) (e : TxEntry) : State × Option (BitVec 32) :=
  match s.readPa part e.pa 4 with
  | (s, bs, false) => (s, some (BitVec.ofNat 32 (leNat bs)))
  | (s, _, true) => (s, none)

/-- The lowest entry whose value differs from what was read (R322). (log 37) -/
def State.txValidate (s : State) (part : Nat) (es : List TxEntry) : State × Option Nat :=
  es.foldl (fun (s, bad) e =>
    if !e.rd then (s, bad)
    else
      let (s, v) := s.txCurrent part e
      if v == some e.rval then (s, bad) else (s, some (min (bad.getD e.idx) e.idx))) (s, none)

/-- The written bytes of entries reach their home, and the lines that the committing core holds of them are dropped (R121, R322, R371). -/
def State.txWriteBack (s : State) (hu part : Nat) (es : List TxEntry) : State :=
  (es.foldl (fun (s : State) (e : TxEntry) => if e.wmask == 0 then s
    else
      match s.homeOf part e.pa with
      | none => s
      | some (sl, loc) =>
        let old := BitVec.ofNat 32 (leNat (bytesGet s.mem (memKey sl loc) 4))
        s.writeHome part sl loc e.key e.compress (leBytes 4 (mixWord e.wmask e.wval old).toNat)) s).onCore hu fun c =>
    { c with lines := c.lines.filter fun ln => !es.any fun e => e.wmask != 0 && ln.pa == e.pa / 128 * 128 }

/-- Another commit's reservation stands against an entry: any for a write, an exclusive one for a read (R322, R323). (log 37) -/
def Bank.against (b : Bank) (tx : Nat) (e : TxEntry) : Bool := b.reserved.any fun r => r.tx != tx && r.pa == e.pa && (r.write || e.wmask != 0)

/-- The bank has a way and a register for every line of the entries (R82, R84, R85), and no release of their frames is under way (R41): the accesses of a commit never bypass. -/
def State.txTakes (s : State) (c : Commit) (es : List TxEntry) : Bool :=
  es.all fun e => match s.homeOf (s.txPart c) e.pa with
    | some (sl, loc) => !s.releasing sl loc && s.bankTakes sl loc false false false
    | none => true

/-- The packets of a commit whose partition is in drain are discarded where they arrive (R93): the commit is gone, with its reservations. -/
def State.dropCommit (s : State) (c : Commit) : State :=
  c.entries.foldl (fun s e => s.onBank e.1 fun b => { b with reserved := b.reserved.filter fun r => r.tx != c.id })
    { s with commits := s.commits.filter fun x => x.id != c.id }

/-- TX_PREPARE (R322): a commit unit reserves and validates its entries and answers. -/
def execTxPrepare (tx bank : Nat) (s : State) : Host.Outcome State Fault Refusal :=
  .next (match s.commit tx with
    | none => s
    | some c =>
      match c.entries.find? fun e => e.1 == bank with
      | none => s
      | some (_, es) =>
        if s.inDrain c.unit then s.dropCommit c
        else if c.entries.length < 2 || (Tab.find c.answers bank).isSome || !s.txTakes c es then s
        else
          let b := s.bank bank
          if es.any (b.against tx) || decide (256 < b.reserved.length + es.length) then s.onCommit tx fun c => { c with answers := Tab.set c.answers bank (some (c.count + 1)) }
          else
            let (s, bad) := s.txValidate (s.txPart c) es
            match bad with
            | some k => s.onCommit tx fun c => { c with answers := Tab.set c.answers bank (some k) }
            | none =>
              (s.onBank bank fun b => { b with reserved := b.reserved ++ es.map fun e => { pa := e.pa, size := 4, write := e.wmask != 0, tx := tx } }).onCommit tx fun c => { c with answers := Tab.set c.answers bank none })

/-- TX_DECIDE (R322): the coordinator has every answer, and takes the commit stamp when all are YES. ENTRY is the lowest entry that failed by value, zero for a reservation (R326). -/
def execTxDecide (tx : Nat) (s : State) : Host.Outcome State Fault Refusal :=
  .next (match s.commit tx with
    | none => s
    | some c =>
      if s.inDrain c.unit then s.dropCommit c
      else if c.entries.length < 2 || c.decided.isSome || c.entries.any fun e => (Tab.find c.answers e.1).isNone then s
      else
        let no := c.answers.filterMap (·.2)
        let low := (no.filter (· ≤ c.count)).foldl (fun m k => some (min (m.getD k) k)) none
        s.onCommit tx fun c => { c with decided := some no.isEmpty, stamp := s.gtc, entry := low.getD 0 })

/-- The commit ends for its thread (R323, R325): the summary over entry 0 and depth 0, or the abort. -/
def State.endCommit (s : State) (c : Commit) (ok : Bool) (stamp entry : Nat) : State :=
  let s := { s with commits := s.commits.filter fun x => x.id != c.id }
  if ok then
    let th := s.thread c.unit c.stripe c.lane
    let src := c.entries.foldl (fun m e => min m (s.src (0x1000 + e.1))) (2 ^ 24)
    let bs := leBytes 16 (stamp + src * 2 ^ 64 + c.count * 2 ^ 88)
    (s.onCore (s.txHome c.unit c.stripe c.lane) fun k => { k with sram := bytesSet k.sram th.tx.log bs }).txSucceed c.unit c.stripe c.lane true
  else s.abortLane c.unit c.stripe c.lane (txCause 1 0 0 entry)

/-- TX_COMMIT_WRITE (R322): a commit unit acts on the decision and releases its reservations; with the last the commit ends. -/
def execTxCommitWrite (tx bank : Nat) (s : State) : Host.Outcome State Fault Refusal :=
  .next (match s.commit tx with
    | none => s
    | some c =>
      match c.decided, c.entries.find? fun e => e.1 == bank with
      | some ok, some (_, es) =>
        if s.inDrain c.unit then s.dropCommit c
        else if c.acted.contains bank || (ok && !s.txTakes c es) || (s.logClearing c.unit c.stripe c.lane).isSome then s
        else
          let s := if ok then s.txWriteBack (s.txHome c.unit c.stripe c.lane) (s.txPart c) es else s
          let s := (s.onBank bank fun b => { b with reserved := b.reserved.filter fun r => r.tx != tx }).onCommit tx fun c => { c with acted := c.acted ++ [bank] }
          if c.acted.length + 1 = c.entries.length then s.endCommit c ok c.stamp c.entry else s
      | _, _ => s)

/-- TX_SINGLE_BANK_COMMIT (R324): once no reservation stands against it, one unit validates and writes in one step. -/
def execTxSingleBankCommit (tx : Nat) (s : State) : Host.Outcome State Fault Refusal :=
  .next (match s.commit tx with
    | none => s
    | some c =>
      match c.entries with
      | [(bank, es)] =>
        if s.inDrain c.unit then s.dropCommit c
        else if es.any ((s.bank bank).against tx) || !s.txTakes c es || (s.logClearing c.unit c.stripe c.lane).isSome then s
        else
          let (s, bad) := s.txValidate (s.txPart c) es
          match bad with
          | some k => s.endCommit c false 0 k
          | none => (s.txWriteBack (s.txHome c.unit c.stripe c.lane) (s.txPart c) es).endCommit c true s.gtc 0
      | _ => s)

end Sys2Proof.Machine
end

