-- ==== Sys2Proof/Machine/Gangs.lean ====
section
/-!
DEFINITION. GVOTE, GSHFL, GRED and GELECT, and the completion of every kind of rendezvous (R146, R149, R335 to R338).
-/
namespace Sys2Proof.Machine

/-- The mask register of a gang word in the E format, and its policy (R335). -/
def gangMask (f : FmtE) : Option (Nat × Bool) := if f.x.getLsbD 8 then some (f.sc.toNat, f.fc) else none

/-- The key of a collective word: instruction, operation, and for GRED the type, for GVOTE whether it writes a predicate (R148). -/
def gangKey (opc : Nat) (f : FmtE) : Nat :=
  opc * 4096 + f.x.toNat % 16 + (if opc = 0x304 then 16 * bits f.x.toNat 7 4 else if opc = 0x302 ∧ bits f.x.toNat 6 4 ≠ 0 then 16 else 0)

/-- GVOTE (R337). -/
def execGvote (f : FmtE) (s : State) : Host.Outcome State Fault Refusal :=
  let pd := bits f.x.toNat 6 4
  .next (s.gangWord f.hdr
    { key := gangKey 0x302 f, gang := f.imm8.toNat % 32, mreg := gangMask f, srcs := [], dsts := [f.dst.toNat], dst := f.dst.toNat, pd := if pd = 0 then 7 else pd,
      a := fun t => if t.pred (f.sa.toNat % 8) then 1 else 0, holds := false })

/-- GSHFL (R337). -/
def execGshfl (f : FmtE) (s : State) : Host.Outcome State Fault Refusal :=
  .next (s.gangWord f.hdr
    { key := gangKey 0x303 f, gang := f.imm8.toNat % 32, mreg := gangMask f, srcs := [(f.sa.toNat, f.fa), (f.sb.toNat, f.fb)], dsts := [f.dst.toNat], dst := f.dst.toNat,
      a := fun t => (t.reg f.sa.toNat).toNat, b := fun t => (t.reg f.sb.toNat).toNat, holds := false })

/-- GRED (R338). -/
def execGred (f : FmtE) (s : State) : Host.Outcome State Fault Refusal :=
  .next (s.gangWord f.hdr
    { key := gangKey 0x304 f, gang := f.imm8.toNat % 32, mreg := gangMask f, srcs := [(f.sa.toNat, f.fa)], dsts := [f.dst.toNat], dst := f.dst.toNat,
      a := fun t => (t.reg f.sa.toNat).toNat, holds := false })

/-- GELECT (R337). -/
def execGelect (f : FmtE) (s : State) : Host.Outcome State Fault Refusal :=
  .next (s.gangWord f.hdr
    { key := gangKey 0x305 f, gang := f.imm8.toNat % 32, mreg := gangMask f, srcs := [], dsts := [f.dst.toNat], dst := f.dst.toNat, pd := bits f.x.toNat 6 4,
      a := fun _ => 0, holds := false })

/-! ## Results -/

/-- The value that GVOTE gives every participant (R337). -/
def voteVal (op : Nat) (as : List Arrival) : Nat :=
  let yes := as.filter fun a => a.a == 1
  match op with
  | 0 => if yes.length = as.length then 1 else 0
  | 1 => if yes.isEmpty then 0 else 1
  | 2 => yes.length
  | _ => (laneMask fun l => yes.any fun a => a.lane == l).toNat

/-- The value that GSHFL gives the participant of a rank (R337). -/
def shuffleVal (op : Nat) (as : List Arrival) (rank : Nat) (a : Arrival) : Nat :=
  let j : Int := match op with
    | 0 => (a.b : Int)
    | 1 => (rank : Int) - (a.b : Int)
    | 2 => (rank : Int) + (a.b : Int)
    | _ => ((rank ^^^ a.b : Nat) : Int)
  if j < 0 then a.a
  else
    match as[j.toNat]? with
    | some x => x.a
    | none => a.a

/-- The reduction of GRED over the participants' values (R338). -/
def reduceVal (op ty : Nat) (vs : List Nat) : Nat :=
  match vs with
  | [] => 0
  | v :: r =>
    let least (a b : Nat) : Nat := if elemInt ty a ≤ elemInt ty b then a else b
    let most (a b : Nat) : Nat := if elemInt ty a ≤ elemInt ty b then b else a
    match op with
    | 0 => if ty = 8 then fp32.sum .rn (vs.map fp32.decode) else r.foldl (fun a b => (a + b) % 2 ^ 32) v
    | 1 => if ty = 8 then r.foldl (fp32.pick false) (fp32.pick false v v) else r.foldl least v
    | 2 => if ty = 8 then r.foldl (fp32.pick true) (fp32.pick true v v) else r.foldl most v
    | 3 => r.foldl (· &&& ·) v
    | 4 => r.foldl (· ||| ·) v
    | _ => r.foldl (· ^^^ ·) v

/-- A collective operation gives its results (R149, R337, R338). -/
def State.doneCollective (s : State) (u g word : Nat) (as : List Arrival) : State :=
  let opc := word / 4096
  let op := word % 16
  let s := as.zipIdx.foldl (fun s (a, rank) =>
    match opc with
    | 0x302 => s.giveResult u a (some (voteVal op as)) (if op < 2 then some (voteVal op as == 1) else none)
    | 0x303 => s.giveResult u a (some (shuffleVal op as rank a)) none
    | 0x304 => s.giveResult u a (some (reduceVal op (bits word 7 4) (as.map Arrival.a))) none
    | _ => s.giveResult u a (some ((as.head?.map Arrival.tid).getD 0)) (some (rank == 0))) s
  s.closeGang u g

/-- GANG_RENDEZVOUS_COMPLETE (R146): once every remaining participant has arrived, and one that a booth has taken meanwhile is home, the operation takes place. -/
def execGangRendezvousComplete (u g : Nat) (s : State) : Host.Outcome State Fault Refusal :=
  .next (match Tab.find (s.core u).gangs g with
    | none => s
    | some r =>
      let away := r.parts.filter fun (i, l) => match (s.thread u i l).status with
        | .ejected _ _ => true
        | _ => false
      if !r.complete then s
      else if !away.isEmpty then away.foldl (fun s (i, l) => s.recall u i l) s
      else
        let as := r.ranked
        if as.isEmpty then s.closeGang u g
        else if r.word = 0x200 then s.doneClaim u g as
        else if r.word = 0x201 then s.doneFree u g as
        else if r.word = 0x203 ∨ r.word = 0x603 then s.doneMul u g as
        else if r.word = 0x211 then s.doneTxend u g as
        else if r.word < 4096 then s.doneTake u g r.word as
        else s.doneCollective u g r.word as)

end Sys2Proof.Machine
end

