-- ==== Sys2Proof/Machine/Barriers.lean ====
section
/-!
DEFINITION. Team and arcade barriers, and stage rings (R159 to R161, R339 to R346).
-/
namespace Sys2Proof.Machine

/-! ## Barriers -/

/-- Where a barrier word's barrier is: of the arcade or the team, and its key; none when the team has no such barrier (R339, R340). Arcade barriers of a cohort are listed by 32 times the logical position of its first core. -/
def State.barrierOf (s : State) (u : Nat) (imm : Nat) : Option (Bool × Nat) :=
  if imm / 32 % 2 = 0 then some (false, imm % 32)
  else
    match (s.core u).team with
    | none => none
    | some t =>
      if t.csz = 0 ∨ 3 < t.csz ∨ 2 * 2 ^ t.csz ≤ imm % 32 then none
      else some (true, 32 * s.logical ((t.members.head?).getD u) + imm % 32)

/-- The state of a barrier. -/
def State.barrier (s : State) (u : Nat) (b : Bool × Nat) : Barrier :=
  if b.1 then Tab.get (s.slice (sliceOf u)).arcBar b.2 {} else Tab.get (s.core u).barriers b.2 {}

/-- The state with a barrier replaced. -/
def State.setBarrier (s : State) (u : Nat) (b : Bool × Nat) (x : Barrier) : State :=
  if b.1 then s.onSlice (sliceOf u) fun k => { k with arcBar := Tab.set k.arcBar b.2 x } else s.onCore u fun c => { c with barriers := Tab.set c.barriers b.2 x }

/-- The phase completes when every expected arrival is there (R341). -/
def Barrier.settle (b : Barrier) : Barrier :=
  if b.arr = b.exp then { ph := b.ph + 1, exp := b.exp - b.drop, arr := 0, drop := 0, who := [] } else b

/-- One arrival (R341); none when it is an over-arrival (R343). -/
def Barrier.arrive (b : Barrier) (who : Nat × Nat × Nat) (drop : Bool) : Option Barrier :=
  if b.exp = 0 ∨ b.who.contains who then none
  else some ({ b with arr := b.arr + 1, drop := b.drop + (if drop then 1 else 0), who := b.who ++ [who] } : Barrier).settle

/-- The arrivals of one word in lane order (R341, R343): the barrier after them with the phase each lane arrived in, or the lowest lane that would over-arrive. -/
def Barrier.arriveAll (b : Barrier) (u i : Nat) (drop : Bool) (lanes : List Nat) : Except Nat (Barrier × List (Nat × BitVec 32)) :=
  match lanes with
  | [] => .ok (b, [])
  | l :: r =>
    match b.arrive (u, i, l) drop with
    | none => .error l
    | some b' =>
      match b'.arriveAll u i drop r with
      | .error e => .error e
      | .ok (b'', ps) => .ok (b'', (l, b.ph) :: ps)

/-- A barrier word on a SIMT core (R340): its register checks, then its barrier's number. -/
def State.barrierWord (s : State) (f : FmtE) (lanes : List Nat → List Nat) (srcs : List (Nat × Bool)) (dsts : List Nat) (go : State → List Nat → Bool × Nat → State) : State :=
  match s.curKind with
  | .booth => s.goHome
  | .simt =>
    let act := s.active f.hdr
    match act with
    | [] => s.finishPlain f.hdr.b
    | low :: _ =>
      match s.checkSem (lanes act) fun _ => { srcs := srcs, dsts := dsts, apply := fun _ t => t } with
      | .error e => s.stopWord noRunAhead e
      | .ok _ =>
        match s.barrierOf s.cur.unit f.imm8.toNat with
        | none => s.stopWord noRunAhead (.trap { cause := 0x05, dcode := 0x25, lane := low })
        | some b => go s act b
  | _ => s.illegal

/-- Lanes wait with their PC where it is. -/
def State.waitLanes (s : State) (lanes : List Nat) (w : Nat → Wait) : State :=
  s.onCur fun t => lanes.foldl (fun t l => t.onLane l fun th => { th with status := .waiting (w l) }) t

/-- The arrivals of a word (R341, R343, R345): a release first, at .core for a team barrier and .arc for an arcade barrier. -/
def State.arriveWord (s : State) (f : FmtE) (dsts : List Nat) (drop holds : Bool) : State :=
  s.barrierWord f id [] dsts fun s act b =>
    let u := s.cur.unit
    let late := act.filter fun l => s.pending u s.cur.stripe l b.1 false false
    if !late.isEmpty then s.blockWord (.order (laneMask late.contains) b.1 false false)
    else
      let x := s.barrier u b
      match x.arriveAll u s.cur.stripe drop act with
      | .error l =>
        s.stopWord noRunAhead (.trap { cause := 0x14, lane := l, det := [BitVec.ofNat 32 (f.imm8.toNat % 64 + x.exp % 2 ^ 13 * 2 ^ 6 + x.arr % 2 ^ 13 * 2 ^ 19), x.ph] })
      | .ok (x', ps) =>
        let s := (s.markReleased act).setBarrier u b x'
        let phase (l : Nat) : BitVec 32 := ((ps.find? fun p => p.1 == l).map (·.2)).getD 0
        let s := s.finish f.hdr.b fun l t => if act.contains l then dsts.foldl (fun t r => t.setReg r (phase l)) t else t
        if holds then
          let held := act.filter fun l => phase l == x'.ph
          let s := if b.1 ∧ held.length < act.length then s.acquireEffect 2 act else s
          let s := s.waitLanes held fun l => .barrier b.1 b.2 (phase l)
          if held.isEmpty then s else s.holdTurn
        else s

/-- BARINIT (R344). -/
def execBarinit (f : FmtE) (s : State) : Host.Outcome State Fault Refusal :=
  .next (s.barrierWord f (fun act => act.take 1) [(f.sb.toNat, f.fb)] [] fun s act b =>
    let low := (act.head?).getD 0
    let n := ((s.curThread low).reg f.sb.toNat).toNat
    if n = 0 ∨ (if b.1 then 4096 else 512) < n then s.stopWord noRunAhead (.trap { cause := 0x05, dcode := 0x25, lane := low })
    else
      let x := { s.barrier s.cur.unit b with exp := n, drop := 0 }
      let x := if n ≤ x.arr then { x with ph := x.ph + 1, arr := 0, who := [] } else x
      (s.setBarrier s.cur.unit b x).finishPlain f.hdr.b)

/-- BARARR (R341). -/
def execBararr (f : FmtE) (s : State) : Host.Outcome State Fault Refusal := .next (s.arriveWord f [f.dst.toNat] false false)
/-- BARSYNC (R341). -/
def execBarsync (f : FmtE) (s : State) : Host.Outcome State Fault Refusal := .next (s.arriveWord f [] false true)
/-- BARDROP (R341). -/
def execBardrop (f : FmtE) (s : State) : Host.Outcome State Fault Refusal := .next (s.arriveWord f [] true false)

/-- A token's phase has completed (R342). -/
def Barrier.past (b : Barrier) (token : BitVec 32) : Bool :=
  let d := (b.ph - token).toNat
  decide (0 < d) && decide (d < 2 ^ 31)

/-- BARWAIT (R342): lanes whose phase has completed go on, the others wait at the word. -/
def execBarwait (f : FmtE) (s : State) : Host.Outcome State Fault Refusal :=
  .next (s.barrierWord f id [(f.sb.toNat, f.fb)] [] fun s act b =>
    let x := s.barrier s.cur.unit b
    let token (l : Nat) : BitVec 32 := (s.curThread l).reg f.sb.toNat
    let held := act.filter fun l => !x.past (token l)
    if held.length = act.length then
      let s := s.onCur fun t => act.foldl (fun t l => t.onLane l fun th => { th with status := .waiting (.barrier b.1 b.2 (token l)) }) t
      (s.onCur fun t => t.mapLanes fun l th => if s.cur.lanes.getLsbD l && !act.contains l then th.advance f.hdr.b else th).onCur Stripe.leaveSerial |>.endTurn
    else
      let cur := s.cur.lanes
      let w := s.waitLanes held fun l => .barrier b.1 b.2 (token l)
      let s := { w with cur := { w.cur with lanes := cur &&& ~~~laneMask held.contains } }
      let s := (if b.1 then s.acquireEffect 2 act else s).finishPlain f.hdr.b
      if held.isEmpty then s else s.holdTurn)

/-! ## Rings (R159 to R161, R346) -/

/-- A ring word, once for the word (R346). (log 45) -/
def State.ringWord (s : State) (h : Hdr) (go : State → List Nat → State) : State :=
  match s.curKind with
  | .booth => s.goHome
  | .simt => if (s.active h).isEmpty then s.finishPlain h.b else go s (s.active h)
  | _ => s.illegal

/-- A ring of the core. -/
def Core.ring (c : Core) (q : Nat) : Ring := Tab.get c.rings q {}

/-- XREG with detail "ring" (R159). -/
def State.badRing (s : State) (act : List Nat) : State := s.stopWord noRunAhead (.trap { cause := 0x05, dcode := 0x26, lane := (act.head?).getD 0 })

/-- A thread that waits in RGET on a ring that is freed or set up again wakes, and its word raises XREG when it runs again (R161). -/
def Thread.ringGone (q : Nat) (t : Thread) : Thread :=
  match t.status with
  | .waiting (.ring k _ _) => if k = q then { t with status := .ready, done := true } else t
  | _ => t

/-- A ring gets a number of slots, its phase bits 0 (R159), and the threads that wait on it wake (R161). -/
def Core.setRing (c : Core) (q ns : Nat) : Core :=
  { c with rings := Tab.set c.rings q { ns := ns, ph := 0 }, stripes := c.stripes.map fun e : Nat × Stripe => (e.1, { e.2 with lanes := e.2.lanes.map fun x => (x.1, x.2.ringGone q) }) }

/-- RINGINIT (R159); a ring without slots cannot be named, and only RFREE is excepted. -/
def execRinginit (f : FmtE) (s : State) : Host.Outcome State Fault Refusal :=
  .next (s.ringWord f.hdr fun s act =>
    if ((s.core s.cur.unit).ring (f.imm8.toNat % 16)).ns = 0 then s.badRing act
    else (s.onCore s.cur.unit fun c => c.setRing (f.imm8.toNat % 16) (f.imm8.toNat / 16 + 1)).finishPlain f.hdr.b)

/-- RFREE (R159); of a ring without slots it has no effect. -/
def execRfree (f : FmtE) (s : State) : Host.Outcome State Fault Refusal :=
  .next (s.ringWord f.hdr fun s _ => (s.onCore s.cur.unit fun c => c.setRing (f.imm8.toNat % 16) 0).finishPlain f.hdr.b)

/-- RPUT (R160, R346): a core-scope release, then one flip. (log 45) -/
def execRput (f : FmtE) (s : State) : Host.Outcome State Fault Refusal :=
  .next (s.ringWord f.hdr fun s act =>
    let q := f.imm8.toNat % 16
    let sl := f.imm8.toNat / 16
    if ((s.core s.cur.unit).ring q).ns ≤ sl then s.badRing act
    else
      let late := act.filter fun l => s.pending s.cur.unit s.cur.stripe l false false false
      if !late.isEmpty then s.blockWord (.order (laneMask late.contains) false false false)
      else ((s.markReleased act).onCore s.cur.unit fun c => c.flipRing q sl).finishPlain f.hdr.b)

/-- RGET (R160, R161): the word waits until the phase bit has the value; a lane whose ring was freed or set up again under its wait raises XREG. -/
def execRget (f : FmtE) (s : State) : Host.Outcome State Fault Refusal :=
  .next (s.ringWord f.hdr fun s act =>
    let q := f.imm8.toNat % 16
    let sl := f.imm8.toNat / 16
    let r := (s.core s.cur.unit).ring q
    if r.ns ≤ sl || act.any (fun l => (s.curThread l).done) then s.badRing act
    else if r.ph.getLsbD sl == f.x.getLsbD 0 then s.finishPlain f.hdr.b
    else s.blockWord (.ring q sl (f.x.getLsbD 0)))

end Sys2Proof.Machine
end

