-- ==== Sys2Proof/Machine/Launch.lean ====
section
/-!
DEFINITION. LAUNCH, FETCHT, CANCEL and NODESIG, and the acceptance of a launch by its function core (R347 to R352, R393 to R395).
-/
namespace Sys2Proof.Machine

/-! ## The launch record (R347, R348) -/

/-- Stripes of a record's teams. -/
def recStripes (b : List Byte) : Nat := field b 0x20 1 % 16 + 1
/-- CSZ, the cohort size as log2. -/
def recCsz (b : List Byte) : Nat := field b 0x20 4 / 16 % 8
/-- WORLD. -/
def recWorld (b : List Byte) : Nat := field b 0x20 4 / 256 % 64
/-- SWAP. -/
def recSwap (b : List Byte) : Bool := (field b 0x20 4).testBit 14
/-- T, XB and RPOOL of ALLOT. -/
def recTiles (b : List Byte) : Nat := field b 0x30 8 % 2 ^ 11
/-- XB. -/
def recXb (b : List Byte) : Nat := field b 0x30 8 / 2 ^ 32 % 16
/-- RPOOL. -/
def recPool (b : List Byte) : Nat := field b 0x30 8 / 2 ^ 16 % 2 ^ 13
/-- GRID0 to GRID2. -/
def recGrid (b : List Byte) (k : Nat) : Nat := field b (0x10 + 4 * k) 4
/-- NEXT0 to NEXT2. -/
def recNext (b : List Byte) (k : Nat) : Nat := field b (0xE8 + 4 * k) 4
/-- PSIZE. -/
def recPsize (b : List Byte) : Nat := field b 0x1C 4
/-- PARP. -/
def recParp (b : List Byte) : Nat := field b 0x08 8
/-- CMPL. -/
def recCmpl (b : List Byte) : Nat := field b 0xE0 8
/-- START. -/
def recStart (b : List Byte) : Nat := field b 0xD8 8
/-- GROUP. -/
def recGroup (b : List Byte) : Nat := field b 0xD2 2
/-- GRAPH. -/
def recGraph (b : List Byte) : Nat := field b 0xD4 4
/-- A channel declaration. -/
def recChan (b : List Byte) (c : Nat) : Nat := field b (0x40 + 8 * c) 8
/-- A barrier entry. -/
def recBar (b : List Byte) (k : Nat) : Nat := field b (0xC0 + 2 * k) 2
/-- SRC. -/
def recSrc (b : List Byte) : Nat := field b 0xF4 3
/-- STAMP. -/
def recStamp (b : List Byte) : Nat := field b 0xF8 8
/-- Bank mode codes of the bank-mode word (R117). -/
def recMode (b : List Byte) (k : Nat) : Nat := field b 0x28 8 / 4 ^ k % 4
/-- Linear indices of the grid (R403). -/
def recTotal (b : List Byte) : Nat := recGrid b 0 * recGrid b 1 * recGrid b 2
/-- The linear index that NEXT names; none outside the grid (R403). -/
def recFirst (b : List Byte) : Option Nat :=
  if recNext b 0 < recGrid b 0 ∧ recNext b 1 < recGrid b 1 ∧ recNext b 2 < recGrid b 2 then some (recNext b 0 + recGrid b 0 * (recNext b 1 + recGrid b 1 * recNext b 2)) else none
/-- Coordinates of a linear index (R403); one past the end gives coordinates outside the grid. -/
def recCoord (b : List Byte) (i : Nat) : Nat × Nat × Nat := (i % recGrid b 0, i / recGrid b 0 % recGrid b 1, i / (recGrid b 0 * recGrid b 1))

/-- Bytes of a record with a run replaced. -/
def patch (b : List Byte) (o : Nat) (v : List Byte) : List Byte := b.take o ++ v ++ b.drop (o + v.length)

/-- The receive region of a declaration: bank, first granule, end (R127). -/
def chanRegion (c : Nat) : Nat × Nat × Nat := (bits c 28 24, bits c 11 0, bits c 11 0 + (bits c 37 32 + 1) * (bits c 43 40 + 1))

/-- The conditions of R127 on the channel declarations. -/
def recChanBad (b : List Byte) : Bool :=
  let cs := ((List.range 16).map (recChan b)).filter fun c => c.testBit 63
  let one (c : Nat) : Bool := bits c 62 53 != 0 || bits c 47 44 != 0 || bits c 39 38 != 0 || bits c 31 29 != 0 || bits c 23 12 != 0 || bits c 37 32 == 0
    || recMode b (bits c 28 24) != 2 || decide (4096 < (chanRegion c).2.2)
  let meet (x y : Nat × Nat × Nat) : Bool := x.1 == y.1 && decide (x.2.1 < y.2.2) && decide (y.2.1 < x.2.2)
  cs.any one || (List.range cs.length).any fun i => (List.range i).any fun j => meet (chanRegion (cs[i]?.getD 0)) (chanRegion (cs[j]?.getD 0))

/-- The conditions of status 3 RES (R349). (log 42) -/
def recBad (b : List Byte) (pod : Bool) : Bool :=
  let entry := field b 0x00 8
  let team := field b 0x20 4
  let allot := field b 0x30 8
  let graph := recGraph b
  let bars := ((List.range 8).map (recBar b)).filter fun e => e.testBit 15
  entry % 8 != 0 || bits entry 63 52 != 0 || recParp b % 8 != 0 || recCmpl b % 64 != 0
    || recGrid b 0 == 0 || recGrid b 1 == 0 || recGrid b 2 == 0
    || decide (16384 < recPsize b) || recPsize b % 8 != 0
    || bits team 31 15 != 0 || team.testBit 7
    || bits allot 63 36 != 0 || bits allot 31 29 != 0 || bits allot 15 11 != 0
    || decide (12 < recXb b) || decide (6144 < recPool b) || decide (recPool b < 32 * recStripes b * recXb b) || decide (1024 < recTiles b)
    || bits graph 30 28 != 0 || bits graph 14 12 != 0
    || (!pod && recGroup b != 0)
    || ((List.range (recStripes b)).any fun i => field b 0x24 4 / 4 ^ i % 4 == 3)
    || ((List.range 32).any fun k => recMode b k == 3)
    || recChanBad b
    || ((List.range 8).any fun k => (recBar b k).testBit 9) || (bars.any fun e => decide (32 * recStripes b < e % 512 + 1))
    || decide ((bars.map fun e => bits e 14 10).eraseDups.length < bars.length)
    || (List.range 16).any fun q => field b 0x38 8 / 16 ^ q % 16 != 0 && !(field b 0xD0 2).testBit q

/-! ## Groups and statuses -/

/-- The aligned groups of n cores of a partition in order of slot, arcade and position (R397). -/
def State.groups (s : State) (part n : Nat) : List (List Nat) :=
  (s.part part).members.flatMap fun (_, sl) =>
    if (s.slice sl).drain || (s.part part).adding == some sl || (s.part part).removing == some sl then []
    else if n = 16 then
      let us := (List.range 16).filterMap fun k => s.coreAt sl (k / 8) (k % 8)
      if us.length = 16 then [us] else []
    else (List.range 2).flatMap fun a => (List.range (8 / n)).filterMap fun j =>
      let us := (List.range n).filterMap fun q => s.coreAt sl a (n * j + q)
      if us.length = n then some us else none

/-- The package is a member of a pod group, joined and synchronised (R23, R349). -/
def State.inGroup (s : State) (g : Nat) : Bool :=
  s.pod.joined && s.pod.synced && ((s.pod.config.map fun c => c.groups.any fun x => x.number == g && x.members.contains s.packageIdx).getD false)

/-- A function that is assigned to a partition. -/
def State.assigned (s : State) (part f : Nat) : Bool := decide (f < 16) && (s.func f).part == some part && (s.part part).funcs.getLsbD f

/-- The first failing check of orders 1 to 5 of R349; 0 when the notify is sent. (log 42) -/
def State.launchStatus (s : State) (l handle : Nat) (b : List Byte) (pod : Bool) : Nat :=
  let part := s.curPart
  let f := bits handle 9 6
  let ctl := (Tab.get (s.func f).qctl (handle % 64) 0).toNat
  let world := (s.worldOf s.cur.unit s.cur.stripe l).toNat
  if !s.assigned part f || !ctl.testBit 0 || decide (s.curPriv.code < bits ctl 15 14) then 7
  else if recBad b pod then 3
  else if 4 < recCsz b ∨ (s.groups part (2 ^ recCsz b)).isEmpty then 5
  else if !(s.part part).wmask.getLsbD (recWorld b) || (s.curPriv == .u && recWorld b != world) then 4
  else if pod && (!s.inGroup (recGroup b) || (recStart b != 0 && decide (recStart b < s.gtc + 4096))) then 6
  else 0

/-! ## Words -/

/-- LAUNCH, CANCEL and NODESIG exist on SIMT and host cores (R349, R352). -/
def State.launchWord (s : State) (h : Hdr) (go : State → List Nat → State) : State :=
  match s.curKind with
  | .booth => s.goHome
  | .simt | .host => s.afterAsync h fun s act => if act.isEmpty then s.finishPlain h.b else go s act
  | _ => s.illegal

/-- The trap of the record pointers of a word (R65, R349): one not in space 0, or with a rank, comes before one that is not aligned, each named by the lowest lane. (log 17) -/
def recordTrap (align : Nat) (ptrs : List (Nat × Nat)) : Option Trap :=
  match ptrs.find? fun (_, p) => ptrSpace p != 0 || ptrRank p != 0 with
  | some (l, p) => some { cause := 0x0C, dcode := if ptrSpace p ≠ 0 then 1 else 2, lane := l, addr := p }
  | none => (ptrs.find? fun (_, p) => p % align != 0).map fun (l, p) => { cause := 0x0D, lane := l, addr := p }

/-- A lane has a status in its register and waits for the other lanes of the word. -/
def Thread.status1 (t : Thread) (dst v : Nat) : Thread := { t.setReg dst (BitVec.ofNat 32 v) with done := true }

/-- The word ends when every active lane has its status; otherwise it waits (R140). -/
def State.endStatuses (s : State) (h : Hdr) (act : List Nat) (w : Wait) : State :=
  if act.all fun l => (s.curThread l).done then (if s.waitOver s.cur.unit s.cur.stripe w then s.finishPlain h.b else s.blockWord w) else s.blockWord w

/-- A lane of the issuing stripe has sent a notify that waits at its function core. -/
def State.notifying (s : State) (l : Nat) : Bool := s.funcs.any fun f => f.2.notifies.any fun n => n.unit == s.cur.unit && n.stripe == s.cur.stripe && n.lane == l

/-- The notify of a lane sets out as one packet of class 2 for the firmware complex (R86, R395). (log 14) -/
def State.sendNotify (s : State) (l : Nat) : State :=
  s.passOn { input := 0, cls := 2, unit := s.cur.unit, id := 32 * s.cur.stripe + l, notify := true, route := s.sendRoute s.cur.unit s.curPart 0 firmwarePort }

/-- LAUNCH (R349): every lane's record is read and checked, then each lane in turn gets its status at once or sends its notify. A lane whose notify a context save has withdrawn sends it again (R362). -/
def execLaunchForm (f : FmtE) (pod : Bool) (s : State) : State :=
  s.launchWord f.hdr fun s all =>
    let act := all.filter fun l => !(s.curThread l).done && !s.notifying l
    if act.isEmpty then s.endStatuses f.hdr all (.answer 1)
    else
      match s.checkSem act fun _ => { srcs := [(f.sa.toNat, f.fa), (f.sa.toNat + 1, f.fa), (f.sb.toNat, f.fb)], dsts := [f.dst.toNat], apply := fun _ t => t } with
      | .error e => s.stopWord noRunAhead e
      | .ok _ =>
        let late := act.filter fun l => s.pending s.cur.unit s.cur.stripe l true false pod
        if !late.isEmpty then s.blockWord (.order (laneMask late.contains) true false pod)
        else
          let ptr (l : Nat) : Nat := ((s.curThread l).pair f.sa.toNat).toNat
          match recordTrap 64 (act.map fun l => (l, ptr l)) with
          | some t => s.stopWord noRunAhead (.trap t)
          | none =>
            match s.readBlocks 16 [f.dst.toNat] (act.map fun l => (l, ptr l)) with
            | .error s => s
            | .ok (s, blocks) =>
              match s.resolve (s.accReq 4 true 0 false false) (fun _ => false) (act.flatMap fun l => [(l, ptr l + 0xF4), (l, ptr l + 0xF8), (l, ptr l + 0xFC)]) with
              | (s, .error e) => s.stopWord (runAhead act [f.dst.toNat]) e
              | (s, .ok accs) =>
                let s := act.foldl (fun s l =>
                  let handle := ((s.curThread l).reg f.sb.toNat).toNat
                  let b := ((blocks.find? fun x => x.1 == l).map (·.2)).getD []
                  let st : Nat := s.launchStatus l handle b pod
                  if st ≠ 0 then s.onThread s.cur.unit s.cur.stripe l fun t => t.status1 f.dst.toNat st
                  else
                    let x := ((accs.find? fun a => a.lane == l && a.ptr == ptr l + 0xF4).map LaneAcc.x).getD { pa := 0, key := 0, isSealed := false, compress := false }
                    let b := if pod ∧ recStart b = 0 then patch b 0xD8 (leBytes 8 (s.gtc + 4096)) else b
                    let n : Notify :=
                      { queue := handle % 64, unit := s.cur.unit, stripe := s.cur.stripe, lane := l, dst := f.dst.toNat, va := ptr l + 0xF4, pa := x.pa, key := x.key, isSealed := x.isSealed, compress := x.compress,
                        world := s.worldOf s.cur.unit s.cur.stripe l, pass := s.worldPass, pod := pod,
                        rcd := { bytes := b, ptb := s.ptbOf s.cur.unit s.cur.stripe l, priv := s.curPriv, world := recWorld b, src := s.src s.cur.unit, stamp := 0 } }
                    (s.onFunc (bits handle 9 6) fun k => { k with notifies := k.notifies ++ [n] }).sendNotify l) s
                s.endStatuses f.hdr all (.answer 1)

/-- LAUNCH (R349). -/
def execLaunch (f : FmtE) (s : State) : Host.Outcome State Fault Refusal := .next (execLaunchForm f false s)
/-- LAUNCH.pod (R349). -/
def execLaunchPod (f : FmtE) (s : State) : Host.Outcome State Fault Refusal := .next (execLaunchForm f true s)

/-- Notifies of a core's threads that no function core has accepted are withdrawn: their words end without effect (R362). -/
def State.dropNotifies (s : State) (u : Nat) : State := { s with funcs := s.funcs.map fun e : Nat × Function => (e.1, { e.2 with notifies := e.2.notifies.filter fun n => n.unit != u }) }

/-- The status of a notify reaches its lane (R349); a thread that no longer waits for it discards it (R362). -/
def State.answerNotify (s : State) (n : Notify) (st : Nat) : State :=
  if (s.stripe n.unit n.stripe).wait == some (.answer 1) && (s.thread n.unit n.stripe n.lane).alive then s.onThread n.unit n.stripe n.lane fun t => t.status1 n.dst st else s

/-- A launch enters the books of the package dispatcher. -/
def State.addLaunch (s : State) (x : Launch) : State := { s with launches := Tab.set s.launches s.nextLaunch x, nextLaunch := s.nextLaunch + 1 }

/-- The members of a pod group in ascending package index (R25, R414, R416). -/
def State.groupMembers (s : State) (g : Nat) : List Nat :=
  let ms := (s.pod.config.bind fun c => (c.groups.find? fun x => x.number == g).map PodGroup.members).getD []
  (List.range 1024).filter ms.contains

/-- The pod dispatcher takes a LAUNCH.pod (R413, R414): initial chunks go with the broadcast. -/
def State.startPod (s : State) (b : List Byte) (src stamp part func : Nat) (ptb : BitVec 64) (priv : Priv) : State :=
  let members := s.groupMembers (recGroup b)
  let total := recTotal b
  let first := (recFirst b).getD total
  let deal (r : Nat) : List (Nat × Nat) := ((List.range 2).map fun i => (min total (first + 8192 * r + 4096 * i), min total (first + 8192 * r + 4096 * (i + 1)))).filter fun x => decide (x.1 < x.2)
  let k := s.nextLaunch
  let p : PodLaunch :=
    { rcd := b, src := src, stamp := stamp, part := part, func := func, ptb := ptb, priv := priv, members := members, next := min total (first + 8192 * members.length), total := total,
      given := members.zipIdx.foldl (fun t (m, r) => Tab.set t m (deal r)) [], heard := s.gtc, quiet := s.gtc }
  { s with nextLaunch := k + 1, pod := { s.pod with launches := Tab.set s.pod.launches k p } }

/-- The record appended last to the notify's queue was accepted at this GTC under a higher SRC: the notify waits for the next tick, so that equal stamps of a queue stand in the order of SRC (R395). -/
def State.sameStamp (s : State) (f : Nat) (n : Notify) : Bool :=
  (((Tab.get (s.func f).queues n.queue []).getLast?).bind s.launch).any fun x => x.rcd.stamp == s.gtc && decide (n.rcd.src < x.rcd.src)

/-- The notify that a function core accepts next (R395): the first that has arrived. -/
def Function.nextNotify (k : Function) : Option Notify := k.notifies.find? Notify.there

/-- LAUNCH_NOTIFY_ACCEPT (R349, R395): the notify of a function that arrived first is appended to its queue, or turned away. -/
def execLaunchNotifyAccept (f : Nat) (s : State) : Host.Outcome State Fault Refusal :=
  .next (match (s.func f).nextNotify, (s.func f).up with
    | some n, true =>
      if s.sameStamp f n && !(s.func f).resetting then s
      else
      let s := s.onFunc f fun k => { k with notifies := k.notifies.erase n }
      let fn := s.func f
      if fn.resetting then s.answerNotify n 2
      else if 32 ≤ (Tab.get fn.queues n.queue []).length then s.answerNotify n 1
      else
        let part := fn.part.getD 0
        let tail := leBytes 4 n.rcd.src ++ leBytes 8 s.gtc
        let rcd := { n.rcd with bytes := patch n.rcd.bytes 0xF4 tail, stamp := s.gtc }
        let home := s.home n.unit n.stripe n.lane
        let s := s.onCore home.1 fun c => { c with lines := c.lines.map fun ln => ln.store n.pa tail }
        let s := s.enqueue home.1 part { id := 0, kind := .store, stripe := home.2.1, lane := home.2.2, pa := n.pa, va := n.va, key := n.key, isSealed := n.isSealed, compress := n.compress, world := n.world, pass := n.pass, size := 12, data := leNat tail }
        let s := s.answerNotify n 0
        if n.pod then s.startPod rcd.bytes rcd.src rcd.stamp part f rcd.ptb rcd.priv
        else
          let id := s.nextLaunch
          (s.addLaunch { part := part, func := f, queue := n.queue, rcd := rcd }).onFunc f fun k => { k with queues := Tab.modify k.queues n.queue [] fun q => q ++ [id] }
    | _, _ => s)

/-- The index leaves the dispenser (R350, R403). -/
def State.takeIndex (s : State) (sl launch i : Nat) : State :=
  let s := s.onSlice sl fun k => { k with chunks := (mapIf (fun c : Nat × Nat × Nat => c.1 == launch && c.2.1 == i) (fun c => (c.1, i + 1, c.2.2)) k.chunks).filter fun c => decide (c.2.1 < c.2.2) }
  { s with launches := Tab.modify s.launches launch { part := 0, func := 0, queue := 0, rcd := { bytes := [], ptb := 0, priv := .u, world := 0, src := 0, stamp := 0 } } fun x =>
      { x with disp := x.disp + 1, high := max x.high (i + 1) } }

/-- FETCHT (R350): once for the word; the answer goes to every active lane. -/
def execFetcht (f : FmtE) (s : State) : Host.Outcome State Fault Refusal :=
  .next (match s.curKind with
    | .booth => s.goHome
    | .simt =>
      let act := s.active f.hdr
      if act.isEmpty then s.finishPlain f.hdr.b
      else if (s.core s.cur.unit).team.isNone then s.illegal
      else
        match s.checkSem act fun _ => { srcs := [], dsts := (List.range 4).map (f.dst.toNat + ·), apply := fun _ t => t } with
        | .error e => s.stopWord noRunAhead e
        | .ok _ =>
          match s.fetchAnswer s.cur.unit with
          | none => s.blockWord (.answer 2)
          | some (st, i) =>
            let k := ((s.core s.cur.unit).team.map Team.launch).getD 0
            let b := ((s.launch k).map fun x => x.rcd.bytes).getD []
            let (x, y, z) := if st = 0 then recCoord b i else (0, 0, 0)
            let s := if st = 0 then (s.takeIndex (sliceOf s.cur.unit) k i).onCore s.cur.unit fun c => { c with team := c.team.map fun t => { t with last := [x, y, z] } } else s.onCore s.cur.unit fun c => { c with team := c.team.map fun t => { t with fetchEnd := st } }
            s.finish f.hdr.b fun l t =>
              if act.contains l then (t.setRegs f.dst.toNat [BitVec.ofNat 32 x, BitVec.ofNat 32 y, BitVec.ofNat 32 z, BitVec.ofNat 32 st]).setPred (bits f.x.toNat 6 4) (st == 0) else t
    | _ => s.illegal)

/-- A cancel of a pod launch reaches this package (R418): the dispatcher and the member's launch stop at its GTC, a record that still waits in the inbox will be dropped. -/
def State.podCancel (s : State) (src stamp at_ : Nat) : State :=
  let ks := (s.pod.launches.filter fun e => e.2.src == src && e.2.stamp == stamp).map (·.1)
  let low (a : Option Nat) : Option Nat := some (min (a.getD (2 ^ 64)) at_)
  { s with pod := { s.pod with cancels := s.pod.cancels ++ [(src, stamp, at_)], launches := s.pod.launches.map fun e => if ks.contains e.1 then (e.1, { e.2 with cancelAt := low e.2.cancelAt }) else e },
           launches := s.launches.map fun e => if (e.2.rcd.pod.map ks.contains).getD false then (e.1, { e.2 with cancelAt := low e.2.cancelAt }) else e }

/-- A cancel of a launch (R351, R412, R418): of a package launch at its GTC, of a pod launch on every member. (log 42) -/
def State.cancelRequest (s : State) (part src stamp at_ : Nat) (u : Bool) (world : Nat) : State × Bool :=
  match s.launches.find? fun e => e.2.part == part && e.2.rcd.src == src && e.2.rcd.stamp == stamp && e.2.rcd.pod.isNone && (!u || e.2.rcd.world == world) with
  | some (k, _) => ({ s with launches := s.launches.map fun e => if e.1 == k then (k, { e.2 with cancelAt := some (min (e.2.cancelAt.getD (2 ^ 64)) (max at_ s.gtc)) }) else e }, true)
  | none =>
    match s.pod.launches.find? fun e => e.2.src == src && e.2.stamp == stamp && !e.2.complete && src / 2 ^ 14 == s.packageIdx && (s.partOf (src % 2 ^ 14)) == some part
        && (!u || recWorld e.2.rcd == world) with
    | some (_, _) => (s.podCancel src stamp (max at_ (s.gtc + 4096)), true)
    | none => (s, false)

/-- CANCEL (R351). (log 42) -/
def execCancel (f : FmtE) (s : State) : Host.Outcome State Fault Refusal :=
  .next (s.launchWord f.hdr fun s act =>
    match s.checkSem act fun _ => { srcs := [(f.sa.toNat, f.fa), (f.sa.toNat + 1, f.fa), (f.sb.toNat, f.fb), (f.sb.toNat + 1, f.fb)], dsts := [f.dst.toNat], apply := fun _ t => t } with
    | .error e => s.stopWord noRunAhead e
    | .ok _ =>
      let ptr (l : Nat) : Nat := ((s.curThread l).pair f.sa.toNat).toNat
      match recordTrap 8 (act.map fun l => (l, ptr l)) with
      | some t => s.stopWord noRunAhead (.trap t)
      | none =>
        match s.readPieces 4 [f.dst.toNat] (act.flatMap fun l => [(l, ptr l + 0xF4), (l, ptr l + 0xF8), (l, ptr l + 0xFC)]) with
        | .error s => s
        | .ok (s, blocks) =>
          let s := act.foldl (fun s l =>
            let b := ((blocks.find? fun x => x.1 == l).map (·.2)).getD []
            let at_ := ((s.curThread l).pair f.sb.toNat).toNat
            let (s, ok) := s.cancelRequest s.curPart (field b 0 3) (field b 4 8) at_ (s.curPriv == .u) (s.worldOf s.cur.unit s.cur.stripe l).toNat
            s.onThread s.cur.unit s.cur.stripe l fun t => t.setReg f.dst.toNat (if ok then 0 else 1)) s
          s.finishPlain f.hdr.b)

/-- One decrement of a node (R352, R405, R407): false when its count is zero already. A node that becomes ready calls for a placement decision (R396). -/
def State.lowerNode (s : State) (f n : Nat) : State × Bool :=
  match Tab.get (s.func f).nodes n 0 with
  | 0 => (s, false)
  | k + 1 =>
    let s := s.onFunc f fun x => { x with nodes := if k = 0 then Tab.erase x.nodes n else Tab.set x.nodes n k }
    (if k = 0 then s.onPart ((s.func f).part.getD 0) fun p => { p with decide := true } else s, true)

/-- NODESIG (R352). (log 42) -/
def execNodesig (f : FmtE) (s : State) : Host.Outcome State Fault Refusal :=
  .next (s.launchWord f.hdr fun s act =>
    match s.checkSem act fun _ => { srcs := [(f.sa.toNat, f.fa)], dsts := [f.dst.toNat], apply := fun _ t => t } with
    | .error e => s.stopWord noRunAhead e
    | .ok _ =>
      let s := act.foldl (fun s l =>
        let v := ((s.curThread l).reg f.sa.toNat).toNat
        let fn := bits v 15 12
        if !s.assigned s.curPart fn then s.onThread s.cur.unit s.cur.stripe l fun t => t.setReg f.dst.toNat 7
        else
          let (s, ok) := s.lowerNode fn (bits v 11 0)
          s.onThread s.cur.unit s.cur.stripe l fun t => t.setReg f.dst.toNat (if ok then 0 else 1)) s
      s.finishPlain f.hdr.b)

end Sys2Proof.Machine
end

