-- ==== Sys2Proof/Machine/Teams.lean ====
section
/-!
DEFINITION. Teams on cores: placement, exit, the world latch sequence, and the save areas (R106, R119, R126, R129, R132, R142, R151, R339, R360, R397, R402, R431 to R435).
-/
namespace Sys2Proof.Machine

/-! ## Writes by physical address -/

/-- Why a write by physical address is not performed (R433): cause and detail. -/
def State.physBad (s : State) (part : Nat) (world : BitVec 6) (key pa : Nat) : Option (Nat × Nat) :=
  if pa < windowEnd then some (0x0E, 0x0A)
  else
    match s.homeOf part pa with
    | none => some (0x0E, 0x0A)
    | some (sl, loc) =>
      let f := s.frame (frameKey sl loc)
      if f.withdrawn then some (0x0E, 0x0A)
      else if f.lost.isSome || (match f.quarantined with
        | some st => decide ((s.keySlot sl key).stamp ≤ st)
        | none => false) then some (0x13, 0x1C)
      else if s.keyOk { part := part, world := world, pass := false, key := key, isSealed := false } sl loc then none else some (0x10, 0)

/-- A write by physical address, line by line. -/
def State.physWrite (s : State) (fuel part : Nat) (world : BitVec 6) (key pa : Nat) (bs : List Byte) : State :=
  match fuel with
  | 0 => s
  | n + 1 =>
    if bs.isEmpty then s
    else
      let k := 128 - pa % 128
      let (s, ok) := s.keyCheck { part := part, world := world, pass := false, key := key, isSealed := false } pa
      State.physWrite (if ok then s.writePa part pa key false (bs.take k) else s) n part world key (pa + k) (bs.drop k)

/-- A read by physical address, line by line. -/
def State.physRead (s : State) (fuel part pa n : Nat) : List Byte :=
  match fuel with
  | 0 => []
  | m + 1 =>
    if n = 0 then []
    else
      let k := min n (128 - pa % 128)
      (s.readPa part pa k).2.1 ++ State.physRead s m part (pa + k) (n - k)

/-- What a run of bytes at physical addresses waits for before a unit that acts in one step may use it (R41, R82 to R85, R323). -/
def State.physWait (s : State) (fuel part pa n : Nat) (write : Bool) : Option Wait :=
  match fuel with
  | 0 => none
  | m + 1 =>
    if n = 0 then none
    else
      let k := min n (128 - pa % 128)
      (s.homeWait part pa k write true).or (State.physWait s m part (pa + k) (n - k) write)

/-! ## Save areas (R431, R434) -/

/-- The context number of a team (R431). -/
def ctxNumber (f q j : Nat) : Nat := 4096 * f + 64 * q + j
/-- First byte of save area j of a queue. -/
def State.saveArea (s : State) (f q j : Nat) : Nat := 65536 * bits (Tab.get (s.func f).qsave q 0).toNat 51 16 + 0x680000 * j
/-- The key id of a queue's save areas. -/
def State.saveKey (s : State) (f q : Nat) : Nat := bits (Tab.get (s.func f).qsave q 0).toNat 60 53

/-- Save areas of a queue that teams or saved contexts hold. -/
def State.savesUsed (s : State) (f q : Nat) : List Nat :=
  (s.cores.filterMap fun e => match e.2.team with
    | some t => if t.func = f ∧ t.queue = q ∧ t.saveIdx < 63 then some t.saveIdx else none
    | none => none)
    ++ ((s.func f).saved.filterMap fun e => if e.1 = q then e.2.core.team.map Team.saveIdx else none)

/-- The save area of a new team, when it is swappable (R431). -/
def State.freeSave (s : State) (f q : Nat) (b : List Byte) : Option Nat :=
  if recSwap b && recCsz b == 0 && !((List.range 16).any fun c => (recChan b c).testBit 63) then
    (List.range ((Tab.get (s.func f).qsave q 0).toNat % 64)).find? fun j => !(s.savesUsed f q).contains j
  else none

/-- Bit t of a 128-byte map in a save area's header set. -/
def State.markSaved (s : State) (part : Nat) (world : BitVec 6) (key pa t : Nat) : State :=
  let at_ := pa + 0x80 + t / 8
  let old := ((s.physRead 2 part at_ 1).head?).getD 0
  s.physWrite 2 part world key at_ [old ||| BitVec.ofNat 8 (2 ^ (t % 8))]

/-- The saved context that owns the till of a core (R132, R435): its area and the key id of it. -/
def State.tillOwner (s : State) (u : Nat) : Option (Nat × Nat) :=
  let c := s.core u
  let ctx := c.kown.toNat % 65536
  let f := ctx / 4096
  let q := ctx / 64 % 64
  let j := ctx % 64
  if decide (2 ^ 31 ≤ c.kown.toNat) && (s.func f).saved.any fun e => e.1 == q && ((e.2.core.team.map fun t => t.saveIdx == j).getD false)
    then some (s.saveArea f q j, s.saveKey f q) else none

/-- The function core spills the dirty tiles of a saved owner to its area, and the till is zero (R435); every tile of a till without such an owner is zero too (R130). -/
def State.spillTill (s : State) (u : Nat) : State :=
  let c := s.core u
  let part := (s.partOf u).getD 0
  let s : State := match s.tillOwner u with
    | none => s
    | some (base, key) =>
      c.kdirty.foldl (fun s e =>
        let s := s.physWrite 40 part c.world key (base + 0x250000 + 4096 * e.1) (c.readTill (4096 * e.1) 4096)
        s.markSaved part c.world key base e.1) s
  s.onCore u fun c => { c with till := [], kdirty := [] }

/-- What the spill of a core's till waits for. -/
def State.spillWait (s : State) (u : Nat) : Option Wait :=
  match s.tillOwner u with
  | none => none
  | some (base, _) =>
    let part := (s.partOf u).getD 0
    (s.core u).kdirty.findSome? fun e : Nat × Bool => (s.physWait 40 part (base + 0x250000 + 4096 * e.1) 4096 true).or (s.physWait 2 part (base + 0x80) 128 true)

/-! ## Placement (R142, R397, R402) -/

/-- A thread at placement (R142). -/
def freshThread (b : List Byte) : Thread := { status := .ready, pc := BitVec.ofNat 52 (field b 0 8), blocks := BitVec.ofNat 12 (2 ^ recXb b - 1) }

/-- The rings of a record (R159, R347). -/
def recRings (b : List Byte) : Tab Ring :=
  (List.range 16).filterMap fun q => if (field b 0xD0 2).testBit q then some (q, { ns := field b 0x38 8 / 16 ^ q % 16 + 1 }) else none

/-- The team barriers of a record (R339). -/
def recBarriers (b : List Byte) : Tab Barrier :=
  Tab.tabulate 32 fun n =>
    match ((List.range 8).map (recBar b)).find? fun e => e.testBit 15 && bits e 14 10 == n with
    | some e => { exp := e % 512 + 1 }
    | none => { exp := 32 * recStripes b }

/-- The channel ends of the team at position q of its cohort (R126, R128). -/
def recChannels (b : List Byte) (us : List Nat) (q : Nat) : Tab Channel :=
  (List.range 16).filterMap fun k =>
    let c := recChan b k
    if !c.testBit 63 then none
    else
      let delta := sext (bits c 52 48) 5
      let n : Int := (us.length : Nat)
      let unit (i : Int) : Nat := (us[(i % n).toNat]?).getD 0
      some (k, { delta := delta, ssz := bits c 43 40, nsl := bits c 37 32, bank := bits c 28 24, off := bits c 11 0, credits := bits c 37 32 + 1,
                 toUnit := unit ((q : Int) + delta), fromUnit := unit ((q : Int) - delta) })

/-- One team of a cohort is placed on a core, with its context number and save area. -/
def State.placeOne (s : State) (k : Nat) (x : Launch) (us : List Nat) (q u : Nat) : State :=
  let b := x.rcd.bytes
  let save := s.freeSave x.func x.queue b
  let j := save.getD 63
  let ctx := ctxNumber x.func x.queue j
  let s := s.spillTill u
  let s := s.onCore u fun c =>
    { c with
      stripes := Tab.tabulate (recStripes b) fun i => { lanes := Tab.tabulate 32 fun _ => freshThread b, role := BitVec.ofNat 2 (field b 0x24 4 / 4 ^ i) },
      quads := [],
      team := some { launch := k, stripes := recStripes b, csz := recCsz b, pos := q, members := us, tiles := recTiles b, pool := recPool b, used := 32 * recStripes b * recXb b,
                     psize := recPsize b, saveIdx := j, swappable := save.isSome, placed := s.gtc, func := x.func, queue := x.queue,
                     chans := (List.range 16).any fun c => (recChan b c).testBit 63, xb := recXb b },
      ctx := BitVec.ofNat 16 ctx, ptb := x.rcd.ptb, kown := BitVec.ofNat 32 (2 ^ 31 + ctx), params := x.rcd.params,
      barriers := recBarriers b, rings := recRings b, gangs := [], takes := [], chans := recChannels b us q, promos := [], stageWait := [], barrowWait := [],
      lines := [], consts := [], freedFor := none }
  (List.range 32).foldl (fun s n => if recMode b n = 0 then s else s.openBank u n (recMode b n)) s

/-- A cohort is placed on a group (R397): its arcade barriers start with it (R339). A requeued member of a pod launch asks for chunks now (R414). -/
def State.placeCohort (s : State) (k : Nat) (us : List Nat) : State :=
  match s.launch k with
  | none => s
  | some x =>
    let s := us.zipIdx.foldl (fun s (u, q) => s.placeOne k x us q u) s
    let n := us.length
    let base := s.logical ((us.head?).getD 0)
    let s := if n < 2 ∨ 8 < n then s
      else s.onSlice (sliceOf ((us.head?).getD 0)) fun sl =>
        { sl with arcBar := (List.range (2 * n)).foldl (fun t i => Tab.set t (32 * base + i) { exp := 32 * recStripes x.rcd.bytes * n }) sl.arcBar }
    { s with launches := Tab.set s.launches k { x with state := .dealing, nodeWait := false, teams := x.teams ++ us, reserved := [], latches := [], yielded := false, podAgain := false, podWant := x.podWant || x.podAgain } }

/-! ## Exit of a team (R106, R119, R129, R144) -/

/-- No thread of a core's team is left. -/
def Core.allGone (c : Core) : Bool := c.stripes.all fun t => t.2.lanes.all fun l => !l.2.alive

/-- What a team held when it left a core: operations in flight go on without it, its banks wait to return to C mode. -/
def Core.vacate (c : Core) : Core :=
  { c with
    team := none, stripes := [], quads := [], barriers := [], rings := [], gangs := [], takes := [], chans := [], promos := [], stageWait := [], barrowWait := [], params := [],
    leaving := (List.range 32).filter fun b => c.mode b != 0,
    stage := c.stage.map fun o => { o with orphan := true },
    matrix := { c.matrix with queue := c.matrix.queue.map (fun o => { o with orphan := true }), drain := c.matrix.drain.map (fun o => { o with orphan := true }), stop := none } }

/-- The channels of the cohort learn that a team has gone; messages on their way to it are discarded (R129). -/
def State.closeChannels (s : State) (u : Nat) (t : Team) : State :=
  let lost := (s.core u).chans.flatMap fun (_, ch) => if ch.senderGone then [] else ch.flight.map fun m => (ch.fromUnit, m.stripe)
  let s := lost.foldl (fun s (v, i) => s.onStripe v i fun x => x.count 4 (· - 1)) s
  t.members.foldl (fun s v => s.onCore v fun c =>
    { c with chans := c.chans.map fun (k, ch) => (k, { ch with peerGone := ch.peerGone || ch.toUnit == u, senderGone := ch.senderGone || ch.fromUnit == u }) }) s

/-- A partition is due a placement decision (R396). -/
def State.decideSoon (s : State) (p : Nat) : State := s.onPart p fun x => { x with decide := true }

/-- The second that the metering counts now: its first GTC (R458). -/
def Partition.meterFrom (p : Partition) : Nat := p.bootAt.getD 0 + 1000000000 * p.meterUsage

/-- The ticks of a team that leaves a core count for the metering (R458). -/
def State.teamTicks (s : State) (u : Nat) (t : Team) : State :=
  s.onPart ((s.partOf u).getD 0) fun p => { p with meterTicks := p.meterTicks + (s.gtc - max t.placed p.meterFrom) }

/-- The team of a core exits: the launch remembers which writes its completion must wait for (R405). -/
def State.teamExit (s : State) (u : Nat) (t : Team) : State :=
  let s := (s.closeChannels u t).dropNotifies u
  let s := { s with granq := s.granq.filter fun g => g.unit != u }.onCore u Core.vacate
  let s := s.onSlice (sliceOf u) fun k => { k with barrows := k.barrows.map fun (e, b) => (e, { b with ops := mapIf (fun o : BarrowOp => o.unit == u) (fun o => { o with orphan := true }) b.ops }) }
  let s := match s.launch t.launch with
    | none => s
    | some x => { s with launches := Tab.set s.launches t.launch { x with teams := x.teams.erase u, flush := x.flush ++ [(u, (s.core u).nextId)] } }
  (s.teamTicks u t).decideSoon ((s.partOf u).getD 0)

/-- Accesses that threads of a core made on a booth, or before an exit on one, are performed: an ejected thread that has exited counts toward its team's exit only then (R390). -/
def Core.boothDone (c : Core) : Bool := c.outq.all fun a => a.booth.isNone || a.performed || a.kind == .pref

/-- Every team whose threads have all exited has exited. -/
def State.settleTeams (s : State) : State :=
  s.cores.foldl (fun s e => match (s.core e.1).team with
    | some t => if (s.core e.1).allGone && (s.core e.1).boothDone then s.teamExit e.1 t else s
    | none => s) s

/-! ## World latch (R359, R360) -/

/-- A core has work that a latch may not interrupt (R359). -/
def State.latchBusy (s : State) (u : Nat) : Bool :=
  let c := s.core u
  c.team.isSome || !c.stage.isEmpty || !c.matrix.queue.isEmpty || !c.matrix.drain.isEmpty || !c.chans.isEmpty || c.latching.isSome
    || (s.slice (sliceOf u)).barrows.any fun e => e.2.ops.any fun o => o.unit == u

/-- The latch sequence begins (R360): about 4,096 clk. -/
def State.startLatch (s : State) (u : Nat) (w : BitVec 6) (by_ : Option (Nat × Nat)) : State :=
  let s := s.spillTill u
  s.onCore u fun c => { c with latching := some w, latchBy := by_, latchAt := s.gtc + clkTicks 4096 }

/-- The effect of the sequence (R360). -/
def Core.latch (c : Core) (w : BitVec 6) : Core :=
  { c with
    stripes := [], quads := [], bmode := 0, sram := [], fbits := [], pbits := [], clearing := [], clearAt := [], leaving := [],
    till := [], kdirty := [], kown := c.kown &&& 0x7FFFFFFF,
    matrix := { c.matrix with slots := [], claim := none }, lines := [], consts := [], tlb := [], quadTlb := [], walkAhead := [], walkCache := [],
    barriers := [], rings := [], gangs := [], takes := [], world := w, latching := none, latchBy := none }

/-- WLATCH_COMPLETE (R360). -/
def execWlatchComplete (u : Nat) (s : State) : Host.Outcome State Fault Refusal :=
  .next (match (s.core u).latching with
    | none => s
    | some w => if s.gtc < (s.core u).latchAt || !s.rootUp then s else (s.onCore u fun c => c.latch w).decideSoon ((s.partOf u).getD 0))

end Sys2Proof.Machine
end

