-- ==== Sys2Proof/Machine/Booth.lean ====
section
/-!
DEFINITION. Ejected threads on their booths: the end of the hand-over, turns, return, repatriation, the time limit, the hand-back, and the loss of a booth core (R385 to R391).
-/
namespace Sys2Proof.Machine

/-- A booth core with a guest changed. -/
def Core.onGuest (c : Core) (k : Nat) (f : Guest → Guest) : Core := { c with guests := mapIf (fun e : Nat × Guest => e.1 == k) (fun e => (e.1, f e.2)) c.guests }

/-- EJECT_HANDOVER_DONE (R385): after 40 clk the booth thread may issue. -/
def execEjectHandoverDone (u k : Nat) (s : State) : Host.Outcome State Fault Refusal :=
  .next (match Tab.find (s.core u).guests k with
    | none => s
    | some g =>
      if g.arrived || decide (s.gtc < g.due) then s
      else (s.onCore u fun c => c.onGuest k fun g => { g with arrived := true }).onThread u k 0 fun t => { t with status := .ready })

/-- BOOTH_TURN (R386): the slot goes round to the next ready thread, whose run issues. -/
def execBoothTurn (u : Nat) (s : State) : Host.Outcome State Fault Refusal :=
  let x := Tab.get (s.core u).quads 0 {}
  .next (if x.turn.isSome || kindOf u != .booth then s
    else
      match ((List.range 16).map fun k => (x.last + 1 + k) % 16).find? fun k => s.stripeReady u k with
      | some k => s.grant u 0 k
      | none => s)

/-- A turn of a booth thread is open. -/
def Core.inTurn (c : Core) (k : Nat) : Bool := match (Tab.get c.quads 0 {}).turn with
  | some t => t.stripe == k
  | none => false

/-- Every base register of a thread is full (R387). -/
def Thread.baseFull (t : Thread) : Bool := (List.range 32).all fun r => !t.empty.getLsbD r

/-- What a booth thread waits for at a bank port, and its LD.rem in progress with the loads that this holds, are given up: the word is executed again, or never. -/
def State.dropGuestWaits (s : State) (u k : Nat) : State :=
  let mine (p : Promotion) : Bool := p.stripe == k
  let s := (s.core u).promos.foldl (fun s p => if mine p then s.onCore p.home fun c => { c with outq := c.outq.filter fun a : Access => !p.ids.contains a.id } else s) s
  { s with granq := s.granq.filter fun g => !(g.unit == u && g.stripe == k) }.onCore u fun c => { c with promos := c.promos.filter fun p => !mine p }

/-- The hand-back begins: the home lane's base registers are marked empty, and 40 clk run (R387). (log 30) -/
def State.startBack (s : State) (u k : Nat) (g : Guest) : State :=
  ((s.dropGuestWaits u k).onCore u fun c => c.onGuest k fun g => { g with returning := true, back := true, due := s.gtc + clkTicks 40 }).onThread g.home g.stripe g.lane fun t =>
    (List.range 32).foldl Thread.mark t

/-- A booth thread stands at its join PC with an empty stack (R387). -/
def State.atJoin (s : State) (u k : Nat) (g : Guest) : Bool := (s.thread u k 0).pc == g.joinPc && (s.stripe u k).join.isEmpty

/-- BOOTH_RETURN (R387): the thread at its join PC, once its base registers are full. An open transaction goes home with it (log 30). -/
def execBoothReturn (u k : Nat) (s : State) : Host.Outcome State Fault Refusal :=
  .next (match Tab.find (s.core u).guests k with
    | none => s
    | some g =>
      if !g.arrived || g.returning || g.back || !s.atJoin u k g || (s.core u).inTurn k || !(s.thread u k 0).baseFull || (s.commits.any fun c => c.unit == u && c.stripe == k) then s
      else s.startBack u k g)

/-- REPATRIATE (R388): a word has sent the thread home, or it is marked and stands at a run boundary. A transaction aborts with cause EJECT, unless a gang TXEND has brought it (R328). -/
def execRepatriate (u k : Nat) (s : State) : Host.Outcome State Fault Refusal :=
  .next (match Tab.find (s.core u).guests k with
    | none => s
    | some g =>
      let byMark := g.marked && s.atBoundary u k && !s.atJoin u k g
      if !g.arrived || g.back || (s.core u).inTurn k || !(g.returning || byMark) || (s.commits.any fun c => c.unit == u && c.stripe == k) then s
      else
        let s' := if g.keepTx then s else s.abortLane u k 0 (txCause 8)
        if !(s'.thread u k 0).baseFull then s
        else
          let s' := if g.timeout && !g.returning then
              s'.onSlice (sliceOf u) fun x => { x with timeouts := Tab.modify x.timeouts (arcadeOf u) 0 fun n => min (n + 1) 0xFFFF }
            else s'
          s'.startBack u k g)

/-- BOOTH_TIME_LIMIT (R388): EJTO clk after the start stamp the thread is marked; EJTO = 0 sets no limit. -/
def execBoothTimeLimit (u k : Nat) (s : State) : Host.Outcome State Fault Refusal :=
  .next (match Tab.find (s.core u).guests k with
    | none => s
    | some g =>
      if s.timeUp g then s.onCore u fun c => c.onGuest k fun g => { g with marked := true, timeout := true } else s)

/-- What a thread brings back to its home lane (R387): g0 to g31 full, the predicates, the PC, the run count, a transaction that is still open. -/
def Thread.handBack (home t : Thread) : Thread :=
  let home := (List.range 32).foldl (fun (x : Thread) r => x.setReg r (t.reg r)) home
  { home with status := .ready, preds := t.preds, pc := t.pc, run := t.run, lov := 0, tx := t.tx, txcause := t.txcause, acquired := home.acquired || t.acquired, done := false }

/-- The trap or the missing pages of a word inside a transaction are taken at home, at the abort target (R328, R389). -/
def State.takeGuestStop (s : State) (g : Guest) : State :=
  match g.trap, g.pages with
  | some tr, _ => s.takeTrap g.home g.stripe (laneMask (· == g.lane)) (BitVec.ofNat 52 g.trapPc) { tr with lane := g.lane }
  | none, [] => s
  | none, es =>
    let s := s.postBatch g.home g.stripe g.lane g.trapPc (es.map fun e => { e with lane := g.lane }) 0 4
    s.onCore g.home fun c => (c.leaveTurn g.stripe 0xFFFFFFFF).onStripe g.stripe fun t => { t with parked := true }

/-- A booth thread is free again, with nothing left of it (R387). -/
def Core.freeGuest (c : Core) (k : Nat) : Core := { c.leaveTurn k 0xFFFFFFFF with guests := Tab.erase c.guests k, stripes := Tab.erase c.stripes k }

/-- HAND_BACK_DONE (R387): after 40 clk, with every access of the thread performed, the home lane is ready at the PC. A stop waits for the home stripe while it is parked or runs a handler that is not the lane's own; in its own handler it is a double trap (R423). -/
def execHandBackDone (u k : Nat) (s : State) : Host.Outcome State Fault Refusal :=
  .next (match Tab.find (s.core u).guests k with
    | none => s
    | some g =>
      let t := s.stripe g.home g.stripe
      let stop := g.trap.isSome || !g.pages.isEmpty
      if !g.back || decide (s.gtc < g.due) || s.pending u k 0 true false false || (stop && (s.handlerElsewhere g.home g.stripe g.lane || t.parked || (g.trap.isSome && (s.recordWait g.home g.stripe g.lane).isSome))) then s
      else
        let th := s.thread u k 0
        let s := (s.onThread g.home g.stripe g.lane fun x => x.handBack th).onCore u fun c => c.freeGuest k
        s.takeGuestStop g)

/-- The ejected threads whose home core satisfies p are marked (R388). -/
def State.markGuests (s : State) (p : Nat → Bool) : State :=
  s.cores.foldl (fun s e => if e.2.guests.any fun g => p g.2.home then
    s.onCore e.1 fun c => { c with guests := c.guests.map fun (k, g) => (k, if p g.home then { g with marked := true } else g) } else s) s

/-- Some thread of a core waits in the current phase of a barrier (R342, R388). -/
def Core.waitsAt (c : Core) (arc : Bool) (b : Nat) (ph : BitVec 32) : Bool :=
  c.stripes.any fun t => t.2.lanes.any fun l => l.2.status == .waiting (.barrier arc b ph)

/-- The barrier cause of repatriation for the team of a core (R388): a phase on which a thread waits lacks no more arrivals than threads are ejected. -/
def State.barrierCause (s : State) (u : Nat) (t : Team) : Bool :=
  let c := s.core u
  let near (b : Barrier) (n : Nat) : Bool := decide (b.exp ≤ b.arr + n)
  (c.barriers.any fun (k, b) => c.waitsAt false k b.ph && near b (s.guestCount u))
    || ((s.slice (sliceOf u)).arcBar.any fun (k, b) => (t.members.any fun v => (s.core v).waitsAt true k b.ph) && near b ((t.members.map s.guestCount).sum))

/-- The causes of repatriation that come from the home core: a barrier phase and a context save (R388). -/
def State.settleGuests (s : State) : State :=
  if s.cores.all fun e => e.2.guests.isEmpty then s
  else
    s.cores.foldl (fun s (u, c) => match c.team with
      | some t => if t.saving || s.barrierCause u t then s.markGuests (· == u) else s
      | none => s) s

/-- The loss of a booth core (R391): each resident thread's home lane exits, with one record: its source is the booth core, and ADDR names the home core by its source number, for which the spec gives no place (DESIGN CHOICE, log 69). -/
def State.loseGuests (s : State) (u : Nat) : State :=
  let s := (s.core u).guests.foldl (fun s (_, g) =>
    let r := s.threadRecord g.home g.stripe g.lane 0 { cause := 0x17, dcode := 0x14 }
    let r : Record := { r with src := s.src u, addr := s.src g.home }
    ((s.attribute g.home r).post ((s.partOf g.home).getD 0) r).exitThread g.home g.stripe g.lane) s
  { s with granq := s.granq.filter fun g => g.unit != u }.onCore u fun c => { c with guests := [], stripes := [], quads := [], lines := [], consts := [], tlb := [], walkCache := [] }

end Sys2Proof.Machine
end

