-- ==== Sys2Proof/Machine/Dispatcher.lean ====
section
/-!
DEFINITION. The package dispatcher and the slice dispensers: heads, placement, ageing, chunks, completion, pre-emption, cancel and time slices (R396 to R412, R431 to R433).
-/
namespace Sys2Proof.Machine

/-- A launch without content, for tables. -/
def noLaunch : Launch := { part := 0, func := 0, queue := 0, rcd := { bytes := [], ptb := 0, priv := .u, world := 0, src := 0, stamp := 0 } }
/-- The state with a launch changed, if it is known. -/
def State.onLaunch (s : State) (k : Nat) (f : Launch → Launch) : State :=
  match s.launch k with
  | none => s
  | some x => { s with launches := Tab.set s.launches k (f x) }

/-- The state with a pod launch changed, if it is known. -/
def State.onPodLaunch (s : State) (k : Nat) (f : PodLaunch → PodLaunch) : State :=
  { s with pod := { s.pod with launches := s.pod.launches.map fun e : Nat × PodLaunch => if e.1 == k then (e.1, f e.2) else e } }

/-- The head of a queue (R396). -/
def State.headOf (s : State) (f q : Nat) : Option Nat := (Tab.get (s.func f).queues q []).head?
/-- A launch leaves its queue; the next record becomes the head (R398). -/
def State.unqueue (s : State) (k : Nat) : State :=
  match s.launch k with
  | none => s
  | some x => (s.onFunc x.func fun fn => { fn with queues := Tab.modify fn.queues x.queue [] fun q => q.filter (· != k) }).decideSoon x.part

/-- Chunks of a launch on every slice (R403). -/
def State.chunksOf (s : State) (k : Nat) : List (Nat × Nat) := s.slices.flatMap fun e => (e.2.chunks.filter fun c => c.1 == k).map (·.2)
/-- Indices of ranges. -/
def rangeSum (l : List (Nat × Nat)) : Nat := (l.map fun r => r.2 - r.1).sum
/-- Indices of a launch that are not dispensed on this package. -/
def State.undispensed (s : State) (k : Nat) (x : Launch) : Nat :=
  (x.total - x.next) + rangeSum x.remnants + rangeSum x.podChunks + rangeSum (s.chunksOf k)
/-- The index space is exhausted (R405): nothing left to deal and no chunk unserved. -/
def State.exhausted (s : State) (k : Nat) (x : Launch) : Bool := x.dealt && (s.chunksOf k).isEmpty

/-! ## A record becomes the head (R402, R403) -/

/-- Bytes at a virtual address by the package dispatcher, eight at a time. -/
def State.readVa (s : State) (c : EngCtx) (n va : Nat) : State × Except EngStop (List Byte) :=
  match n with
  | 0 => (s, .ok [])
  | k + 1 =>
    match s.engRead c (va % 2 ^ 52) 8 with
    | (s, .error e) => (s, .error e)
    | (s, .ok (_, true)) => (s, .error (.fault { cause := 0x13, addr := va % 2 ^ 52 }))
    | (s, .ok (bs, false)) =>
      match State.readVa s c k (va + 8) with
      | (s, .error e) => (s, .error e)
      | (s, .ok r) => (s, .ok (bs ++ r))

/-- For whom the package dispatcher acts (R402). (log 59) -/
def Launch.ctx (x : Launch) : EngCtx := { unit := 0x1611, part := x.part, ptb := x.rcd.ptb, priv := x.rcd.priv, world := BitVec.ofNat 6 x.rcd.world, tlb := .keep }

/-- The record of a failed use of a launch's addresses (R402): it concerns no thread, so WORLD and the thread fields are zero (R426), and so is PPRIV. (log 60) -/
def State.dispatcherRecord (s : State) (part : Nat) (t : Trap) (addr : Nat) : State :=
  s.post part { stamp := s.gtc, src := s.src 0x1611, cause := t.cause, dcode := t.dcode, addr := addr }

/-- PARAM_FETCH (R402, R403, R408): a record that has become head reads its parameter bytes; one whose NEXT lies outside the grid completes at once. -/
def execParamFetch (f q : Nat) (s : State) : Host.Outcome State Fault Refusal :=
  .next (match s.headOf f q with
    | none => s
    | some k =>
      match s.launch k with
      | none => s
      | some x =>
        if x.state != .queued || x.stopped s.gtc || x.failed || !(s.func f).up then s
        else
          let b := x.rcd.bytes
          let first := recFirst b
          let go (s : State) (ps : List Byte) : State :=
            let y := { x with rcd := { x.rcd with params := ps }, state := if first.isNone && x.rcd.pod.isNone then .draining else .placing, nodeWait := s.nodeHolds x, t0 := s.gtc,
                              next := if x.rcd.pod.isSome then x.next else first.getD (recTotal b), total := if x.rcd.pod.isSome then x.total else recTotal b, started := recStart b == 0 }
            let s := { s with launches := Tab.set s.launches k y }
            if first.isNone && x.rcd.pod.isNone then s.unqueue k else s.decideSoon x.part
          if x.rcd.pod.isSome then go s x.rcd.params
          else
            match s.readVa x.ctx (recPsize b / 8) (recParp b) with
            | (_, .error .wait) => s
            | (s, .error (.fault t)) =>
              (((s.dispatcherRecord x.part t t.addr).onLaunch k fun y => { y with state := .draining, failed := true }).unqueue k)
            | (s, .ok ps) => go s ps)

/-! ## Placement (R396 to R401) -/

/-- A core may take a team of a launch, but for its world (R397): enabled, empty, its banks back, not reserved for another head. (log 41) -/
def State.idleFor (s : State) (k u : Nat) : Bool :=
  let c := s.core u
  c.team.isNone && !c.failed && c.leaving.isEmpty && !(s.launches.any fun e => e.1 != k && e.2.reserved.contains u)
/-- The core has the world latched, and no latch runs (R360, R397). -/
def Core.hasWorld (c : Core) (w : Nat) : Bool := c.latching.isNone && c.world.toNat == w

/-- A head may take another cohort now (R398, R400); a requeued member of a pod launch asks for its chunks once it is placed (R414). -/
def State.placeable (s : State) (k : Nat) : Bool :=
  match s.launch k with
  | none => false
  | some x => (x.state == .placing || x.state == .dealing) && !x.nodeWait && !x.preempt && !x.stopped s.gtc && !(s.func x.func).resetting && (x.podAgain || decide (x.teams.length < s.undispensed k x))

/-- Firmware may latch the cores of a group to a world (R397, R453): the root core runs, the world is configured, and no latch runs there. -/
def State.mayLatch (s : State) (part world : Nat) (us : List Nat) : Bool :=
  s.rootUp && (s.part part).wmask.getLsbD world && us.all fun u => (s.core u).latching.isNone && ((s.core u).world.toNat == world || !s.latchBusy u)

/-- The cores of a group that are of another world start their latch sequences (R397). -/
def State.latchGroup (s : State) (world : Nat) (us : List Nat) : State :=
  us.foldl (fun s u => if (s.core u).world.toNat = world then s else s.startLatch u (BitVec.ofNat 6 world) none) s

/-- One cohort is placed, or the lowest idle group of another world starts its latch for the head (R397); none when neither is possible, or while the cores that it has latched are not ready. -/
def State.placeStep (s : State) (k : Nat) : State × Bool :=
  match s.launch k with
  | none => (s, false)
  | some x =>
    let n := 2 ^ recCsz x.rcd.bytes
    let idle := (s.groups x.part n).filter fun us => us.all (s.idleFor k)
    match idle.find? fun us => us.all fun u => (s.core u).hasWorld x.rcd.world with
    | some us => (s.placeCohort k us, true)
    | none =>
      if x.latches.any fun u => (s.core u).latching.isSome then (s, false)
      else
        match idle.find? (s.mayLatch x.part x.rcd.world) with
        | none => (s, false)
        | some us => ((s.latchGroup x.rcd.world us).onLaunch k fun x => { x with latches := us }, false)

/-- Cohorts for one head, one after another (R398). -/
def State.placeHead (s : State) (fuel k : Nat) : State :=
  match fuel with
  | 0 => s
  | n + 1 =>
    if !s.placeable k then s
    else
      match s.placeStep k with
      | (s, true) => State.placeHead s n k
      | (s, false) => s

/-- What a save area holds comes back to a core (R432, R434): registers, bits of granules and bank contents are read from the area, the rest from the device-defined region. (log 22) -/
def State.restore (s : State) (f : Nat) (v : Nat × Saved) : State :=
  let u := v.2.unit
  match v.2.core.team with
  | none => s
  | some t =>
    let part := (s.partOf u).getD 0
    let base := s.saveArea f v.1 t.saveIdx
    let old := v.2.core
    let regOf (i l r : Nat) : Word :=
      let o := if r < 32 then 0x6000 + 128 * (32 * i + l) + 4 * r else 0x16000 + 384 * (32 * i + l) + 4 * (r - 32)
      BitVec.ofNat 32 (leNat (s.physRead 2 part (base + o) 4))
    let stripes := old.stripes.map fun (i, x) => (i, { x with parked := false, lanes := x.lanes.map fun (l, th) =>
      (l, { th with g := (List.range 128).foldl (fun g r => if r < 32 ∨ th.blocks.getLsbD ((r - 32) / 8) then Tab.set g r (regOf i l r) else g) [] }) })
    let banks := (List.range 32).filter fun b => old.mode b != 0
    let sram := banks.foldl (fun m b => bytesSet m (b * bankBytes) (s.physRead 520 part (base + 0x50000 + bankBytes * b) bankBytes)) []
    let bitsAt (o : Nat) : Tab Bool := banks.flatMap fun b =>
      let bs := s.physRead 6 part (base + 0x46000 + 1024 * b + o) 512
      (List.range 4096).map fun g => (4096 * b + g, ((bs[g / 8]?).getD 0).getLsbD (g % 8))
    let s := s.onFunc f fun fn => { fn with saved := fn.saved.filter fun e => !(e.1 == v.1 && e.2.unit == u && ((e.2.core.team.map fun x => x.saveIdx == t.saveIdx).getD false)) }
    let s := s.onCore u fun c =>
      { c with stripes := stripes, quads := [], team := some { t with placed := s.gtc, saving := false, saveFor := none }, ctx := old.ctx, ptb := old.ptb, bmode := old.bmode,
               params := old.params, barriers := old.barriers, rings := old.rings, gangs := old.gangs, takes := old.takes, leaving := old.leaving, stageWait := old.stageWait, barrowWait := old.barrowWait, sram := sram, fbits := bitsAt 0, pbits := (bitsAt 512).filter (·.2),
               matrix := { c.matrix with claim := old.matrix.claim, slots := [], stop := old.matrix.stop }, lines := [], consts := [], freedFor := none }
    ({ s with granq := s.granq ++ v.2.gran } : State).onLaunch t.launch fun x => { x with teams := x.teams ++ [u], yielded := false }

/-- The core that a saved context left is free for it, but for its world (R432). -/
def State.freeFor (s : State) (v : Saved) : Bool :=
  match v.core.team with
  | none => false
  | some t => s.idleFor t.launch v.unit && !(s.launches.any fun e => e.2.reserved.contains v.unit) && !(s.func t.func).resetting
/-- A saved context may return to the core it left (R432). -/
def State.restorable (s : State) (v : Saved) : Bool := s.freeFor v && (s.core v.unit).hasWorld v.core.world.toNat

/-- A saved context returns, or its core, of another world, is latched to its world first (R397, R432, R435). -/
def State.serveSaved (s : State) (f : Nat) (v : Nat × Saved) : State :=
  if s.restorable v.2 then s.restore f v
  else if s.freeFor v.2 && s.mayLatch ((s.partOf v.2.unit).getD 0) v.2.core.world.toNat [v.2.unit] then s.latchGroup v.2.core.world.toNat [v.2.unit]
  else s

/-- What waits in a partition: a saved context of a function, or the head of a queue. -/
inductive Waiter where
  | saved (f : Nat) (v : Nat × Saved)
  | head (k : Nat)
  deriving DecidableEq, Repr

/-- PRIO of a queue (R393). -/
def State.prio (s : State) (f q : Nat) : Nat := bits (Tab.get (s.func f).qctl q 0).toNat 18 16

/-- The waiters of a function in head order: higher PRIO, lower STAMP, lower SRC (R396, R432). -/
def State.waiters (s : State) (f : Nat) : List Waiter :=
  let saved := (s.func f).saved.map fun v =>
    let x := (v.2.core.team.bind fun t => s.launch t.launch).getD noLaunch
    ((7 - s.prio f v.1, x.rcd.stamp, x.rcd.src), Waiter.saved f v)
  let heads := (s.func f).queues.filterMap fun (q, ks) => ks.head?.bind fun k => (s.launch k).map fun x => ((7 - s.prio f q, x.rcd.stamp, x.rcd.src), Waiter.head k)
  let le (a b : (Nat × Nat × Nat) × Waiter) : Bool :=
    decide (a.1.1 < b.1.1) || (a.1.1 == b.1.1 && (decide (a.1.2.1 < b.1.2.1) || (a.1.2.1 == b.1.2.1 && decide (a.1.2.2 ≤ b.1.2.2))))
  ((saved ++ heads).mergeSort le).map (·.2)

/-- A waiter takes what it can at this decision. -/
def State.serveWaiter (s : State) (w : Waiter) : State :=
  match w with
  | .saved f v => s.serveSaved f v
  | .head k => s.placeHead 600 k

/-- The context number of a saved context. -/
def savedCtx (v : Nat × Saved) : Nat := v.2.core.ctx.toNat

/-- The core that a save has freed goes first to what caused the save (R432): to a head on a group that is free for it, or to a saved context. A latch that this needs begins, and the claim stands until it has ended. -/
def State.servePreferred (s : State) (u : Nat) : State :=
  let drop (s : State) : State := s.onCore u fun c => { c with freedFor := none }
  match (s.core u).freedFor with
  | none => s
  | some (0, id) =>
    match s.launch id with
    | none => drop s
    | some x =>
      let fits (us : List Nat) : Bool := us.contains u && us.all (s.idleFor id)
      match (if s.placeable id then (s.groups x.part (2 ^ recCsz x.rcd.bytes)).find? fits else none) with
      | none => drop s
      | some us =>
        if us.all fun v => (s.core v).hasWorld x.rcd.world then (drop s).placeCohort id us
        else if us.any fun v => (s.core v).latching == some (BitVec.ofNat 6 x.rcd.world) then s
        else if s.mayLatch x.part x.rcd.world us then (s.latchGroup x.rcd.world us).onLaunch id fun x => { x with latches := us }
        else drop s
  | some (_, id) =>
    match (s.func (id / 4096)).saved.find? fun v => savedCtx v == id && v.2.unit == u with
    | none => drop s
    | some v =>
      if s.restorable v.2 then (drop s).restore (id / 4096) v
      else if s.freeFor v.2 && (s.core u).latching == some v.2.core.world then s
      else if s.freeFor v.2 && s.mayLatch ((s.partOf u).getD 0) v.2.core.world.toNat [u] then s.latchGroup v.2.core.world.toNat [u]
      else drop s

/-- The functions of a partition, ascending. -/
def State.funcsOf (s : State) (p : Nat) : List Nat := (List.range 16).filter fun f => s.assigned p f

/-- The functions in the order of a decision (R396): from the one whose turn it is, a function without a placeable head giving its turn up. (log 41) -/
def State.turnOrder (s : State) (p : Nat) : List Nat :=
  let fs := s.funcsOf p
  let from_ := fs.filter (fun f => (s.part p).turn ≤ f) ++ fs.filter (fun f => f < (s.part p).turn)
  let able (f : Nat) : Bool := (s.waiters f).any fun w => match w with
    | .head k => s.placeable k
    | .saved _ v => s.freeFor v.2
  match from_.findIdx? able with
  | none => from_
  | some i =>
    let f := (from_[i]?).getD 0
    fs.filter (fun g => f ≤ g) ++ fs.filter (fun g => g < f)

/-- Bytes of a save area (R434). -/
def saveBytes : Nat := 0x680000

/-- A spill or a restore of the partition must wait for an area of its saved contexts (R41, R323, R433, R435). -/
def State.savesHeld (s : State) (p : Nat) : Bool :=
  (s.cores.any fun e => s.partOf e.1 == some p && (s.spillWait e.1).isSome)
    || s.funcs.any fun f => f.2.part == some p && f.2.saved.any fun v => v.2.core.team.any fun t => (s.physWait (saveBytes / 128) p (s.saveArea f.1 v.1 t.saveIdx) saveBytes false).isSome

/-- PLACEMENT_DECISION (R396, R398, R399, R408): it waits while a save area that it may use is held. -/
def execPlacementDecision (p : Nat) (s : State) : Host.Outcome State Fault Refusal :=
  .next (if !(s.part p).decide || s.savesHeld p then s
    else
      let s := s.onPart p fun x => { x with decide := false }
      let s : State := { s with launches := s.launches.map fun e : Nat × Launch => (e.1, if e.2.part == p && e.2.nodeWait && !s.nodeHolds e.2 then { e.2 with nodeWait := false, t0 := s.gtc, crossed := false } else e.2) }
      let s := s.cores.foldl (fun s e => if s.partOf e.1 == some p then s.servePreferred e.1 else s) s
      let order := s.turnOrder p
      let s := order.foldl (fun s f => if (s.func f).up then (s.waiters f).foldl State.serveWaiter s else s) s
      match order with
      | [] => s
      | f :: r => s.onPart p fun x =>
        let used := if x.turn = f then x.turnUsed + 1 else 1
        if used < Tab.get x.fwgt f 1 then { x with turn := f, turnUsed := used } else { x with turn := (r.head?).getD f, turnUsed := 0 })

/-- The group that a head may reserve (R400): of the groups without a core that another head reserves, the one with the fewest cores that hold teams, the lowest on a tie. -/
def State.reservable (s : State) (k : Nat) (x : Launch) : Option (List Nat) :=
  let free (us : List Nat) : Bool := us.all fun u => !(s.launches.any fun e => e.1 != k && e.2.reserved.contains u)
  let held (us : List Nat) : Nat := us.countP fun u => (s.core u).team.isSome
  ((s.groups x.part (2 ^ recCsz x.rcd.bytes)).filter free).foldl (fun (b : Option (List Nat)) us => match b with
    | none => some us
    | some v => if held us < held v then some us else some v) none

/-- A head in state 3 that holds no group and could have one (R400). -/
def State.wantsGroup (s : State) (k : Nat) : Bool :=
  match s.launch k with
  | none => false
  | some x => s.headOf x.func x.queue == some k && s.aged x.func x.queue x && x.reserved.isEmpty && !x.stopped s.gtc && (s.reservable k x).isSome

/-- The head that chooses its group next: the first in head order (R400). -/
def State.nextReserver (s : State) (p : Nat) : Option Nat :=
  (s.turnOrder p).findSome? fun f => (s.waiters f).findSome? fun w => match w with
    | .head k => if s.wantsGroup k then some k else none
    | .saved _ _ => none

/-- HEAD_AGEING (R396, R400): a head in state 2 without a team that has waited longer than AGE calls for one decision, and reserves a group when the heads before it have theirs. -/
def execHeadAgeing (f q : Nat) (s : State) : Host.Outcome State Fault Refusal :=
  .next (match s.headOf f q with
    | none => s
    | some k =>
      match s.launch k with
      | none => s
      | some x =>
        if !s.aged f q x || x.stopped s.gtc then s
        else
          let t := if s.nextReserver x.part == some k then s.onLaunch k fun y => { y with reserved := (s.reservable k x).getD [] } else s
          if x.crossed then t else (t.onLaunch k fun y => { y with crossed := true }).decideSoon x.part)

/-! ## Dispensing (R403, R404, R411) -/

/-- DISPENSE_START (R403). -/
def execDispenseStart (k : Nat) (s : State) : Host.Outcome State Fault Refusal :=
  .next (s.onLaunch k fun x => if recStart x.rcd.bytes ≤ s.gtc then { x with started := true } else x)

/-- The package dispatcher turns to the pod chunk in reserve when the current one is dealt; it requests the next when none is in reserve (R414). -/
def Launch.nextPod (x : Launch) : Launch :=
  if x.rcd.pod.isNone || decide (x.next < x.total) || !x.remnants.isEmpty then x
  else
    match x.podChunks with
    | [] => x
    | (a, b) :: r => { x with next := a, total := b, podChunks := r, podWant := x.podWant || (r.isEmpty && !x.podDone) }

/-- The lowest remnant range of a launch. -/
def Launch.firstRemnant (x : Launch) : Option (Nat × Nat) := x.remnants.foldl (fun b r => match b with
  | none => some r
  | some v => if r.1 < v.1 then some r else some v) none

/-- CHUNK_REQUEST (R403, R411): a dispenser that serves teams of the launch and holds fewer than two chunks receives the lowest remnant, or the next 64 indices; one of a slice that is drained or removed receives none. Every range is at most 64 indices long and a new one is dealt only when no remnant is left, to one of 32 dispensers of two chunks each: so the remnants are at most 64 ranges. -/
def execChunkRequest (k sl : Nat) (s : State) : Host.Outcome State Fault Refusal :=
  .next (match s.launch k with
    | none => s
    | some x =>
      let serves := x.teams.any fun u => sliceOf u == sl
      if !serves || (s.slice sl).drain || (s.part x.part).removing == some sl || !x.started || x.preempt || x.stopped s.gtc || decide (2 ≤ ((s.slice sl).chunks.filter fun c => c.1 == k).length) then s
      else
        let x := x.nextPod
        let give (x : Launch) (a b : Nat) : State := ({ s with launches := Tab.set s.launches k x } : State).onSlice sl fun e => { e with chunks := e.chunks ++ [(k, a, b)] }
        match x.firstRemnant with
        | some r =>
          let m := min r.2 (r.1 + 64)
          give { x with remnants := (x.remnants.erase r) ++ (if m < r.2 then [(m, r.2)] else []) } r.1 m
        | none =>
          if x.next < x.total then give { x with next := min x.total (x.next + 64) } x.next (min x.total (x.next + 64)) else { s with launches := Tab.set s.launches k x })

/-- A slice dispenser returns what it has not served (R410, R411). (log 41) -/
def State.returnChunks (s : State) (k : Nat) (p : Nat → Bool) : State :=
  let back := (s.slices.filter fun e => p e.1).flatMap fun e => (e.2.chunks.filter fun c => c.1 == k).map (·.2)
  let s : State := { s with slices := s.slices.map fun e : Nat × Slice => (e.1, if p e.1 then { e.2 with chunks := e.2.chunks.filter fun c => c.1 != k } else e.2) }
  s.onLaunch k fun x => { x with remnants := x.remnants ++ back }

/-! ## Completion, pre-emption, cancel (R405, R406, R409 to R412) -/

/-- A launch that has no index left leaves its head (R398). -/
def State.settleLaunches (s : State) : State :=
  s.launches.foldl (fun s e => match s.launch e.1 with
    | some x => if (x.state == .dealing || x.state == .placing) && !x.preempt && s.exhausted e.1 x
        then (s.onLaunch e.1 fun y => { y with state := .draining, reserved := [] }).unqueue e.1 else s
    | none => s) s

/-- Writes of a launch's teams that are not performed (R405, R379). (log 41) -/
def State.flushing (s : State) (x : Launch) : Bool :=
  x.flush.any fun (u, id) =>
    ((s.core u).outq.any fun a => decide (a.id < id) && a.writes) || ((s.core u).stage.any fun o => o.orphan) || (((s.core u).matrix.queue ++ (s.core u).matrix.drain).any fun o => o.orphan && o.op != 8)
      || (s.slice (sliceOf u)).barrows.any fun e => e.2.ops.any fun o => o.unit == u && o.orphan

/-- A saved context of a launch waits for its core. -/
def State.savedOf (s : State) (k : Nat) : Bool := s.funcs.any fun f => f.2.saved.any fun v => (v.2.core.team.map fun t => t.launch == k).getD false

/-- The completion slot (R406). -/
def slotBytes (gtc writer cst stamp src members disp high nflt : Nat) : List Byte :=
  leBytes 8 gtc ++ leBytes 4 writer ++ leBytes 4 cst ++ leBytes 8 stamp ++ leBytes 4 src ++ leBytes 4 members ++ leBytes 12 disp ++ leBytes 12 high ++ leBytes 4 nflt ++ leBytes 4 0

/-- What a member reports to the pod dispatcher (R415). -/
def Launch.report (x : Launch) : PodReport :=
  { late := false, refused := false, disp := x.disp, high := x.high, nflt := x.nflt, first := x.firstFault.map Record.bytes, causes := (List.range 26).map fun c => Tab.get x.causes (c + 1) 0 }

/-- LAUNCH_COMPLETE (R405, R406, R415): the slot is written, then the node falls; a member's share of a pod launch is reported. -/
def execLaunchComplete (k : Nat) (s : State) : Host.Outcome State Fault Refusal :=
  .next (match s.launch k with
    | none => s
    | some x =>
      if x.state != .draining || !x.teams.isEmpty || s.savedOf k || s.flushing x then s
      else
        let done (s : State) : State := (s.unqueue k).decideSoon x.part |> fun s => { s with launches := Tab.erase s.launches k }
        match x.rcd.pod with
        | some p => done (s.onPodLaunch p fun y => { y with reports := Tab.set y.reports s.packageIdx x.report, heard := s.gtc, quiet := s.gtc })
        | none =>
          let cst := if x.failed then 3 else if x.cancelled then 1 else 0
          let slot := slotBytes s.gtc (s.src 0x1611) cst x.rcd.stamp x.rcd.src 1 x.disp x.high x.nflt
          let node (s : State) : State := if (recGraph x.rcd.bytes).testBit 15 then (s.lowerNode x.func (bits (recGraph x.rcd.bytes) 11 0)).1 else s
          let cmpl := recCmpl x.rcd.bytes
          if cmpl = 0 then done (node s)
          else
            match s.engWrite x.ctx (cmpl % 2 ^ 52) slot false with
            | (_, .error .wait) => s
            | (s, .error (.fault t)) => done (node (s.dispatcherRecord x.part t cmpl))
            | (s, .ok _) => done (node s))

/-- Pre-emption of a launch begins (R410). -/
def State.preempt (s : State) (k : Nat) : State := (s.returnChunks k fun _ => true).onLaunch k fun x => { x with preempt := true }

/-- LPRE for the head of one queue (R409). -/
def State.lpreQueue (s : State) (f q : Nat) : State :=
  match s.headOf f q with
  | none => s
  | some k =>
    match s.launch k with
    | some x => if x.state == .dealing then s.preempt k else s
    | none => s

/-- LPRE for every launch of the function with undispensed indices (R409). -/
def State.lpreAll (s : State) (f : Nat) : State :=
  s.launches.foldl (fun s e => match s.launch e.1 with
    | some x => if x.func == f && x.state == .dealing && s.undispensed e.1 x != 0 then s.preempt e.1 else s
    | none => s) s

/-- PREEMPT_REQUEUE (R410, R411, R430): the last team has exited and its operations have ended, NEXT is written and the launch stands at its head again; so too when the drain of a slice or the loss of a core has left a launch without a team. -/
def execPreemptRequeue (k : Nat) (s : State) : Host.Outcome State Fault Refusal :=
  .next (match s.launch k with
    | none => s
    | some x =>
      if !(x.preempt || (x.yielded && x.state == .dealing)) || !x.teams.isEmpty || s.savedOf k || s.flushing x then s
      else
        let again (x : Launch) : Launch := { x with preempt := false, yielded := false, state := .placing, nodeWait := s.nodeHolds x, t0 := s.gtc, crossed := false }
        let s := s.returnChunks k fun _ => true
        match s.launch k, x.rcd.pod with
        | none, _ => s
        | some x, some p =>
          let back := x.remnants ++ x.podChunks ++ (if x.next < x.total then [(x.next, x.total)] else [])
          let s := s.onPodLaunch p fun y => { y with remnants := y.remnants ++ back, quiet := s.gtc }
          (s.onLaunch k fun x => { again x with remnants := [], podChunks := [], next := 0, total := 0, podWant := false, podDone := false, podAgain := true }).decideSoon x.part
        | some x, none =>
          let (a, b, c) := recCoord x.rcd.bytes x.next
          let bytes := patch x.rcd.bytes 0xE8 (leBytes 4 a ++ leBytes 4 b ++ leBytes 4 c)
          (s.onLaunch k fun x => { again x with rcd := { x.rcd with bytes := bytes } }).decideSoon x.part)

/-- A cancel takes effect (R412): what is undealt is dropped, and the launch leaves its queue. -/
def State.cancelNow (s : State) (k : Nat) : State :=
  match s.launch k with
  | none => s
  | some x =>
    if x.state == .draining then s.onLaunch k fun x => { x with cancelAt := none }
    else
      let s : State := { s with slices := s.slices.map fun e : Nat × Slice => (e.1, { e.2 with chunks := e.2.chunks.filter fun c => c.1 != k }) }
      (s.onLaunch k fun x => { x with cancelAt := none, cancelled := true, preempt := false, state := .draining, next := x.total, remnants := [], podChunks := [], podDone := true, podWant := false, podAgain := false, reserved := [] }).unqueue k

/-- Where a pod record of this package is queued: partition, function and queue of its group's binding (R413, R463). -/
def State.bindingOf (s : State) (b : List Byte) : Option PodBinding := s.pod.config.bind fun c => c.bindings.find? fun x => x.group == recGroup b

/-- A record of the inbox that joins a queue before a cancel at a GTC under a source number takes effect there (R418). -/
def State.recordBefore (s : State) (f q at_ src : Nat) : Bool :=
  s.pod.inbox.any fun r => (s.bindingOf r.bytes).any (fun b => b.func == f && b.queue == q) && decide (recStart r.bytes < at_ ∨ recStart r.bytes = at_ ∧ recSrc r.bytes < src)

/-- CANCEL_EFFECT (R412, R418): of a pod launch after the records that come before it on its queue. -/
def execCancelEffect (k : Nat) (s : State) : Host.Outcome State Fault Refusal :=
  .next (match s.launch k with
    | none => s
    | some x =>
      match x.cancelAt with
      | some c => if c ≤ s.gtc && !(x.rcd.pod.isSome && s.recordBefore x.func x.queue c x.rcd.src) then s.cancelNow k else s
      | none => s)

/-! ## Time slices and context saves (R431 to R434) -/

/-- What causes a time-slice save of the team on a core (R432): none, or what the core is wanted for. -/
def State.saveCause (s : State) (u : Nat) : Option (Option (Nat × Nat)) :=
  match (s.core u).team with
  | none => none
  | some t =>
    if !t.swappable || t.saving || !s.rootUp || (s.func t.func).resetting then none
    else if s.launches.any fun e => e.2.reserved.contains u then some none
    else
      let quant := (s.func t.func).swpq.toNat % 2 ^ 32
      if quant = 0 ∨ s.gtc < t.placed + quant then none
      else
        let part := (s.partOf u).getD 0
        let mine := s.prio t.func t.queue
        (s.turnOrder part).findSome? fun f => (s.waiters f).findSome? fun w => match w with
          | .head k => match s.launch k with
            | some x => if x.state == .placing && !x.nodeWait && mine ≤ s.prio f x.queue then some (some (0, k)) else none
            | none => none
          | .saved f v => if v.2.unit == u && mine ≤ s.prio f v.1 then some (some (1, savedCtx v)) else none

/-- QUANT_EXPIRY (R432): the team is chosen for saving; every stripe stops at the end of its turn. -/
def execQuantExpiry (u : Nat) (s : State) : Host.Outcome State Fault Refusal :=
  .next (match s.saveCause u with
    | none => s
    | some w => s.onCore u fun c => { c with team := c.team.map fun t => { t with saving := true, saveFor := w } })

/-- A core is drained for a save (R433 step 3): no turn is open, no thread is ejected, no commit runs, the counters are zero and every register is full. A word that waits keeps its PC; what it has done so far is saved with it. -/
def State.drained (s : State) (u : Nat) : Bool :=
  let c := s.core u
  (c.quads.all fun q => q.2.turn.isNone) && !(s.commits.any fun x => x.unit == u) && c.invals.isEmpty
    && c.stage.isEmpty && c.matrix.queue.isEmpty && c.matrix.drain.isEmpty
    && (c.stripes.all fun t => (t.2.counters.all fun k => k.2 == 0) && t.2.lanes.all fun l => (l.2.empty == 0) && (match l.2.status with
      | .ejected _ _ => false
      | _ => true))

/-- The parts of a save area as physical runs: offset and bytes (R434). The header's map of the tiles in the area stands from the first save of a context on, as the spills and reloads of its tiles leave it (R435). -/
def State.saveParts (s : State) (u : Nat) (t : Team) : List (Nat × List Byte) :=
  let c := s.core u
  let bitsOf (f : Nat → Bool) : List Byte := (List.range 512).map fun k => BitVec.ofNat 8 ((List.range 8).foldl (fun a j => if f (8 * k + j) then a + 2 ^ j else a) 0)
  let mapOf (f : Nat → Bool) : List Byte := (bitsOf f).take 128
  let header := leBytes 8 (c.ctx.toNat + c.world.toNat * 2 ^ 16 + t.tiles * 2 ^ 32) ++ leBytes 8 s.gtc ++ leBytes 8 c.ptb.toNat ++ leBytes 8 c.bmode.toNat ++ List.replicate 96 0
  let regs := c.stripes.flatMap fun (i, st) => st.lanes.flatMap fun (l, th) =>
    [(0x6000 + 128 * (32 * i + l), ((List.range 32).flatMap fun r => leBytes 4 (th.reg r).toNat))]
      ++ (List.range 12).filterMap fun b => if th.blocks.getLsbD b then some (0x16000 + 384 * (32 * i + l) + 32 * b, (List.range 8).flatMap fun r => leBytes 4 (th.reg (32 + 8 * b + r)).toNat) else none
  let fp := (List.range 32).flatMap fun b => [(0x46000 + 1024 * b, bitsOf fun g => c.full (4096 * b + g)), (0x46000 + 1024 * b + 512, bitsOf fun g => c.poisoned (4096 * b + g))]
  let banks := ((List.range 32).filter fun b => c.mode b != 0).map fun b => (0x50000 + bankBytes * b, bytesGet c.sram (b * bankBytes) bankBytes)
  [(0, header), (0x100, mapOf t.owns ++ List.replicate (4096 - 384) 0)] ++ (if t.savedOnce then [] else [(0x80, List.replicate 128 0)]) ++ regs ++ fp ++ banks

/-- The save is abandoned (R433): the team goes on and is no longer swappable; one record is posted. -/
def State.abandonSave (s : State) (u : Nat) (bad : Nat × Nat × Nat) : State :=
  let part := (s.partOf u).getD 0
  let s := s.onCore u fun c => { c with team := c.team.map fun t => { t with saving := false, saveFor := none, swappable := false } }
  s.post part { stamp := s.gtc, src := s.src 0x1610, cause := bad.1, dcode := bad.2.1, addr := bad.2.2, world := s.ownerWorld part bad.2.2 }

/-- CONTEXT_SAVE (R433, R434): transactions abort; an LD.rem that waits is executed again after the restore; once the team is drained its state is written, its banks return and the core is free. The bytes of the device-defined region are free values (log 22). (log 2) -/
def execContextSave (u : Nat) (s : State) : Host.Outcome State Fault Refusal :=
  .next (match (s.core u).team with
    | none => s
    | some t =>
      if !t.saving then s
      else
        let open_ := (s.core u).stripes.flatMap fun (i, st) => st.lanes.filterMap fun (l, th) =>
          if decide (0 < th.tx.depth) && !(s.commits.any fun x => x.unit == u && x.stripe == i && x.lane == l) then some (i, l) else none
        let s := if (s.core u).quads.all fun q => q.2.turn.isNone then open_.foldl (fun s (i, l) => s.abortLane u i l (txCause 7)) s else s
        if !s.drained u then s
        else
          let c := s.core u
          let part := (s.partOf u).getD 0
          let key := s.saveKey t.func t.queue
          let base := s.saveArea t.func t.queue t.saveIdx
          let parts := s.saveParts u t
          let places := (parts.flatMap fun (o, bs) => (List.range (bs.length / 8192 + 1)).map fun k => base + o + min (8192 * k) (bs.length - 1)) ++ [base + 0x1000, base + 0x3000, base + 0x5FFF]
          match places.findSome? fun pa => (s.physBad part c.world key pa).map fun (a, b) => (a, b, pa) with
          | some bad => s.abandonSave u bad
          | none =>
            if (s.physWait (saveBytes / 128) part base 0x250000 true).isSome then s
            else
            let s := parts.foldl (fun s (o, bs) => s.physWrite 520 part c.world key (base + o) bs) s
            let device := (List.range 2560).flatMap fun k => leBytes 8 (Config.freeValue (s.freeCount + k)).toNat
            let s := ({ s with freeCount := s.freeCount + 2560 } : State).physWrite 170 part c.world key (base + 0x1000) device
            let s := s.onFunc t.func fun fn => { fn with saved := fn.saved ++ [(t.queue, { unit := u, core := { c with promos := [], team := some { t with savedOnce := true } }, ticks := s.gtc, gran := s.granq.filter fun g => g.unit == u })] }
            let s : State := { s with granq := s.granq.filter fun g => g.unit != u }
            let held := c.promos.flatMap Promotion.ids
            let s := s.onCore u fun c => { c with outq := c.outq.filter fun a : Access => !held.contains a.id }
            let s := s.onCore u fun c => { c.vacate with freedFor := t.saveFor, bmode := 0, leaving := [], sram := [], fbits := [], pbits := [] }
            ((s.dropNotifies u).onLaunch t.launch fun x => { x with teams := x.teams.erase u, flush := x.flush ++ [(u, c.nextId)] }).teamTicks u t |>.decideSoon part)

end Sys2Proof.Machine
end

