-- ==== Sys2Proof/Machine/Pod.lean ====
section
/-!
DEFINITION. The pod: launch records on every member, pod chunks, completion, cancels, the pod configuration, links and time (R23, R413 to R418, R463 to R467).
-/
namespace Sys2Proof.Machine

/-- A pod launch by its source and stamp. -/
def State.podOf (s : State) (src stamp : Nat) : Option Nat := (s.pod.launches.find? fun e => e.2.src == src && e.2.stamp == stamp).map (·.1)

/-- The pod launch is this package's: its pod dispatcher acts for it (R413). (log 46) -/
def State.podMine (s : State) (p : PodLaunch) : Bool := p.src / 2 ^ 14 == s.packageIdx

/-- A share that dispensed nothing (R413, R416, R418). -/
def emptyReport (late refused : Bool) : PodReport := { late := late, refused := refused, disp := 0, high := 0, nflt := 0, first := none, causes := List.replicate 26 0 }

/-- A member has reported; what a refused or late member was dealt returns as remnants (R414). -/
def PodLaunch.report (p : PodLaunch) (m : Nat) (r : PodReport) (gtc : Nat) : PodLaunch :=
  let back := if r.late || r.refused then Tab.get p.given m [] else []
  { p with reports := Tab.set p.reports m r, remnants := p.remnants ++ back, given := if back.isEmpty then p.given else Tab.set p.given m [], heard := gtc, quiet := gtc }

/-- CRIER_DELIVER (R23, R413): a record of a group that this package belongs to stands in the inbox, or comes too late; one of its own must be a record that it has launched; a package that is not synchronised refuses it. The 2,048 ticks are a bound on the crier, which the environment keeps. (log 49) -/
def execCrierDeliver (r : PodRecord) (s : State) : Host.Outcome State Fault Refusal :=
  let b := r.bytes
  let src := recSrc b
  let stamp := recStamp b
  let own := src / 2 ^ 14 == s.packageIdx
  .next (if s.pod.config.isNone || !s.pod.joined || !(s.groupMembers (recGroup b)).contains s.packageIdx then s
    else
      let s := if own || (s.podOf src stamp).isSome then s else s.startPod b src stamp 0 0 0 .u
      match s.podOf src stamp with
      | none => s
      | some k =>
        if own && ((Tab.find s.pod.launches k).map PodLaunch.rcd != some b) then s
        else if ((Tab.find s.pod.launches k).any fun p => (Tab.find p.reports s.packageIdx).isSome) || s.pod.inbox.contains r || s.launches.any (fun e => e.2.rcd.pod == some k) then s
        else if !s.pod.synced then s.onPodLaunch k fun p => p.report s.packageIdx (emptyReport false true) s.gtc
        else if recStart b < s.gtc + 1024 then s.onPodLaunch k fun p => p.report s.packageIdx (emptyReport true false) s.gtc
        else { s with pod := { s.pod with inbox := s.pod.inbox ++ [r] } })

/-- Records of the inbox in the order of (START, SRC) (R413). -/
def recEarlier (a b : List Byte) : Bool := decide (recStart a < recStart b) || (recStart a == recStart b && decide (recSrc a < recSrc b))

/-- A cancel of a pod launch that takes effect on a queue before a record joins it (R418). -/
def State.cancelBefore (s : State) (bd : PodBinding) (b : List Byte) : Bool :=
  s.launches.any fun e => e.2.rcd.pod.isSome && e.2.func == bd.func && e.2.queue == bd.queue && (match e.2.cancelAt with
    | some c => decide (c < recStart b ∨ c = recStart b ∧ e.2.rcd.src < recSrc b)
    | none => false)

/-- POD_RECORD_APPEND (R402, R413, R414, R418, R455): at START - 1,024 the earliest record of a bound queue joins it, or is refused, or was cancelled; it waits for cancels that come before it, and while the function is reset or restarts. (logs 46 and 49) -/
def execPodRecordAppend (idx : Nat) (s : State) : Host.Outcome State Fault Refusal :=
  .next (match s.pod.inbox[idx]? with
    | none => s
    | some r =>
      let b := r.bytes
      let same (x : PodRecord) : Bool := match s.bindingOf b, s.bindingOf x.bytes with
        | some p, some q => p.func == q.func && p.queue == q.queue
        | _, _ => false
      if s.gtc + 1024 < recStart b || s.pod.inbox.any fun x => same x && recEarlier x.bytes b then s
      else
        let out : State := { s with pod := { s.pod with inbox := s.pod.inbox.eraseIdx idx } }
        match s.podOf (recSrc b) (recStamp b) with
        | none => out
        | some k =>
          let report (s : State) (x : PodReport) : State := s.onPodLaunch k fun p => p.report s.packageIdx x s.gtc
          if s.pod.cancels.any fun c => c.1 == recSrc b && c.2.1 == recStamp b then report out (emptyReport false false)
          else
            match s.bindingOf b with
            | none => report out (emptyReport false true)
            | some bd =>
              let fn := s.func bd.func
              if fn.resetting || !fn.up || s.cancelBefore bd b then s
              else
              let qptb := Tab.get fn.qptb bd.queue 0
              let bad := decide (32 ≤ (Tab.get fn.queues bd.queue []).length) || !(Tab.get fn.qctl bd.queue 0).getLsbD 0
                || !(s.part bd.part).wmask.getLsbD (recWorld b) || (s.groups bd.part (2 ^ recCsz b)).isEmpty || !qptb.getLsbD 12
              if bad then report out (emptyReport false true)
              else
                let q : QRecord := { bytes := b, ptb := qptb, priv := .u, world := recWorld b, src := recSrc b, stamp := recStamp b, pod := some k }
                let x : Launch := { part := bd.part, func := bd.func, queue := bd.queue, rcd := q }
                match out.readVa x.ctx (recPsize b / 8) (recParp b) with
                | (_, .error .wait) => s
                | (out, .error (.fault t)) => report (out.dispatcherRecord bd.part t t.addr) (emptyReport false true)
                | (out, .ok ps) =>
                  let deal := ((Tab.find s.pod.launches k).map fun p => Tab.get p.given s.packageIdx []).getD []
                  let id := out.nextLaunch
                  (out.addLaunch { x with rcd := { q with params := ps }, podChunks := deal, podDone := deal.isEmpty, cancelAt := (Tab.find s.pod.launches k).bind PodLaunch.cancelAt }).onFunc bd.func fun g =>
                    { g with queues := Tab.modify g.queues bd.queue [] fun l => l ++ [id] })

/-- The lowest remnant range of a pod launch. -/
def PodLaunch.firstRemnant (p : PodLaunch) : Option (Nat × Nat) := p.remnants.foldl (fun b r => match b with
  | none => some r
  | some v => if r.1 < v.1 then some r else some v) none

/-- The next pod chunk of a pod launch: remnants first, then 4,096 indices (R414). -/
def PodLaunch.dealChunk (p : PodLaunch) : PodLaunch × Option (Nat × Nat) :=
  match p.firstRemnant with
  | some r =>
    let m := min r.2 (r.1 + 4096)
    ({ p with remnants := p.remnants.erase r ++ (if m < r.2 then [(m, r.2)] else []) }, some (r.1, m))
  | none => if p.next < p.total then ({ p with next := min p.total (p.next + 4096) }, some (p.next, min p.total (p.next + 4096))) else (p, none)

/-- A pod launch is cancelled by now (R418). -/
def PodLaunch.stopped (p : PodLaunch) (gtc : Nat) : Bool := match p.cancelAt with
  | some c => decide (c ≤ gtc)
  | none => false

/-- POD_CHUNK_REQUEST (R414, R418): the pod dispatcher deals a chunk to a member; this package's own request comes from its launch. A request that arrives at the GTC of one served before, from a lower source, is served at the next tick. -/
def execPodChunkRequest (k m : Nat) (s : State) : Host.Outcome State Fault Refusal :=
  .next (match Tab.find s.pod.launches k with
    | none => s
    | some p =>
      let own := s.launches.find? fun e => e.2.rcd.pod == some k
      let wants := m != s.packageIdx || (own.map fun e => e.2.podWant).getD false
      if p.complete || !p.members.contains m || !wants || p.asked.any (fun a => a.1 == s.gtc && decide (m < a.2)) then s
      else
        let (p', c) := if p.stopped s.gtc then (p, none) else p.dealChunk
        let s := s.onPodLaunch k fun _ => { p' with heard := s.gtc, quiet := if c.isSome then s.gtc else p'.quiet, asked := some (s.gtc, m), given := match c with
          | some c => Tab.modify p'.given m [] fun l => l ++ [c]
          | none => p'.given }
        if m != s.packageIdx then s
        else match own with
          | none => s
          | some (i, _) => s.onLaunch i fun x => match c with
            | some c => { x with podWant := false, podChunks := x.podChunks ++ [c] }
            | none => { x with podWant := false, podDone := true })

/-- POD_MEMBER_REPORT (R415): another member's share is done. -/
def execPodMemberReport (k m : Nat) (r : PodReport) (s : State) : Host.Outcome State Fault Refusal :=
  .next (match Tab.find s.pod.launches k with
    | none => s
    | some p => if p.complete || !p.members.contains m || m == s.packageIdx || (Tab.find p.reports m).isSome || p.lost.contains m then s
      else s.onPodLaunch k fun p => p.report m r s.gtc)

/-- The pod index space is exhausted: nothing is left to deal (R415). -/
def PodLaunch.exhausted (p : PodLaunch) (gtc : Nat) : Bool := p.stopped gtc || (p.remnants.isEmpty && decide (p.total ≤ p.next))

/-- The GTC from which the pod index space is exhausted and no further member has reported (R415): of the last deal, returned remnant or report, or of the cancel that ends the dealing. -/
def PodLaunch.silentFrom (p : PodLaunch) : Nat := if p.remnants.isEmpty && decide (p.total ≤ p.next) then p.quiet else max p.quiet (p.cancelAt.getD 0)

/-- POD_MEMBER_LOST (R415): 1,000,000 ticks after the pod index space is exhausted and every other member has reported, the last one has not. (log 49) -/
def execPodMemberLost (k m : Nat) (s : State) : Host.Outcome State Fault Refusal :=
  .next (match Tab.find s.pod.launches k with
    | none => s
    | some p =>
      let done (x : Nat) : Bool := (Tab.find p.reports x).isSome || p.lost.contains x
      if !s.podMine p || p.complete || !p.members.contains m || done m || !p.exhausted s.gtc || p.members.any (fun x => x != m && !done x) || decide (s.gtc < p.silentFrom + 1000000) then s
      else s.onPodLaunch k fun p => { p with lost := p.lost ++ [m] })

/-- POD_DISPATCHER_SILENT (R415): a running member treats the launch as cancelled. -/
def execPodDispatcherSilent (k : Nat) (s : State) : Host.Outcome State Fault Refusal :=
  .next (match (s.launch k).bind fun x => x.rcd.pod.bind fun p => Tab.find s.pod.launches p with
    | none => s
    | some p => if s.gtc < p.heard + 1000000 then s else s.cancelNow k)

/-- POD_CANCEL (R418): the crier brings a cancel. -/
def execPodCancel (src : BitVec 24) (stamp when_ : BitVec 64) (s : State) : Host.Outcome State Fault Refusal :=
  .next (s.podCancel src.toNat stamp.toNat when_.toNat)

/-! ## Completion (R415 to R417) -/

/-- What a member counts: its report, or the chunks dealt to a lost one. -/
def PodLaunch.share (p : PodLaunch) (m : Nat) : Nat × Nat × Nat :=
  match Tab.find p.reports m with
  | some r => (r.disp, r.high, r.nflt)
  | none => let g := Tab.get p.given m []; (rangeSum g, g.foldl (fun h c => max h c.2) 0, 0)

/-- The entry of a member (R416). -/
def PodLaunch.entry (p : PodLaunch) (m : Nat) : List Byte :=
  let r := Tab.find p.reports m
  let flag (f : PodReport → Bool) : Bool := (r.map f).getD false
  let (d, h, n) := p.share m
  leBytes 4 (m % 1024 + (if r.isNone then 2 ^ 16 else 0) + (if flag PodReport.late then 2 ^ 17 else 0) + (if flag PodReport.refused then 2 ^ 18 else 0)) ++ leBytes 12 d ++ leBytes 12 h ++ leBytes 4 n

/-- The first attributed record over all members, in the order of R26. -/
def PodLaunch.first (p : PodLaunch) : Option (List Byte) :=
  (p.reports.filterMap fun e => e.2.first).foldl (fun a b => match a with
    | none => some b
    | some a => if field b 0 8 < field a 0 8 || (field b 0 8 == field a 0 8 && decide (field b 8 3 < field a 8 3)) then some b else some a) none

/-- The pod fault summary (R417). (log 49) -/
def State.podSummary (s : State) (p : PodLaunch) : State :=
  match p.first with
  | none => s
  | some f =>
    let count (c : Nat) : Nat := min 0xFFFF ((p.reports.map fun e => (e.2.causes[c]?).getD 0).sum)
    let map_ : Nat := p.reports.foldl (fun a e => if 0 < e.2.nflt then Nat.lor a (2 ^ (e.1 % 1024)) else a) 0
    let bytes := (List.range 26).flatMap (fun c => leBytes 2 (count c)) ++ List.replicate 12 0 ++ leBytes 128 map_
    let dwords (i : Nat) : List Nat := (List.range 8).map fun j => leNat ((bytes.drop (64 * i + 8 * j)).take 8)
    s.post p.part
      { stamp := field f 0 8, src := field f 8 3, cause := field f 12 1, ncont := 3, sum := true, pc := field f 16 8, addr := field f 24 8,
        det := [BitVec.ofNat 32 0x10000003, BitVec.ofNat 32 p.stamp], cont := [dwords 0, dwords 1, dwords 2] }

/-- The completion slot of a pod launch (R406, R415). -/
def State.podSlot (s : State) (p : PodLaunch) : List Byte :=
  let shares := p.members.map p.share
  let disp := (shares.map fun x => x.1).sum
  let space := recTotal p.rcd - (recFirst p.rcd).getD (recTotal p.rcd)
  let cst := if !p.lost.isEmpty then 2 else if p.stopped s.gtc && decide (disp < space) then 1 else 0
  slotBytes s.gtc (s.src 0x1613) cst p.stamp p.src p.members.length disp (shares.foldl (fun h x => max h x.2.1) 0) (min (2 ^ 32 - 1) ((shares.map fun x => x.2.2).sum))

/-- Writes of the pod dispatcher in their order, each that fails with its record (R402); none while one must wait. -/
def State.podWrites (s : State) (part : Nat) (ctx : EngCtx) (ws : List (Nat × List Byte)) : Option State :=
  match ws with
  | [] => some s
  | (a, bs) :: rest =>
    match s.engWrite ctx (a % 2 ^ 52) bs false with
    | (_, .error .wait) => none
    | (s, .error (.fault t)) => State.podWrites (s.dispatcherRecord part t a) part ctx rest
    | (s, .ok _) => State.podWrites s part ctx rest

/-- POD_COMPLETE (R405, R415 to R417): first the fault summary; once it has left for the fault queue, the slot and the member table, then the node. -/
def execPodComplete (k : Nat) (s : State) : Host.Outcome State Fault Refusal :=
  .next (match Tab.find s.pod.launches k with
    | none => s
    | some p =>
      if !s.podMine p || p.complete || p.members.any fun m => (Tab.find p.reports m).isNone && !p.lost.contains m then s
      else if !p.summed && p.members.any fun m => decide (0 < (p.share m).2.2) then (s.podSummary p).onPodLaunch k fun p => { p with summed := true }
      else if p.summed && (s.part p.part).fq.made.any Record.sum then s
      else
        let ctx : EngCtx := { unit := 0x1613, part := p.part, ptb := p.ptb, priv := p.priv, world := BitVec.ofNat 6 (recWorld p.rcd), tlb := .keep }
        let cmpl := recCmpl p.rcd
        match (if cmpl = 0 then some s else s.podWrites p.part ctx ((cmpl, s.podSlot p) :: p.members.zipIdx.map fun (m, i) => (cmpl + 64 + 32 * i, p.entry m))) with
        | none => s
        | some s =>
          let s := if (recGraph p.rcd).testBit 15 then (s.lowerNode p.func (bits (recGraph p.rcd) 11 0)).1 else s
          s.onPodLaunch k fun p => { p with complete := true })

/-! ## Configuration, links and time (R23, R463 to R467) -/

/-- A message of the management port: its kind and a value (log 27). -/
def State.report (s : State) (kind value : Nat) : State := { s with mgmt := s.mgmt ++ [[BitVec.ofNat 8 kind, BitVec.ofNat 8 value]] }

/-- The first check that a pod configuration fails (R463): 1 signature, 2 a boot host core's port, 3 a binding. -/
def State.podConfigBad (s : State) (c : PodConfig) : Option Nat :=
  if Config.sha384 c.pubkey != s.fuses.operator || !Config.ecdsaVerify c.pubkey c.bytes c.sig then some 1
  else if s.parts.any fun e => e.2.valid && c.ports.any fun q => q.port == sliceOf (e.2.boothc.toNat) then some 2
  else if c.bindings.any fun b => !((s.part b.part).valid && (s.part b.part).funcs.getLsbD b.func) then some 3
  else none

/-- POD_CONFIGURATION (R25, R439, R463): not in boot hold. -/
def execPodConfiguration (c : PodConfig) (s : State) : Host.Outcome State Fault Refusal :=
  .next (if !s.boot.released then s else match s.podConfigBad c with
    | some n => s.report 2 n
    | none =>
      let s := (List.range 32).foldl (fun s sl => s.onSlice sl fun k => { k with podMode := !s.lostUnits.contains (0x1540 + sl) && c.ports.any fun q => q.port == sl }) s
      { s with packageIdx := c.index % 1024, pod := { s.pod with config := some c } })

/-- The state with a pod link changed. -/
def State.onLink (s : State) (port : Nat) (f : Link → Link) : State := { s with pod := { s.pod with links := Tab.modify s.pod.links port {} f } }

/-- FLIT_RECEIVE (R439, R464): nothing arrives at a port in boot hold or that has failed; a flit with a bad CRC is discarded and asks for a replay; the next in sequence is delivered here or forwarded. -/
def execFlitReceive (port : Nat) (flit : List (BitVec 8)) (s : State) : Host.Outcome State Fault Refusal :=
  let hdr := leNat (flit.take 8)
  .next (if !s.boot.released || s.lostUnits.contains (0x1540 + port) then s
    else if flit.length ≠ 256 ∨ Config.crc64 (flit.take 248) ≠ BitVec.ofNat 64 (leNat (flit.drop 248)) then s.onLink port fun k => { k with nak := true }
    else if bits hdr 47 32 ≠ (Tab.get s.pod.links port {}).rxSeq then s
    else
      let s := s.onLink port fun k => { k with nak := false, rxSeq := (k.rxSeq + 1) % 65536, credits := k.credits + bits hdr 63 48 }
      let dest := bits hdr 31 22
      if bits hdr 11 8 = 0 then s
      else if dest = s.packageIdx then s.onLink port fun k => { k with delivered := k.delivered ++ [flit] }
      else match (s.pod.config.bind fun c => c.routes.find? fun r => r.pkg == dest) with
        | some r => s.onLink r.port fun k => { k with forwarded := k.forwarded ++ [(dest, flit)] }
        | none => s)

/-- LINK_KEY_AGREE (R439, R466): on a released port, the agreed key becomes current, or pending beside a current one. -/
def execLinkKeyAgree (port : Nat) (peer : List (BitVec 8)) (s : State) : Host.Outcome State Fault Refusal :=
  let key := Config.ecdhKey s.freeCount peer
  .next (if !s.boot.released || s.lostUnits.contains (0x1540 + port) then s else ({ s with freeCount := s.freeCount + 1 } : State).onLink port fun k => if k.key.isNone then { k with key := some key } else if k.nextKey.isNone then { k with nextKey := some key } else k)

/-- Twice the offset that a time exchange measures (R467). -/
def TimeFlits.twice (t : Sys2Proof.TimeFlits) : Int := ((t.t2.toNat : Int) - t.t1.toNat) + ((t.t3.toNat : Int) - t.t4.toNat)
/-- The offset that a time exchange measures (R467), without a half tick, for which the counter has no place (log 50). -/
def TimeFlits.offset (t : Sys2Proof.TimeFlits) : Int := TimeFlits.twice t / 2
/-- The offset is not above 5 ticks (R23). -/
def TimeFlits.near (t : Sys2Proof.TimeFlits) : Bool := decide ((TimeFlits.twice t).natAbs ≤ 10)

/-- POD_JOIN (R23, R467): the GTC is loaded once; a package that joins again only slews. -/
def execPodJoin (ref : TimeFlits) (s : State) : Host.Outcome State Fault Refusal :=
  let d := TimeFlits.offset ref
  .next (if s.pod.config.isNone then s
    else if s.pod.joined then { s with pod := { s.pod with offset := d, measured := s.gtc, synced := TimeFlits.near ref } }
    else { s with gtc := ((s.gtc : Int) + d).toNat, pod := { s.pod with joined := true, synced := true, offset := 0, measured := ((s.gtc : Int) + d).toNat } })

/-- TIME_EXCHANGE (R23, R467): an offset above 5 ticks marks the package unsynchronised; the GTC slews. (log 50) -/
def execTimeExchange (t : TimeFlits) (s : State) : Host.Outcome State Fault Refusal :=
  let d := TimeFlits.offset t
  .next (if !s.pod.joined then s
    else { s with pod := { s.pod with offset := d, measured := s.gtc, synced := s.pod.synced && TimeFlits.near t } })

end Sys2Proof.Machine
end

