-- ==== Sys2Proof/Machine/Registers.lean ====
section
/-!
DEFINITION. What writes of registers do: frame releases, resumes, firewalls, queues, pre-emption, function resets and the fault queue (R8, R41, R43, R53, R75, R78, R94, R393 to R436, R444).
-/
namespace Sys2Proof.Machine

/-! ## Frames (R41, R43, R53) -/

/-- Every frame under a lost node has been released: the node is rebuilt, and one record tells it (R53). (log 47) -/
def State.rebuildTree (s : State) (sl fr stamp lvl : Nat) : State :=
  let n := 8 ^ (lvl - 1)
  let first := 2 ^ 22 * sl + fr / n * n
  let last := min (first + n) (2 ^ 22 * sl + sliceFrames)
  let inside (k : Nat) : Bool := decide (first ≤ k) && decide (k < last)
  if ((s.frames.filter fun e => inside e.1 && e.2.lost.isSome && e.2.released).length) ≠ last - first then s
  else
    let s : State :=
      { s with frames := s.frames.map fun e : Nat × Frame => if inside e.1 then (e.1, { e.2 with lost := none, released := false }) else e,
               metas := s.metas.filter (fun e => !inside (e.1 / 64)), poison := s.poison.filter (fun e => !inside (e.1 / 64)), latent := s.latent.filter (fun e => !inside (e.1 / 64)),
               mem := bytesClear s.mem (first * 8192) ((last - first) * 8192) }
    match (s.slice sl).part with
    | none => s
    | some p => s.post p { stamp := s.gtc, src := s.src (0x1100 + sl), cause := 0x13, dcode := 0x1B, det := [BitVec.ofNat 32 lvl, BitVec.ofNat 32 stamp, BitVec.ofNat 32 (stamp / 2 ^ 32)] }

/-- A frame is released (R41): its lines leave the home bank, every line is clear and unpoisoned, counters stay, the owner goes; an integrity-lost frame is quarantined (R53). (log 47) -/
def State.releaseFrame (s : State) (sl fr : Nat) : State :=
  let k := 2 ^ 22 * sl + fr
  let f := s.frame k
  let s := (List.range 4).foldl (fun s j => s.onBank (4 * sl + j) fun b =>
    { b with lines := b.lines.filter (fun x => x.line / 64 != fr), wbuf := b.wbuf.filter fun x => x.line / 64 != fr }) s
  let s : State :=
    { s with metas := s.metas.map fun e : Nat × LineMeta => if e.1 / 64 == k then (e.1, { e.2 with clear := true }) else e,
             poison := s.poison.filter (fun e => e.1 / 64 != k), latent := s.latent.filter (fun e => e.1 / 64 != k), mem := bytesClear s.mem (k * 8192) 8192 }
  let s := s.onFrame k fun f => { f with owner := none, quarantined := (f.lost.map (·.1)).or f.quarantined, released := f.lost.isSome }
  match f.lost with
  | none => s
  | some (stamp, lvl) => s.rebuildTree sl fr stamp lvl

/-- Accesses to a frame that have been accepted with their checks and that are not performed (R41, log 72): of the cores' queues, of commits under way, and the stores of notifies; the last two are named by units that no core has. -/
def State.accepted (s : State) (sl fr : Nat) : List (Nat × Nat) :=
  let there (part pa : Nat) : Bool := match s.homeOf part pa with
    | some (k, loc) => k == sl && loc / 8192 == fr
    | none => false
  (s.cores.flatMap fun e => (e.2.outq.filter fun a => !a.refused && !a.performed && there ((s.partOf e.1).getD 0) a.pa).map fun a => (e.1, a.id))
    ++ ((s.commits.filter fun c => c.entries.any fun x => x.2.any fun y => there ((s.partOf c.unit).getD 0) y.pa).map fun c => (2 ^ 16, c.id))
    ++ s.funcs.flatMap fun f => (f.2.notifies.filter fun n => there ((s.partOf n.unit).getD 0) n.pa).map fun n => (2 ^ 17 + n.unit, 32 * n.stripe + n.lane)

/-- A write of MCFREL at any member slice (R43): the frame's home slice releases it, at once when no accepted access waits, else with FRAME_RELEASE. A frame outside the partition is ignored. (log 47) -/
def State.mcfrel (s : State) (part : Nat) (v : BitVec 64) : State :=
  match s.homeOf part (bits v.toNat 39 13 * 8192) with
  | none => s
  | some (sl, loc) =>
    match s.accepted sl (loc / 8192) with
    | [] => s.releaseFrame sl (loc / 8192)
    | before => s.onSlice sl fun k => { k with releases := k.releases ++ [(loc / 8192, before)] }

/-- MCFREL (R43). -/
def execMcfrel (part _slice : Nat) (v : BitVec 64) (s : State) : Host.Outcome State Fault Refusal := .next (s.mcfrel part v)

/-- FRAME_RELEASE (R41): the accesses accepted before the write are complete. -/
def execFrameRelease (sl fr : Nat) (s : State) : Host.Outcome State Fault Refusal :=
  .next (match (s.slice sl).releases.find? fun r => r.1 == fr with
    | none => s
    | some r =>
      if r.2.any fun x => (s.accepted sl fr).contains x then s
      else (s.onSlice sl fun k => { k with releases := k.releases.erase r }).releaseFrame sl fr)

/-! ## The translation control block (R75, R78) -/

/-- PFRES (R75): a stripe of the partition that is parked on the batch executes its word again. -/
def State.pfres (s : State) (part : Nat) (v : BitVec 64) : State :=
  let u := bits v.toNat 13 0
  let i := bits v.toNat 27 24
  let t := s.stripe u i
  if s.partOf u == some part && t.parked && decide (0 < t.seq) && decide ((t.seq - 1) % 256 = bits v.toNat 35 28) then s.onStripe u i fun t => { t with parked := false } else s

/-- PFRES (R75). -/
def execPfres (part : Nat) (v : BitVec 64) (s : State) : Host.Outcome State Fault Refusal := .next (s.pfres part v)

/-- ENGRES (R78): the paused operation of a unit of the partition goes on, or poisons the rest of its destination. -/
def State.engres (s : State) (part unit tag : Nat) (poison : Bool) : State :=
  let matOp (o : MatOp) : MatOp := if o.tag == tag && o.fault.isSome then { o with fault := none, poisonRest := o.poisonRest || poison } else o
  if 0x400 ≤ unit ∧ unit < 0x640 then
    if s.partOf (unit - 0x400) != some part then s
    else s.onCore (unit - 0x400) fun c => { c with stage := mapIf (fun o : StageOp => o.tag == tag && o.fault.any (· ≤ o.next)) (fun o => { o with fault := none, poisonRest := o.poisonRest || poison }) c.stage }
  else if 0x800 ≤ unit ∧ unit < 0xA40 then
    if s.partOf (unit - 0x800) != some part then s
    else s.onCore (unit - 0x800) fun c => { c with matrix := { c.matrix with queue := c.matrix.queue.map matOp, drain := c.matrix.drain.map matOp } }
  else if 0xF00 ≤ unit ∧ unit < 0xF40 then
    let sl := (unit - 0xF00) / 2
    if (s.slice sl).part != some part then s
    else s.onSlice sl fun k => { k with barrows := Tab.modify k.barrows (unit % 2) {} fun b =>
      { b with ops := mapIf (fun o : BarrowOp => o.tag == tag && o.fault.isSome) (fun o => { o with fault := none, poisonRest := o.poisonRest || poison }) b.ops } }
  else s

/-- ENGRES with ACT = 0 (R78). -/
def execEngresResume (part unit tag : Nat) (s : State) : Host.Outcome State Fault Refusal := .next (s.engres part unit tag false)
/-- ENGRES with ACT = 1 (R78). -/
def execEngresPoison (part unit tag : Nat) (s : State) : Host.Outcome State Fault Refusal := .next (s.engres part unit tag true)

/-! ## The firewall (R94) -/

/-- FWCTL (R94): MASK and DRAIN take every write; PART and EN only while EN = 0 or DRAIN = 1. -/
def Slice.setFwctl (k : Slice) (v : BitVec 64) : Slice :=
  let free := !k.fwctl.getLsbD 8 || k.fwctl.getLsbD 9
  let low := if free then v.toNat else k.fwctl.toNat
  { k with fwctl := BitVec.ofNat 64 (bits v.toNat 63 32 * 2 ^ 32 + bits v.toNat 9 9 * 2 ^ 9 + bits low 8 8 * 2 ^ 8 + bits low 4 0) }

/-- FWCTL_WRITE (R94). -/
def execFwctlWrite (sl : Nat) (v : BitVec 64) (s : State) : Host.Outcome State Fault Refusal := .next (s.onSlice sl fun k => k.setFwctl v)

/-! ## Functions (R407, R409, R436) -/

/-- A write of COUNT (R407): a node that becomes ready calls for a decision (R396); heads that wait for cores wait again for one that is no longer ready (R408). -/
def State.nodeWrite (s : State) (f n v : Nat) : State :=
  let was := s.nodeReady f n
  let s := s.onFunc f fun k => { k with nodes := Tab.set k.nodes n (v % 65536) }
  if s.nodeReady f n then (if was then s else s.decideSoon (((s.func f).part).getD 0))
  else { s with launches := s.launches.map fun e : Nat × Launch => (e.1, if e.2.func == f && e.2.state == .placing && e.2.waitNode == some n then { e.2 with nodeWait := true } else e.2) }

/-- NODE_WRITE (R407). -/
def execNodeWrite (f n : Nat) (v : BitVec 64) (s : State) : Host.Outcome State Fault Refusal := .next (s.nodeWrite f n v.toNat)
/-- LPRE with ALL = 0 (R409). -/
def execLpreQueue (f q : Nat) (s : State) : Host.Outcome State Fault Refusal := .next (s.lpreQueue f q)
/-- LPRE with ALL = 1 (R409). -/
def execLpreAll (f : Nat) (s : State) : Host.Outcome State Fault Refusal := .next (s.lpreAll f)

/-- A launch that never was dispensed is removed and completes with CST 3 (R436). (log 48) -/
def State.failLaunch (s : State) (k : Nat) : State :=
  (s.onLaunch k fun x => { x with failed := true, preempt := false, state := .draining, next := x.total, remnants := [], podChunks := [], podDone := true, podWant := false, podAgain := false, reserved := [] }).unqueue k

/-- A function-level reset begins (R436): waiting notifies are answered QRESET, launches with teams are cancelled, records never dispensed fail, saved contexts go, and no save goes on. (log 48) -/
def State.fnrst (s : State) (f : Nat) : State :=
  let waiting := (s.func f).notifies
  let kept := (s.func f).saved.filterMap fun e => e.2.core.team.map Team.launch
  let s := s.onFunc f fun k => { k with resetting := true, notifies := [], saved := [] }
  let s : State := { s with cores := s.cores.map fun e : Nat × Core => (e.1, { e.2 with team := e.2.team.map fun t => if t.func == f then { t with saving := false, saveFor := none } else t }) }
  let s := waiting.foldl (fun s n => s.answerNotify n 2) s
  s.launches.foldl (fun s e => match s.launch e.1 with
    | none => s
    | some x =>
      if x.func != f || x.state == .draining then s
      else if !x.teams.isEmpty || decide (0 < x.disp) || kept.contains e.1 then s.cancelNow e.1
      else s.failLaunch e.1) s

/-- FNRST (R436). -/
def execFnrst (f : Nat) (s : State) : Host.Outcome State Fault Refusal := .next (s.fnrst f)

/-- FNRST_END (R436): the last team has exited. (log 48) -/
def execFnrstEnd (f : Nat) (s : State) : Host.Outcome State Fault Refusal :=
  .next (if !(s.func f).resetting || s.cores.any fun e => (e.2.team.map fun t => t.func == f).getD false then s
    else s.onFunc f fun k => { k with resetting := false, nodes := [], queues := [] })

/-! ## The fault queue (R427, R428) -/

/-- Records that a group takes. -/
def Record.size (r : Record) : Nat := r.ncont + 1
/-- The bytes of a group (R73, R426). -/
def Record.group (r : Record) : List (List Byte) := r.bytes :: r.cont.map fun d => (d.map (leBytes 8)).flatten
/-- Records that the queue holds in memory (R427). -/
def FaultQueue.entries (q : FaultQueue) : Nat := 2 ^ (q.ctl.toNat % 16 + 6)
/-- Physical address of a record (R427). -/
def FaultQueue.slot (q : FaultQueue) (i : Nat) : Nat := bits q.base.toNat 51 12 * 4096 + 64 * (i % q.entries)
/-- Key id of the queue (R427). -/
def FaultQueue.key (q : FaultQueue) : Nat := bits q.base.toNat 60 53

/-- Key request of a write of the fault queue (R428, R39): the firmware complex passes the world test. -/
def FaultQueue.req (q : FaultQueue) (part : Nat) : KeyReq := { part := part, world := 0, pass := true, key := q.key, isSealed := false }

/-- A position of the fault queue cannot be written (R428). -/
def State.fqBlocked (s : State) (part pa : Nat) : Bool :=
  pa < windowEnd || (match s.homeOf part pa with
    | none => true
    | some (sl, loc) => (s.frame (frameKey sl loc)).dead || !s.keyOk ((s.part part).fq.req part) sl loc)

/-- A group fits: the queue is enabled, has room, and its positions can be written (R428). (log 47) -/
def State.fqFits (s : State) (part : Nat) (r : Record) : Bool :=
  let q := (s.part part).fq
  q.ctl.getLsbD 4 && decide ((q.head - q.tail).toNat + r.size ≤ q.entries) && (List.range r.size).all fun i => !s.fqBlocked part (q.slot (q.head.toNat + i))

/-- The write of a group waits for a home that it reaches (R41, R82, R323). -/
def State.fqWait (s : State) (part : Nat) (r : Record) : Bool :=
  let q := (s.part part).fq
  (List.range r.size).any fun i => (s.homeWait part (q.slot (q.head.toNat + i)) 64 true false).isSome

/-- A group is written, and HEAD moves past it (R428). -/
def State.fqWrite (s : State) (part : Nat) (r : Record) : State :=
  let q := (s.part part).fq
  let s := r.group.zipIdx.foldl (fun s (bs, i) => ((s.keyCheck (q.req part) (q.slot (q.head.toNat + i))).1).writePa part (q.slot (q.head.toNat + i)) q.key false bs) s
  s.onPart part fun p => { p with fq := { p.fq with head := p.fq.head + BitVec.ofNat 32 r.size } }

/-- FAULT_RECORD_POST (R428): the oldest group is written, or held within 512 records, or dropped. -/
def execFaultRecordPost (part : Nat) (s : State) : Host.Outcome State Fault Refusal :=
  .next (match (s.part part).fq.made with
    | [] => s
    | r :: rest =>
      let q := (s.part part).fq
      if q.held.isEmpty && s.fqFits part r && s.fqWait part r then s
      else
      let s := s.onPart part fun p => { p with fq := { p.fq with made := rest } }
      if q.held.isEmpty && s.fqFits part r then s.fqWrite part r
      else if (q.held.map Record.size).sum + r.size ≤ 512 then s.onPart part fun p => { p with fq := { p.fq with held := p.fq.held ++ [r] } }
      else s.onPart part fun p => { p with fq := { p.fq with drop := min (p.fq.drop + r.size) 0xFFFFFFFF } })

/-- FAULT_QUEUE_FLUSH (R428): the oldest held group is written once it fits. -/
def execFaultQueueFlush (part : Nat) (s : State) : Host.Outcome State Fault Refusal :=
  .next (match (s.part part).fq.held with
    | [] => s
    | r :: rest => if s.fqFits part r && !s.fqWait part r then (s.onPart part fun p => { p with fq := { p.fq with held := rest } }).fqWrite part r else s)

/-! ## Stores to registers (R8, R444) -/

/-- What a store writes in the fields of a mask that keep the half it does not reach (R444). -/
def RegWrite.mix (w : RegWrite) (old mask : Nat) : Nat :=
  let new := if w.n = 8 then w.v else if w.pa % 8 = 4 then w.v * 2 ^ 32 + old % 2 ^ 32 else old / 2 ^ 32 * 2 ^ 32 + w.v
  Nat.lor (Nat.land new mask) (Nat.land old (2 ^ 64 - 1 - mask))

/-- The whole register that a store is for WO, W1C and W1S fields (R444). -/
def RegWrite.whole (w : RegWrite) : Nat := if w.n = 8 then w.v else if w.pa % 8 = 4 then w.v * 2 ^ 32 else w.v

/-- Mask of the bits [hi:lo]. -/
def bitMask (hi lo : Nat) : Nat := 2 ^ (hi + 1) - 2 ^ lo

/-- A store to the fault block (R427). -/
def State.regFault (s : State) (w : RegWrite) (off : Nat) : State :=
  let q := (s.part w.part).fq
  let on (f : FaultQueue → FaultQueue) : State := s.onPart w.part fun p => { p with fq := f p.fq }
  match off with
  | 0x00 => on fun f => { f with base := BitVec.ofNat 64 (w.mix q.base.toNat (bitMask 60 53 + bitMask 51 12)) }
  | 0x08 => on fun f => { f with ctl := BitVec.ofNat 64 (w.mix q.ctl.toNat (bitMask 31 16 + bitMask 4 0)) }
  | 0x18 => on fun f => { f with tail := BitVec.ofNat 32 (w.mix q.tail.toNat (bitMask 31 0)) }
  | 0x20 => if bits w.whole 63 32 = 0 then s else on fun f => { f with drop := 0 }
  | _ => s

/-- A store to the partition block (R444, R452). -/
def State.regPart (s : State) (w : RegWrite) (off : Nat) : State :=
  let p := s.part w.part
  match off with
  | 0x10 =>
    let ptr := bits w.whole 51 8 * 256
    if p.fwBusy && decide (17 ≤ p.reqs.length) then s else s.onPart w.part fun p => { p with fwBusy := true, reqs := p.reqs ++ [ptr] }
  | 0x20 => s.onPart w.part fun p => { p with evt := p.evt &&& ~~~BitVec.ofNat 64 (w.whole % 16) }
  | 0x28 => s.onPart w.part fun p => { p with evtrt := BitVec.ofNat 64 (w.mix p.evtrt.toNat (bitMask 15 0)) }
  | _ => s

/-- A store to a function's scheduler block (R393, R402, R407, R409, R431, R432, R436). -/
def State.regFunc (s : State) (w : RegWrite) (f off : Nat) : State :=
  let k := s.func f
  let tab (t : Tab (BitVec 64)) (base mask : Nat) : Tab (BitVec 64) :=
    Tab.set t ((off - base) / 8) (BitVec.ofNat 64 (w.mix (Tab.get t ((off - base) / 8) 0).toNat mask))
  if off = 0x100 then (if w.whole.testBit 8 then s.lpreAll f else s.lpreQueue f (w.whole % 64))
  else if off = 0x108 then s.onFunc f fun k => { k with swpq := BitVec.ofNat 64 (w.mix k.swpq.toNat (bitMask 31 0)) }
  else if off = 0x110 then (if w.whole.testBit 0 && !k.resetting then s.fnrst f else s)
  else if 0x2000 ≤ off ∧ off < 0x2200 then s.onFunc f fun k => { k with qctl := tab k.qctl 0x2000 (bitMask 63 32 + bitMask 18 14 + 1) }
  else if 0x2800 ≤ off ∧ off < 0x2A00 then s.onFunc f fun k => { k with qsave := tab k.qsave 0x2800 (bitMask 60 53 + bitMask 51 16 + bitMask 5 0) }
  else if 0x2C00 ≤ off ∧ off < 0x2E00 then s.onFunc f fun k => { k with qptb := tab k.qptb 0x2C00 (bitMask 51 0) }
  else if 0x8000 ≤ off ∧ off < 0x10000 then s.nodeWrite f ((off - 0x8000) / 8) (w.mix (Tab.get k.nodes ((off - 0x8000) / 8) 0) (bitMask 15 0))
  else s

/-- A store to a slice's block (R43, R94, R392). -/
def State.regSlice (s : State) (w : RegWrite) (sl off : Nat) : State :=
  let booth (a : Nat) : State :=
    let s := if bits w.whole 63 32 = 0 then s else s.onSlice sl fun k => { k with ejects := Tab.set k.ejects a 0 }
    if bits w.whole 31 16 = 0 then s else s.onSlice sl fun k => { k with timeouts := Tab.set k.timeouts a 0 }
  if off = 0x100 then s.mcfrel w.part (BitVec.ofNat 64 w.whole)
  else if off = 0x2008 then (if bits w.whole 31 0 = 0 then s else s.onSlice sl fun k => { k with deny := 0 })
  else if off = 0x3000 then booth 0
  else if off = 0x4000 then booth 1
  else if w.priv != .f then s
  else if 0x1000 ≤ off ∧ off < 0x1800 then
    let i := (off - 0x1000) / 8
    let v := w.mix (s.keyStatus sl i) (bitMask 63 56)
    s.onSlice sl fun k => { k with keys := Tab.modify k.keys i {} fun x => { x with valid := v.testBit 63, weight := v.testBit 62, world := BitVec.ofNat 6 (bits v 61 56) } }
  else if 0x1800 ≤ off ∧ off < 0x2000 then
    let i := (off - 0x1800) / 8
    s.onSlice sl fun k => { k with keys := Tab.modify k.keys i {} fun x => { x with stamp := w.mix x.stamp (bitMask 63 0) } }
  else if off = 0x2000 then s.onSlice sl fun k => k.setFwctl (BitVec.ofNat 64 (w.mix k.fwctl.toNat (bitMask 63 0)))
  else s

/-- A store takes effect at its register (R8, R444); at privilege U it is ignored. (log 56) -/
def State.applyReg (s : State) (w : RegWrite) : State :=
  let off := w.pa / 8 * 8
  let f := (off - 0x100000) / 0x10000
  if w.priv == .u then s
  else if off = 0x80 then s.pfres w.part (BitVec.ofNat 64 w.whole)
  else if off = 0x88 then s.engres w.part (bits w.whole 13 0) (bits w.whole 23 16) (w.whole.testBit 24)
  else if 0x1000 ≤ off ∧ off < 0x2000 then s.regFault w (off - 0x1000)
  else if 0x2000 ≤ off ∧ off < 0x3000 then s.regPart w (off - 0x2000)
  else if 0x100000 ≤ off ∧ off < 0x200000 then (if (s.func f).part == some w.part && (s.part w.part).funcs.getLsbD f then s.regFunc w f (off % 0x10000) else s)
  else if 0x200000 ≤ off ∧ off < 0x400000 then
    match Tab.find (s.part w.part).members ((off - 0x200000) / 0x10000) with
    | some sl => s.regSlice w sl (off % 0x10000)
    | none => s
  else s

/-- The window stores of a step take effect in their order. (log 56) -/
def State.settleRegs (s : State) : State := s.regWrites.foldl State.applyReg { s with regWrites := [] }

/-- REGISTER_WRITE (R8, R444): a 64-bit store at a window offset, at a privilege. -/
def execRegisterWrite (part off : Nat) (v : BitVec 64) (priv : BitVec 2) (s : State) : Host.Outcome State Fault Refusal :=
  let p : Priv := if priv = 0 then .u else if priv = 1 then .k else if priv = 2 then .h else .f
  .next (s.applyReg { part := part, pa := off, n := 8, v := v.toNat, priv := p })

end Sys2Proof.Machine
end

