-- ==== Sys2Proof/Machine/Manifest.lean ====
section
/-!
DEFINITION. The boot of the package, manifests, partition resets, the network boot and resizing (R437 to R451).
-/
namespace Sys2Proof.Machine

/-- A message of the management port (log 27). -/
def State.say (s : State) (bs : List Byte) : State := { s with mgmt := s.mgmt ++ [bs] }

/-! ## Images (R437 to R439) -/

/-- The part of an image that its signature covers (R438). -/
def SignedImage.signed (i : Sys2Proof.SignedImage) : List Byte :=
  leBytes 4 i.magic.toNat ++ leBytes 4 i.flags.toNat ++ leBytes 8 i.loadPA.toNat ++ leBytes 8 i.payload.length ++ leBytes 8 i.entry.toNat ++ i.pubkey ++ i.reserved ++ i.payload

/-- Security version of a firmware image (R438). -/
def SignedImage.version (i : Sys2Proof.SignedImage) : Nat := i.flags.toNat / 2 ^ 16

/-- A firmware image is accepted (R439). (log 51) -/
def State.imageOk (s : State) (i : SignedImage) : Bool :=
  i.magic == 0x52465744
    && (List.range 4).any (fun k => s.fuses.signers[k]? == some (Config.sha384 i.pubkey) && !s.fuses.revoked.getLsbD k)
    && Config.ecdsaVerify i.pubkey (SignedImage.signed i) i.sig && decide (s.fuses.minVersion ≤ SignedImage.version i)

/-- The stage at which the three images fail: 1 the controller's, 2 the root core's, 3 the function cores'; 0 when all are accepted (R439). -/
def State.bootStage (s : State) (is : List SignedImage) : Nat :=
  match (List.range 3).find? fun k => !((is[k]?).map s.imageOk).getD false with
  | some k => k + 1
  | none => 0

/-! ## Manifest entries (R440) -/

/-- Entry p of a manifest. -/
def entryOf (m : List Byte) (p : Nat) : List Byte := (m.drop (256 + 256 * p)).take 256
/-- V. -/
def entV (e : List Byte) : Bool := (field e 0 4).testBit 31
/-- FMASK. -/
def entFuncs (e : List Byte) : Nat := field e 0 2
/-- WMASK. -/
def entWorlds (e : List Byte) : Nat := field e 8 8
/-- Slots with their slices. -/
def entSlots (e : List Byte) : List (Nat × Nat) := (List.range 32).filterMap fun k => let b := field e (0x10 + k) 1; if b = 0xFF then none else some (k, b)
/-- BOOTHC. -/
def entBoot (e : List Byte) : Nat := field e 0x30 2 % 2 ^ 14
/-- TIERGB. -/
def entTier (e : List Byte) : Nat := field e 0x32 2

/-- Every byte of a run is zero. -/
def zeroRun (b : List Byte) (o n : Nat) : Bool := ((b.drop o).take n).all (· == 0)

/-- Two slices are adjacent (R15). -/
def adjacent (a b : Nat) : Bool :=
  let row (s : Nat) : Int := (2 * (s / 4 / 4) + s % 4 / 2 : Nat)
  let col (s : Nat) : Int := (2 * (s / 4 % 4) + s % 4 % 2 : Nat)
  (row a - row b).natAbs + (col a - col b).natAbs == 1

/-- Slices that n steps reach from a set within another. -/
def reach (n : Nat) (all from_ : List Nat) : List Nat :=
  match n with
  | 0 => from_
  | k + 1 => reach k all (all.filter fun x => from_.contains x || from_.any (adjacent x))

/-- A set of slices is connected (R15). -/
def connected (l : List Nat) : Bool :=
  match l with
  | [] => false
  | a :: _ => (reach 32 l [a]).length == l.length

/-- The links that the routes of a partition use (R80, R91). (log 51) -/
def linksOf (slices : List Nat) : List Nat := (slices.flatMap fun a => slices.flatMap fun b => (dieLegs (a / 4) (b / 4)).map (·.1)).eraseDups

/-- No element occurs twice. -/
def distinct (l : List Nat) : Bool := l.eraseDups.length == l.length

/-- Frames at or above a size that a partition owns (R441). -/
def State.ownsAbove (s : State) (p size : Nat) : Bool :=
  s.frames.any fun e => e.2.owner.isSome && ((s.part p).members.any fun m => m.2 == e.1 / 2 ^ 22) && decide (size ≤ s.paOf p (e.1 / 2 ^ 22) (e.1 % 2 ^ 22 * 8192))

/-- Frames that a key slot owns over the members of a partition (R42, R43). -/
def State.slotFrames (s : State) (p slot : Nat) : Nat :=
  s.frames.countP fun e => e.2.owner == some slot && ((s.part p).members.any fun m => m.2 == e.1 / 2 ^ 22)

/-- A resize runs, or is still to run, in some partition (R451). -/
def State.resizing (s : State) : Bool := s.parts.any fun e => e.2.adding.isSome || e.2.removing.isSome || !e.2.joining.isEmpty || !e.2.parting.isEmpty

/-- The first check of R441 that a manifest fails: 1 to 8 in its order; 9 while a resize runs (R451). A continuing partition's routes are those before and after its resizes (R91). (log 51) -/
def State.manifestBad (s : State) (m : List Byte) : Option Nat :=
  let es := (List.range 32).map fun p => (p, entryOf m p)
  let used := es.filter fun e => entV e.2
  let slices (e : List Byte) : List Nat := (entSlots e).map (·.2)
  let kept := used.filter fun e => (s.part e.1).valid
  let reserved := zeroRun m 0x18 0xE8 && es.all fun e =>
    decide (field e.2 0 4 / 2 ^ 16 % 2 ^ 15 = 0) && zeroRun e.2 4 4 && decide (field e.2 0x30 2 < 2 ^ 14) && zeroRun e.2 0x36 10
  let size (e : List Byte) : Nat := 8192 * (sliceFrames * (entSlots e).length)
  let links := used.flatMap fun e => linksOf (slices e.2 ++ if (s.part e.1).valid then (s.part e.1).members.map (·.2) else [])
  if s.resizing then some 9
  else if m.length ≠ 8544 || field m 0 4 ≠ 0x464D5744 || !Config.ecdsaVerify s.fuses.operator (m.take 8448) (m.drop 8448) || ((m.drop 8).take 16) != s.fuses.serial
      || !reserved || decide (field m 4 4 < s.boot.version) then some 1
  else if !(used.all fun e => connected (slices e.2) && (slices e.2).all fun x => decide (x < 32)) || !distinct (used.flatMap fun e => slices e.2)
      || !distinct (used.flatMap fun e => (List.range 16).filter (entFuncs e.2).testBit) then some 2
  else if !(used.all fun e => kindOf (entBoot e.2) == .host && (slices e.2).contains (sliceOf (entBoot e.2))) then some 3
  else if (List.range 10).any fun l => decide (4 < links.countP (· == l)) then some 4
  else if 3048 < (used.map fun e => entTier e.2).sum then some 5
  else if kept.any fun e => (entSlots e.2).any fun a => (s.part e.1).members.any fun b => a.2 == b.2 && a.1 != b.1 then some 6
  else if kept.any fun e => decide ((entSlots e.2).length < (s.part e.1).members.length) && s.ownsAbove e.1 (size e.2) then some 7
  else if kept.any fun e => (List.range 256).any fun k =>
      (s.part e.1).members.any fun b => (s.keySlot b.2 k).valid && !(entWorlds e.2).testBit (s.keySlot b.2 k).world.toNat && decide (0 < s.slotFrames e.1 k) then some 8
  else none

/-! ## Partition reset (R445) -/

/-- The units of a slice. -/
def unitsOf (sl : Nat) : List Nat :=
  (List.range 18).map (fun k => 18 * sl + k) ++ (List.range 10).map (fun k => 0xC00 + 10 * sl + k) ++ (List.range 4).map (fun k => 0xE00 + 4 * sl + k)

/-- Cores and booths latched to world 0 and cleared, their packets, waits and commits gone, and the slice's banks empty (R445 steps 3 and 4); the slice's registers and streams take their reset values, but for the invocation counts, which only power-on sets (R9, R47, R50). -/
def State.clearSlice (s : State) (sl : Nat) : State :=
  let us := unitsOf sl
  let s := us.foldl (fun s u => s.onCore u fun c => { failed := c.failed, nextId := c.nextId }) s
  let s := (List.range 4).foldl (fun s k => s.onBank (4 * sl + k) fun b => { failed := b.failed }) s
  let s := s.onSlice sl fun k =>
    { k with chunks := [], arcBar := [], releases := [], barrows := k.barrows.map fun e => (e.1, { failed := e.2.failed }), walkCache := [], issued := 0,
             deny := 0, ejects := [], timeouts := [], streams := k.streams.map fun e => (e.1, { i := e.2.i }) }
  { s with ports := s.ports.map (fun e : Nat × Port => (e.1, { e.2 with packets := e.2.packets.filter fun p => !us.contains p.unit && !(p.response && p.slice == sl) })),
           granq := s.granq.filter (fun g => !us.contains g.unit && !us.contains g.target),
           commits := s.commits.filter (fun c => !us.contains c.unit) }

/-- Every frame of a slice is released as by MCFREL, with counters kept; lost nodes whose frames are all released are rebuilt (R445 step 5, R53). -/
def State.releaseSlice (s : State) (sl : Nat) : State :=
  let s : State :=
    { s with metas := s.metas.map (fun e : Nat × LineMeta => if e.1 / 2 ^ 28 == sl then (e.1, { e.2 with clear := true }) else e),
             poison := s.poison.filter (fun e => e.1 / 2 ^ 28 != sl), latent := s.latent.filter (fun e => e.1 / 2 ^ 28 != sl), mem := bytesClear s.mem (sl * 2 ^ 35) (2 ^ 35),
             frames := s.frames.map fun e : Nat × Frame => if e.1 / 2 ^ 22 == sl then
               (e.1, { e.2 with owner := none, quarantined := (e.2.lost.map (·.1)).or e.2.quarantined, released := e.2.lost.isSome }) else e }
  s.frames.foldl (fun s e => match e.2.lost with
    | some (stamp, lvl) => if e.1 / 2 ^ 22 == sl && (s.frame e.1).lost.isSome then s.rebuildTree sl (e.1 % 2 ^ 22) stamp lvl else s
    | none => s) s

/-- A data slot of world 0 with keys drawn at random (R442, R445). -/
def State.freshSlot (s : State) : KeySlot := { valid := true, weight := false, world := 0, keys := Config.randomKey s.freeCount, stamp := s.gtc }

/-- The key slots of a slice hold a new slot 0 alone (R445 steps 6 and 7). -/
def State.rekey (s : State) (sls : List Nat) : State :=
  let k := s.freshSlot
  let s : State := { s with freeCount := s.freeCount + 1 }
  sls.foldl (fun s sl => s.onSlice sl fun x => { x with keys := [(0, k)] }) s

/-- A partition's teams and launches end without records (R445 step 2), the pod launches that its package leads for it and its packets among them (R2), and its functions' registers take their reset values (R9). -/
def State.discardWork (s : State) (p : Nat) : State :=
  let s := (List.range 16).foldl (fun s f => if (s.func f).part == some p then s.onFunc f fun k => { k with queues := [], saved := [], nodes := [], notifies := [], resetting := false, qctl := [], qsave := [], qptb := [], swpq := 0 } else s) s
  { s with
    launches := s.launches.filter fun e => e.2.part != p,
    pod := { s.pod with launches := s.pod.launches.filter fun e => !(s.podMine e.2 && e.2.part == p), packets := s.pod.packets.filter fun k => k.part != p,
                        responses := s.pod.responses.filter fun k => k.part != p } }

/-- MASK of a set of slices (R94). -/
def maskOf (l : List Nat) : Nat := l.eraseDups.foldl (fun a x => a + 2 ^ (32 + x)) 0

/-- FWCTL of every member names the members (R442, R447). -/
def State.setMasks (s : State) (p : Nat) (ms : List Nat) : State :=
  ms.foldl (fun s sl => s.onSlice sl fun k => { k with fwctl := BitVec.ofNat 64 (maskOf ms + k.fwctl.toNat / 2 ^ 9 % 2 * 2 ^ 9 + 2 ^ 8 + p) }) s

/-- A slice leaves its partition (R441, R447): its firewall clears EN, and its slot is free. -/
def State.freeSlice (s : State) (p sl : Nat) : State :=
  (s.onSlice sl fun k => { k with fwctl := 0 }).onPart p fun x => { x with members := x.members.filter fun m => m.2 != sl }

/-- Steps 2 to 7 of a reset, after the drain (R445): the fault queue and the partition block take their reset values, with the interrupt routes to the boot host core (R442). A slice whose removal was under way has then left. (log 51) -/
def State.resetNow (s : State) (p : Nat) : State :=
  let sls := (s.part p).members.map (·.2)
  let s := s.discardWork p
  let s := sls.foldl (fun s sl => (s.clearSlice sl).releaseSlice sl) s
  let s := s.rekey sls
  let s := sls.foldl (fun s sl => s.onSlice sl fun k => { k with fwctl := k.fwctl &&& ~~~BitVec.ofNat 64 (2 ^ 9) }) s
  let s := ((s.part p).removing.toList).foldl (fun s sl => s.freeSlice p sl) s
  (s.onPart p fun x =>
    { x with
      fq := { ctl := BitVec.ofNat 64 (2 ^ 18 * x.boothc.toNat) }, pstat := 0, migwm := 0, oldMembers := [], gone := none, reqs := [], fwBusy := false, evt := 0, evtrt := BitVec.ofNat 64 (4 * x.boothc.toNat),
      windows := [], retries := 0, retryAt := none, bootAt := none, draining := false, decide := false, adding := none, removing := none }).setMasks p ((s.part p).members.map (·.2))

/-- PARTITION_RESET (R445): the member firewalls enter drain, and the open turns end; the rest follows with FIREWALL_DRAIN_END. -/
def execPartitionReset (p : Nat) (s : State) : Host.Outcome State Fault Refusal :=
  .next (if !(s.part p).valid then s
    else
      let s := s.onPart p fun x => { x with draining := true }
      (s.part p).members.foldl (fun s m =>
        let s := s.onSlice m.2 fun k => { k with fwctl := k.fwctl ||| BitVec.ofNat 64 (2 ^ 9) }
        (unitsOf m.2).foldl (fun s u => s.onCore u fun c => { c with quads := c.quads.map fun e => (e.1, { e.2 with turn := none }) }) s) s)

/-! ## Applying a manifest (R441, R442, R447) -/

/-- The fields of an entry that a running partition takes at once (R441). -/
def Partition.take (x : Partition) (e : List Byte) : Partition :=
  { x with valid := true, entry := e, funcs := BitVec.ofNat 16 (entFuncs e), wmask := BitVec.ofNat 64 (entWorlds e), boothc := BitVec.ofNat 64 (entBoot e), tierGb := entTier e,
           wcxl := field e 0x34 1, wpod := field e 0x35 1, fwgt := Tab.tabulate 16 fun f => max 1 (field e (0x40 + f) 1), khash := (e.drop 0x50).take 48, bootUri := (e.drop 0x80).take 128 }

/-- A partition leaves: it is reset, and its slices' firewalls clear EN (R441). -/
def State.removePart (s : State) (p : Nat) : State :=
  let ms := (s.part p).members.map (·.2)
  let s := s.resetNow p
  let s := ms.foldl (fun s sl => s.freeSlice p sl) s
  let s := (List.range 16).foldl (fun s f => if (s.func f).part == some p then s.onFunc f fun _ => {} else s) s
  s.onPart p fun _ => {}

/-- A new partition (R441, R442): members, firewalls, keys, interrupt routes, functions; it waits for its network boot. -/
def State.addPart (s : State) (p : Nat) (e : List Byte) : State :=
  let s := s.onPart p fun _ => { Partition.take {} e with members := entSlots e }
  (s.setMasks p ((entSlots e).map (·.2))).resetNow p

/-- A continuing partition (R441): what changes at once, and the slices that are to join and to leave. (log 51) -/
def State.changePart (s : State) (p : Nat) (e : List Byte) : State :=
  let old := (s.part p).members
  s.onPart p fun x => { x.take e with joining := (entSlots e).filter fun a => !old.any fun b => b.2 == a.2, parting := (old.filter fun b => !(entSlots e).any fun a => a.2 == b.2).map (·.2) }

/-- No partition holds a slice (R19, R447). -/
def State.sliceFree (s : State) (sl : Nat) : Bool := !s.parts.any fun e => e.2.valid && e.2.members.any fun m => m.2 == sl

/-- Functions go to the partition whose FMASK names them; one that changes hands starts afresh (R442). -/
def State.assignFuncs (s : State) : State :=
  (List.range 16).foldl (fun s f =>
    let owner := (s.parts.find? fun e => e.2.valid && e.2.funcs.getLsbD f).map (·.1)
    if (s.func f).part == owner then s else s.onFunc f fun _ => { part := owner }) s

/-- Tier ranges in the order of the running manifest's partitions (R470). -/
def State.assignTier (s : State) : State :=
  ((List.range 32).foldl (fun (s, at_) p =>
    let e := entryOf s.boot.manifest p
    if entV e then (s.onPart p fun x => if x.valid then { x with tierBase := at_ } else x, at_ + entTier e) else (s, at_)) (s, 0)).1

/-- Every partition holds one channel of each link that its routes use, those before and after its resizes among them (R91): it keeps the one it has, and takes the lowest that no other holds. The checks of R441 leave one. -/
def State.assignChannels (s : State) : State :=
  (List.range 32).foldl (fun s p =>
    if !(s.part p).valid then s
    else
      let x := s.part p
      let links := linksOf ((x.members ++ x.oldMembers).map (·.2) ++ x.joining.map (·.2))
      s.onPart p fun y => { y with channels := links.filterMap fun l =>
        ((Tab.find y.channels l).or ((List.range 4).find? fun c => !s.parts.any fun e => e.1 != p && Tab.find e.2.channels l == some c)).map fun c => (l, c) }) s

/-- New partitions of the running manifest begin once every slice of theirs is free (R441): a slice that another gives up leaves that one first. -/
def State.addPending (s : State) : State :=
  ((List.range 32).foldl (fun s p =>
    let e := entryOf s.boot.manifest p
    if entV e && !(s.part p).valid && (entSlots e).all fun m => s.sliceFree m.2 then s.addPart p e else s) s).assignFuncs.assignTier.assignChannels

/-- The manifest is applied: entries removed, changed and added (R441). -/
def State.applyManifest (s : State) (m : List Byte) : State :=
  let es := (List.range 32).map fun p => (p, entryOf m p)
  let s := es.foldl (fun s (p, e) => if (s.part p).valid && !entV e then s.removePart p else s) s
  let s := es.foldl (fun s (p, e) => if entV e && (s.part p).valid && (s.part p).entry != e then s.changePart p e else s) s
  State.addPending { s with boot := { s.boot with manifest := m, version := field m 4 4 } }

/-- MANIFEST_APPLY (R441): refused whole with the first failing check on the management port, or applied. -/
def execManifestApply (m : List (BitVec 8)) (s : State) : Host.Outcome State Fault Refusal :=
  .next (if !s.boot.released then s
    else match s.manifestBad m with
      | some n => s.say [1, BitVec.ofNat 8 n]
      | none => s.applyManifest m)

/-! ## Power-on (R22, R27, R30, R439) -/

/-- What survives power loss: fuses, the controller's storage, and the units that are lost for good. -/
def State.coldStart (s : State) : State :=
  { State.reset with
    agenda := s.agenda, freeCount := s.freeCount, fuses := s.fuses, boot := { manifest := s.boot.manifest, version := s.boot.version }, health := s.health, healthLog := s.healthLog,
    cxlFailed := s.cxlFailed, lostUnits := s.lostUnits, packageIdx := 0,
    cores := (s.cores.filter fun e => e.2.failed).map (fun e => (e.1, { failed := true })),
    slices := s.slices.map (fun e => (e.1, { level := e.2.level, spareUsed := e.2.spareUsed, lostChans := e.2.lostChans, coreSpare := e.2.coreSpare, boothSpare := e.2.boothSpare, subs := e.2.subs, lost := e.2.lost, barrows := (e.2.barrows.filter fun b => b.2.failed).map fun b => (b.1, { failed := true }) })),
    banks := (s.banks.filter fun e => e.2.failed).map (fun e => (e.1, { failed := true })),
    frames := (s.frames.filter fun e => e.2.withdrawn).map (fun e => (e.1, { withdrawn := true })) }

/-- POWER_ON (R22, R439): the GTC is zero, the images are verified in order; on success the anti-rollback count may rise up to their versions (log 28), and the stored manifest is applied; otherwise the package stays in boot hold. (log 2) -/
def execPowerOn (images : List SignedImage) (s : State) : Host.Outcome State Fault Refusal :=
  let s := s.coldStart
  let stage := s.bootStage images
  .next (if stage ≠ 0 then { s.say [3, BitVec.ofNat 8 stage] with boot := { s.boot with stage := stage, released := false, images := images } }
    else
      let top := images.foldl (fun a i => max a (SignedImage.version i)) s.fuses.minVersion
      let count := min 32 (s.fuses.minVersion + (Config.freeValue s.freeCount).toNat % (top - s.fuses.minVersion + 1))
      let s : State := { s with freeCount := s.freeCount + 1, fuses := { s.fuses with minVersion := max s.fuses.minVersion count }, rootUp := true, boot := { s.boot with stage := 0, released := true, images := images } }
      if s.boot.manifest.isEmpty then s
      else match s.manifestBad s.boot.manifest with
        | some n => s.say [1, BitVec.ofNat 8 n]
        | none => s.applyManifest s.boot.manifest)

/-- ROT_WATCHDOG (R456): the controller alone is reset and verifies the images that it holds again. -/
def execRotWatchdog (_images : List SignedImage) (s : State) : Host.Outcome State Fault Refusal :=
  .next (s.say [3, BitVec.ofNat 8 (s.bootStage s.boot.images)])

/-! ## Network boot (R446) -/

/-- A kernel image is accepted (R438, R446). -/
def State.kernelOk (s : State) (p : Nat) (i : SignedImage) : Bool :=
  i.magic == 0x494B5744 && Config.sha384 i.pubkey == (s.part p).khash && Config.ecdsaVerify i.pubkey (SignedImage.signed i) i.sig
    && decide (i.loadPA.toNat + i.payload.length ≤ (s.part p).size) && decide (0x800000 ≤ i.loadPA.toNat) && decide (i.loadPA.toNat % 8192 = 0)
    && decide (i.payload.length ≤ 2 ^ 30) && decide (i.entry.toNat % 8 = 0)

/-- The identity map (R446) as frames of table entries from frame base on: the L3 table, the L2 table, then the L1 tables of 8 MiB leaves. (log 29) -/
def identityMap (base leaves : Nat) : List (List Nat) :=
  let tables := (leaves + 1023) / 1024
  let next (k : Nat) : Nat := 2 ^ 63 + (base + k) * 8192
  let leaf (n : Nat) : Nat := 2 ^ 63 + 2 ^ 62 + 2 ^ 61 + n * 2 ^ 23 + 0xEC0
  let pad (l : List Nat) : List Nat := l ++ List.replicate (1024 - l.length) 0
  pad [next 1] :: pad ((List.range tables).map fun k => next (2 + k))
    :: (List.range tables).map fun k => pad ((List.range (min 1024 (leaves - 1024 * k))).map fun j => leaf (1024 * k + j))

/-- The boot information block (R446). -/
def bootBlock (p gtc size : Nat) (entry digest : List Byte) : List Byte :=
  leBytes 4 p ++ leBytes 4 0 ++ leBytes 8 gtc ++ (entry ++ List.replicate 256 0).take 256 ++ (digest ++ List.replicate 48 0).take 48 ++ leBytes 8 size

/-- A failed fetch or check (R446): retries 0 to 7 wait 2^i seconds; then the boot has failed. -/
def State.bootFailed (s : State) (p : Nat) : State :=
  let n := (s.part p).retries
  if n < 8 then s.onPart p fun x => { x with retries := n + 1, retryAt := some (s.gtc + 2 ^ n * 1000000000) }
  else (s.onPart p fun x => { x with pstat := 3 }).say [4, BitVec.ofNat 8 p]

/-- Where the boot loader fetches the image from (R446): BOOTURI without its padding, or DHCPv6 option 59 when it is all zero. -/
def Partition.uri (p : Partition) : List Byte := if p.bootUri.all (· == 0) then Config.dhcpBootUri else p.bootUri.takeWhile (· != 0)

/-- NETWORK_BOOT (R446): an image that is accepted is loaded and entered by thread slot 0 of the boot host core; the tables start at a frame of the top 1 MiB that the spec leaves open (log 29). Over a slice port that has failed no fetch succeeds. (log 2) -/
def execNetworkBoot (p : Nat) (i : SignedImage) (s : State) : Host.Outcome State Fault Refusal :=
  let x := s.part p
  .next (if !x.valid || x.draining || x.pstat != 0 || x.retryAt.isSome then s
    else if !s.kernelOk p i || s.lostUnits.contains (0x1540 + sliceOf x.boothc.toNat) then (s.onPart p fun y => { y with bootFrom := y.uri }).bootFailed p
    else
      let leaves := x.size / 2 ^ 23
      let tables := (leaves + 1023) / 1024 + 2
      let base := x.size / 8192 - 128 + (Config.freeValue s.freeCount).toNat % (129 - tables)
      let s : State := { s with freeCount := s.freeCount + 1 }
      let s := s.physWrite (i.payload.length + 1) p 0 0 i.loadPA.toNat i.payload
      let s := (identityMap base leaves).zipIdx.foldl (fun s (t, k) => s.physWrite 70 p 0 0 ((base + k) * 8192) (t.flatMap (leBytes 8))) s
      let digest := Config.sha384 (SignedImage.signed i)
      let th : Thread :=
        { status := .ready, pc := BitVec.ofNat 52 (i.loadPA.toNat + i.entry.toNat), priv := if i.flags.getLsbD 0 then .h else .k, g := [(0, 0x3000)], ptb := BitVec.ofNat 64 (base * 8192 + 4096) }
      let s := s.onStripe x.boothc.toNat 0 fun _ => { role := 1, lanes := [(0, th)] }
      s.onPart p fun y =>
        { y with
          pstat := 1, bootAt := some s.gtc, bootFrom := y.uri, kernel := digest, bootInfo := bootBlock p s.gtc x.size x.entry digest,
          meterLog := [], meterSeq := 0, meterUsage := 0, meterChain := Config.sha384 x.entry, meterTicks := 0, meterMacs := 0, meterBytes := 0 })

/-- BOOT_RETRY (R446): the wait has passed, and the fetch may be tried again. -/
def execBootRetry (p : Nat) (s : State) : Host.Outcome State Fault Refusal :=
  .next (match (s.part p).retryAt with
    | some g => if g ≤ s.gtc then s.onPart p fun x => { x with retryAt := none } else s
    | none => s)

/-! ## Resizing (R447 to R451) -/

/-- A resize is under way in some partition: the root core resizes one slice at a time (R447). -/
def State.resizeRuns (s : State) : Bool := s.parts.any fun e => e.2.adding.isSome || e.2.removing.isSome

/-- RESIZE_ADD (R447): a free slice takes the lowest free slot with the partition's key slots, the firewalls admit it, and the growth begins. -/
def execResizeAdd (p sl : Nat) (s : State) : Host.Outcome State Fault Refusal :=
  let x := s.part p
  .next (if !s.rootUp || s.resizeRuns || x.pstat != 1 || !(x.joining.any fun j => j.2 == sl) || !s.sliceFree sl then s
    else
      let slot := ((List.range 32).find? fun k => (Tab.find x.members k).isNone).getD 0
      let keys := ((x.members.head?).map fun m => (s.slice m.2).keys).getD []
      let s := s.onSlice sl fun k => { k with keys := keys }
      let ms := Tab.set x.members slot sl
      (s.onPart p fun y => { y with pstat := 2, adding := some sl, joining := y.joining.filter (fun j => j.2 != sl), oldMembers := x.members, members := ms, migwm := BitVec.ofNat 64 (2 ^ 63 + 1024) }).setMasks p (ms.map (·.2)))

/-- Teams, contexts saved, or operations that exited teams have left, on the cores of a slice (R430). -/
def State.occupied (s : State) (sl : Nat) : Bool :=
  (s.cores.any fun e => kindOf e.1 == .simt && sliceOf e.1 == sl && (e.2.team.isSome || !e.2.stage.isEmpty || !e.2.matrix.queue.isEmpty || !e.2.matrix.drain.isEmpty))
    || (s.funcs.any fun f => f.2.saved.any fun v => sliceOf v.2.unit == sl) || (s.slice sl).barrows.any fun e => e.2.ops.any fun o => kindOf o.unit == .simt

/-- The launches with teams on cores lose them (R409, R411): a slice dispenser returns its chunks of them, and each is requeued if it keeps no team. -/
def State.withdraw (s : State) (sl : Nat) (p : Nat → Bool) : State :=
  s.launches.foldl (fun s e => if e.2.teams.any p then (s.returnChunks e.1 (· == sl)).onLaunch e.1 fun x => { x with yielded := x.yielded || x.state == .dealing } else s) s

/-- RESIZE_REMOVE (R409, R411, R430, R447): the teams of the slice are pre-empted; once they have exited and their operations have ended the shrink begins. -/
def execResizeRemove (p sl : Nat) (s : State) : Host.Outcome State Fault Refusal :=
  let x := s.part p
  .next (if !s.rootUp || !x.joining.isEmpty || x.migwm.getLsbD 63 || x.gone.isSome then s
    else if x.removing != some sl && (s.resizeRuns || x.pstat != 1 || !x.parting.contains sl) then s
    else
      let s := if x.removing == some sl then s
        else
          let s := (s.onPart p fun y => { y with pstat := 2, removing := some sl, parting := y.parting.filter (· != sl) }).withdraw sl fun u => sliceOf u == sl
          (unitsOf sl).foldl (fun s u => s.onCore u fun c => { c with team := c.team.map fun t => { t with yield := true } }) s
      if s.occupied sl then s
      else
        let s := s.launches.foldl (fun s e => s.returnChunks e.1 (· == sl)) s
        s.onPart p fun y => { y with oldMembers := y.members, gone := some sl, migwm := BitVec.ofNat 64 (2 ^ 63 + 2 ^ 62) })

/-- A line has been written since it was clear (R448): to HBM4E, or in its bank, which holds it dirty. -/
def State.lineWritten (s : State) (k sl loc : Nat) : Bool :=
  let b := s.bank (bankOf sl loc)
  !(Tab.get s.metas k {}).clear || (b.lines.any fun x => x.line == loc / 128 && x.dirty) || b.wbuf.any fun x => x.line == loc / 128

/-- A unit moves from its old home to its new one (R448): bytes, poison, owner and quarantine; the source position is free and clear. A destination that is lost or withdrawn discards the lines, each with its record, and a lost one takes no owner and keeps its own marks (R30, R52, R53). The spec leaves three points open (DESIGN CHOICE, log 79): a moved line is written as not compressible, so its class is 128 bytes; the unit's quarantine mark and owner replace what a destination that is not lost has; a lost source counts as released, and its node is rebuilt at a later release. -/
def State.moveUnit (s : State) (p : Nat) (old new : Nat × Nat) : State :=
  let (so, lo) := old
  let (sn, ln) := new
  let fo := s.frame (frameKey so lo)
  let key := fo.owner.getD 0
  let s := (List.range 64).foldl (fun s i =>
    let a := lo + 128 * i
    let b := ln + 128 * i
    if !s.lineWritten (lineKey so a) so a && !fo.dead then s
    else
      let s := if s.resident so a || fo.dead then s else s.fillLine p so a
      let bs := bytesGet s.mem (memKey so a) 128
      let bad := if fo.dead then 0xFF else s.poisonOf (lineKey so a)
      if (s.frame (frameKey sn ln)).dead then s.deadRecord p sn b true
      else
        let s : State := { s with mem := bytesSet s.mem (memKey sn b) bs }
        (s.setPoison (lineKey sn b) bad).touchLine sn b key true false) s
  let s := s.onFrame (frameKey sn ln) fun f => if f.lost.isSome then f else { f with owner := fo.owner, quarantined := fo.quarantined }
  let k := frameKey so lo
  let s := (List.range 4).foldl (fun s j => s.onBank (4 * so + j) fun b =>
    { b with lines := b.lines.filter (fun x => x.line / 64 != lo / 8192), wbuf := b.wbuf.filter fun x => x.line / 64 != lo / 8192 }) s
  let s : State :=
    { s with metas := s.metas.map (fun e : Nat × LineMeta => if e.1 / 64 == k then (e.1, { e.2 with clear := true }) else e),
             poison := s.poison.filter (fun e => e.1 / 64 != k), latent := s.latent.filter (fun e => e.1 / 64 != k), mem := bytesClear s.mem (k * 8192) 8192 }
  s.onFrame k fun f => { f with owner := none, quarantined := (f.lost.map (·.1)), released := f.lost.isSome }

/-- The migration has reached its end (R447): a slice that joined is in use; one that leaves enters drain, and its firewall and every member's drop it from MASK (R94). -/
def State.endMigration (s : State) (p : Nat) : State :=
  let x := s.part p
  match x.removing with
  | some sl =>
    let rest := x.mapSlices
    let s := (s.onSlice sl fun k => { k with fwctl := BitVec.ofNat 64 (maskOf rest + 2 ^ 9 + k.fwctl.toNat % 2 ^ 9) }).setMasks p rest
    s.onPart p fun y => { y with migwm := 0, oldMembers := [] }
  | none => (s.onPart p fun y => { y with migwm := 0, oldMembers := [], adding := none, pstat := 1, evt := y.evt ||| 2 }).decideSoon p

/-- MIGRATE_UNIT (R448, R449): the unit at the watermark moves once the accesses that its old home has accepted are performed. -/
def execMigrateUnit (p : Nat) (s : State) : Host.Outcome State Fault Refusal :=
  let x := s.part p
  let units := x.resizeUnits
  let shrink := x.migwm.getLsbD 62
  let w := x.migwm.toNat % 2 ^ 27
  .next (if !x.migwm.getLsbD 63 || !s.rootUp then s
    else if (if shrink then units - 1024 else units) ≤ w then s.endMigration p
    else
      let u := if shrink then units - 1 - w else w
      let on (s : State) : State := s.onPart p fun y => { y with migwm := y.migwm + 1 }
      match mapHome (x.oldMembers.map (·.2)) (u * 8192), mapHome x.mapSlices (u * 8192) with
      | some a, some b => if a == b then on s else if (s.accepted a.1 (a.2 / 8192)).isEmpty then on (s.moveUnit p a b) else s
      | _, _ => on s)

/-- FIREWALL_DRAIN_END (R93, R441, R445, R447): no packet of the partition is in flight. A reset goes on; a slice that leaves a partition is reset and free, for a new partition that waits for it among others. -/
def execFirewallDrainEnd (sl : Nat) (s : State) : Host.Outcome State Fault Refusal :=
  .next (if !(s.slice sl).drain then s
    else
      match s.parts.find? fun e => e.2.gone == some sl && !e.2.migwm.getLsbD 63 with
      | some (p, _) =>
        if s.inflOf sl ≠ 0 then s
        else
          let s := (((s.clearSlice sl).releaseSlice sl).rekey [sl]).freeSlice p sl
          (s.onPart p fun y => { y with removing := none, gone := none, pstat := 1, evt := y.evt ||| 2 }).addPending
      | none =>
        match (s.slice sl).part with
        | none => s
        | some p => if (s.part p).draining && (s.part p).members.all fun m => s.inflOf m.2 == 0 then (s.resetNow p).addPending else s)

end Sys2Proof.Machine
end

