-- ==== Sys2Proof/Machine/Firmware.lean ====
section
/-!
DEFINITION. Firmware and the root of trust: requests, metering, attestation, crashes, failed units, errors, and the management port (R27, R30, R34, R125, R391, R452 to R461, R468, R469, R471).
-/
namespace Sys2Proof.Machine

/-! ## Requests (R452) -/

/-- The request block in progress: its address and its 256 bytes; one in the control window reads as the registers there (R443). -/
def State.request (s : State) (p : Nat) : Option (Nat × List Byte) :=
  ((s.part p).reqs.head?).map fun a => (a, if a < windowEnd then (List.range 32).flatMap fun k => leBytes 8 (s.windowReg p (a + 8 * k)).toNat else s.physRead 4 p a 256)

/-- Bytes written by firmware under key id 0 (R452); the memory behind the control window is not reached (R443). -/
def State.fwWrite (s : State) (p pa : Nat) (bs : List Byte) : State := if pa < windowEnd then s else s.physWrite (bs.length / 64 + 4) p 0 0 pa bs

/-- A run that firmware can write: whole lines of the partition above the window, under key id 0. -/
def State.fwCan (s : State) (p pa n : Nat) : Bool :=
  (List.range (n / 128 + 2)).all fun k => (s.physBad p 0 0 (min (pa + 128 * k) (pa + n - 1))).isNone

/-- A request ends: STATUS is written, REQDONE is set, and the next request is in progress (R452). -/
def State.endRequest (s : State) (p a status : Nat) : State :=
  (s.fwWrite p (a + 4) (leBytes 4 status)).onPart p fun x => { x with reqs := x.reqs.drop 1, fwBusy := decide (1 < x.reqs.length), evt := x.evt ||| 1 }

/-- Where the keys of a request stand in its block: of KEYSET and of STRKEY (R452, R469). -/
def keyBytes (code : Nat) : Nat := if code = 1 then 128 else if code = 8 then 32 else 0

/-- A request of a code: busy while a resize runs (R451), malformed when no request has its code; otherwise go gives the state and the status. Key bytes are overwritten before the status is set, whatever it is (R452). While the root core restarts, or while the block waits for its home (R41, R323), requests wait (R456). -/
def State.onRequest (s : State) (p code : Nat) (go : State → List Byte → State × Nat) : Host.Outcome State Fault Refusal :=
  .next (match s.request p with
    | none => s
    | some (a, b) =>
      let c := field b 0 4
      let busy := s.resizeRuns
      if !s.rootUp || (decide (windowEnd ≤ a) && (s.physWait 4 p a 256 true).isSome) then s
      else if !busy && c != code && decide (0 < c) && decide (c ≤ 8) then s
      else
        let s := if keyBytes c = 0 then s else s.fwWrite p (a + 0x40) (List.replicate (keyBytes c) 0)
        if busy then s.endRequest p a 4
        else if c ≠ code then s.endRequest p a 1
        else
          let (s, st) := go s b
          s.endRequest p a st)

/-- The member slices of a partition. -/
def State.memberSlices (s : State) (p : Nat) : List Nat := (s.part p).members.map (·.2)

/-- KEYSET (R38, R42, R452). -/
def execKeyset (p : Nat) (s : State) : Host.Outcome State Fault Refusal :=
  s.onRequest p 1 fun s b =>
    let slot := field b 8 4
    let kind := field b 0xC 4
    let world := field b 0x10 4
    let keys := (b.drop 0x40).take 128
    if slot = 0 ∨ !(s.part p).wmask.getLsbD world then (s, 3)
    else if 255 < slot ∨ 1 < kind then (s, 1)
    else if 0 < s.slotFrames p slot then (s, 2)
    else ((s.memberSlices p).foldl (fun s sl => s.onSlice sl fun k =>
      { k with keys := Tab.set k.keys slot { valid := true, weight := kind == 1, world := BitVec.ofNat 6 world, keys := keys, stamp := s.gtc } }) s, 0)

/-- KEYCLR (R42, R452). The spec does not say what KIND, WORLD and the stamp of a cleared slot read: the whole entry takes its reset value (DESIGN CHOICE, log 65). -/
def execKeyclr (p : Nat) (s : State) : Host.Outcome State Fault Refusal :=
  s.onRequest p 2 fun s b =>
    let slot := field b 8 4
    let first := ((s.memberSlices p).head?).getD 0
    if slot = 0 ∨ ((s.keySlot first slot).valid ∧ !(s.part p).wmask.getLsbD (s.keySlot first slot).world.toNat) then (s, 3)
    else if 255 < slot then (s, 1)
    else if 0 < s.slotFrames p slot then (s, 2)
    else ((s.memberSlices p).foldl (fun s sl => s.onSlice sl fun k => { k with keys := Tab.erase k.keys slot }) s, 0)

/-- The attestation report of a partition (R459, log 27): nonce, GTC, serial, stepping, digests, anti-rollback count, health level, and the device-key signature over them. -/
def State.attestation (s : State) (p : Nat) (nonce : List Byte) : List Byte :=
  let x := s.part p
  let pad (n : Nat) (l : List Byte) : List Byte := (l ++ List.replicate n 0).take n
  let level := ((s.memberSlices p).map fun sl => (s.slice sl).level).foldl max 0
  let body := pad 32 nonce ++ leBytes 8 s.gtc ++ pad 16 s.fuses.serial ++ [0x42, 0x31]
    ++ (s.boot.images.flatMap fun i => pad 48 (Config.sha384 (SignedImage.signed i))) ++ pad 48 (Config.sha384 s.boot.manifest) ++ pad 48 (Config.sha384 x.entry) ++ pad 48 x.kernel
    ++ leBytes 4 s.fuses.minVersion ++ leBytes 4 level
  pad 512 (body ++ pad 96 (Config.deviceSign body))

/-- ATTEST (R452, R459). -/
def execAttest (p : Nat) (s : State) : Host.Outcome State Fault Refusal :=
  s.onRequest p 3 fun s b =>
    let out := field b 0x30 8
    if s.fwCan p out 512 then (s.fwWrite p out (s.attestation p ((b.drop 0x10).take 32)), 0) else (s, 1)

/-- Copies records of a log (R458, R461): first, count and output address of the block. -/
def State.copyLog (s : State) (p : Nat) (b : List Byte) (log : List (List Byte)) : State × Nat :=
  let bs := ((log.drop (field b 8 4)).take (field b 0xC 4)).flatten
  let out := field b 0x30 8
  if bs.isEmpty then (s, 0) else if s.fwCan p out bs.length then (s.fwWrite p out bs, 0) else (s, 1)

/-- Metering records that the controller keeps (R458): those of the last 65,536 usage records. -/
def Partition.meterFirst (p : Partition) : Nat := p.meterSeq - p.meterLog.length

/-- METER (R452, R458): whole records from a sequence number on. (log 51) -/
def execMeter (p : Nat) (s : State) : Host.Outcome State Fault Refusal :=
  s.onRequest p 4 fun s b =>
    let x := s.part p
    let first := field b 8 4
    if first < x.meterFirst then (s, 1) else s.copyLog p (b.take 8 ++ leBytes 4 (first - x.meterFirst) ++ b.drop 12) x.meterLog

/-- HEALTH (R452, R461). (log 51) -/
def execHealth (p : Nat) (s : State) : Host.Outcome State Fault Refusal := s.onRequest p 5 fun s b => s.copyLog p b s.healthLog

/-- HCSTART (R452): a host core of the partition that does not run starts at K on a thread slot. (log 51) -/
def execHcstart (p : Nat) (s : State) : Host.Outcome State Fault Refusal :=
  s.onRequest p 6 fun s b =>
    let u := field b 8 4
    let i := field b 0xC 4
    if kindOf u != .host || s.partOf u != some p || (s.core u).failed || (List.range 4).any fun k => (s.thread u k 0).alive then (s, 3)
    else if 3 < i then (s, 1)
    else
      let th : Thread := { status := .ready, pc := BitVec.ofNat 52 (field b 0x10 8), priv := .k, ptb := BitVec.ofNat 64 (field b 0x18 8 % 2 ^ 52) }
      (s.onStripe u i fun _ => { role := 1, lanes := [(0, th)] }, 0)

/-- WINEXP (R468): a window of the partition's memory is exported or withdrawn. -/
def execWinexp (p : Nat) (s : State) : Host.Outcome State Fault Refusal :=
  s.onRequest p 7 fun s b =>
    let w := field b 8 4
    let base := field b 0x10 8
    let size := field b 0x18 8
    let mask := leNat ((b.drop 0x40).take 128)
    if 255 < w ∨ base % 8192 ≠ 0 ∨ size % 8192 ≠ 0 ∨ 255 < field b 0x20 4 then (s, 1)
    else if (s.part p).size < base + size then (s, 3)
    else
      let win : Window := { base := base, size := size, key := field b 0x20 4, mask := (List.range 1024).filter mask.testBit }
      (s.onPart p fun x => { x with windows := if size = 0 then Tab.erase x.windows w else Tab.set x.windows w win }, 0)

/-- STRKEY (R469): a key of a stream becomes current, or pending beside a current one; a stream that had stopped goes on with it at once (R48). The salt changes with the request, under the current key too, which the spec leaves open (DESIGN CHOICE, log 66). -/
def execStrkey (p : Nat) (s : State) : Host.Outcome State Fault Refusal :=
  s.onRequest p 8 fun s b =>
    let j := field b 0xC 4
    let key := (b.drop 0x40).take 32
    match Tab.find (s.part p).members (field b 8 4) with
    | none => (s, 1)
    | some sl =>
      let x := s.stream sl j
      if 15 < j then (s, 1)
      else if x.pending.isSome then (s, 2)
      else
        let x := { x with salt := BitVec.ofNat 32 (field b 0x10 4) }
        let k : StreamKey := { key := key, first := x.i }
        let x : Stream := if x.current.isNone then { x with current := some k } else { x with pending := some k }
        let x := if x.stop then x.rotate else x
        (s.onSlice sl fun c => { c with streams := Tab.set c.streams j x }, 0)

/-! ## Metering (R458) -/

/-- Ticks of the second during which cores hold teams of a partition. -/
def State.heldTicks (s : State) (p : Nat) : Nat :=
  let from_ := (s.part p).meterFrom
  (s.cores.map fun e => match e.2.team with
    | some t => if s.partOf e.1 == some p then min s.gtc (from_ + 1000000000) - max t.placed from_ else 0
    | none => 0).sum

/-- METER_APPEND (R458): a second has passed since the last usage record; every 64th is followed by a signature record. (log 27) -/
def execMeterAppend (p : Nat) (energy : BitVec 64) (s : State) : Host.Outcome State Fault Refusal :=
  let x := s.part p
  .next (if x.bootAt.isNone || decide (s.gtc < x.meterFrom + 1000000000) then s
    else
      let head := leBytes 8 x.meterFrom ++ leBytes 4 x.meterSeq ++ leBytes 4 p ++ leBytes 8 (x.meterTicks + s.heldTicks p) ++ leBytes 8 x.meterMacs ++ leBytes 8 x.meterBytes ++ leBytes 8 energy.toNat
      let head := head ++ List.replicate 16 0
      let chain := Config.sha384 (x.meterChain ++ head)
      let usage := (head ++ chain ++ List.replicate 128 0).take 128
      let n := x.meterUsage + 1
      let sig := leBytes 8 (x.meterFrom + 1000000000) ++ leBytes 4 (x.meterSeq + 1) ++ leBytes 4 (2 ^ 24 + p)
      let more := if n % 64 = 0 then [usage, (sig ++ Config.deviceSign (sig ++ chain) ++ List.replicate 128 0).take 128] else [usage]
      let log := x.meterLog ++ more
      s.onPart p fun x => { x with meterLog := log.drop (log.length - (65536 + 1024)), meterSeq := x.meterSeq + more.length, meterUsage := n, meterChain := chain, meterTicks := 0, meterMacs := 0, meterBytes := 0 })

/-! ## Crashes (R455 to R457) -/

/-- A crash record (R457): g0 to g95 of the thread that trapped, the one that issued last on the core. (log 27) -/
def State.crashRecord (s : State) (u cause pc recent : Nat) : List Byte :=
  let th := if s.cur.unit = u then s.thread u s.cur.stripe 0 else s.thread u 0 0
  leBytes 8 s.gtc ++ leBytes 4 (s.src u) ++ leBytes 4 (cause + min 255 recent * 256) ++ leBytes 8 pc ++ List.replicate 8 0
    ++ ((List.range 96).flatMap fun r => leBytes 4 (th.reg r).toNat) ++ List.replicate 96 0

/-- The ring of the retained region holds 128 records (R457). -/
def State.pushCrash (s : State) (b : List Byte) : State := { s with crashes := (s.crashes ++ [b]).drop ((s.crashes.length + 1) - 128) }

/-- A trap cause of the table of R419: 0x01 to 0x1A (R14). -/
def causeOk (c : BitVec 8) : Bool := decide (1 ≤ c.toNat) && decide (c.toNat ≤ 0x1A)

/-- A core that has run since a GTC may have crashed: by a trap with a cause that exists (R14), or, with cause 0, by a heartbeat missed for 10,000,000 ticks (R455 to R457). How a core sets its heartbeat the spec does not say: the environment tells that it is missed (log 52). -/
def State.mayCrash (s : State) (cause : BitVec 8) (since : Nat) : Bool := causeOk cause || (cause == 0 && decide (since + 10000000 ≤ s.gtc))

/-- FUNCTION_CORE_CRASH (R455): a crash of a running core is recorded and the core reset; a fourth crash within 10^9 ticks brings a function-level reset. (log 52) -/
def execFunctionCoreCrash (f : Nat) (cause : BitVec 8) (pc : BitVec 52) (s : State) : Host.Outcome State Fault Refusal :=
  let recent := ((s.func f).crashes.filter fun g => decide (s.gtc < g + 1000000000)) ++ [s.gtc]
  if !(s.func f).up || !s.mayCrash cause (s.func f).since then .next s
  else
  let s := s.pushCrash (s.crashRecord (0x1600 + f) cause.toNat pc.toNat recent.length)
  let s := (s.onFunc f fun k => { k with up := false, crashes := recent }).onCore (0x1600 + f) fun c => { nextId := c.nextId }
  .next (if 4 ≤ recent.length then s.fnrst f else s)

/-- FUNCTION_CORE_RESTART (R455, R457): the firmware is reloaded, the queues go on, and the kernel is told; after a fourth crash the function-level reset ends first. A core that has failed stays down (R460). -/
def execFunctionCoreRestart (f : Nat) (s : State) : Host.Outcome State Fault Refusal :=
  .next (if (s.func f).up || (s.core (0x1600 + f)).failed || ((s.func f).resetting && decide (4 ≤ (s.func f).crashes.length)) then s
    else
      let s := s.onFunc f fun k => { k with up := true, since := s.gtc }
      match (s.func f).part with
      | some p => (s.onPart p fun x => { x with evt := x.evt ||| 8 }).decideSoon p
      | none => s)

/-- ROOT_CORE_CRASH (R456): a crash of the running root core is recorded. -/
def execRootCoreCrash (cause : BitVec 8) (pc : BitVec 52) (s : State) : Host.Outcome State Fault Refusal :=
  let old := s.crashes.countP fun b => leNat ((b.drop 8).take 4) == s.src 0x1610 && decide (s.gtc < leNat (b.take 8) + 1000000000)
  if !s.rootUp || !s.mayCrash cause s.rootSince then .next s
  else
  let s := s.pushCrash (s.crashRecord 0x1610 cause.toNat pc.toNat (old + 1))
  .next { s.onCore 0x1610 (fun c => { nextId := c.nextId }) with rootUp := false }

/-- ROOT_CORE_RESTART (R456): latching, resizing, time slicing and requests go on; FNRESTART is set in every partition. A core that has failed stays down (R460). -/
def execRootCoreRestart (s : State) : Host.Outcome State Fault Refusal :=
  .next (if s.rootUp || (s.core 0x1610).failed then s
    else { s with rootUp := true, rootSince := s.gtc, parts := s.parts.map fun e : Nat × Partition => if e.2.valid then (e.1, { e.2 with evt := e.2.evt ||| 8, decide := true }) else e })

/-! ## Failures (R18, R27, R30, R391, R460, R461) -/

/-- A slice's level rises (R27, R460): a signed entry in the health log, and EVT.HEALTH. (log 52) -/
def State.raiseHealth (s : State) (sl unit level reason what : Nat) : State :=
  let old := (s.slice sl).level
  let new := max old level
  let s : State := { s with healthLog := s.healthLog ++ [s.healthEntry (s.src unit) old new reason what], health := max s.health new }
  let s := s.onSlice sl fun k => { k with level := new }
  match (s.slice sl).part with
  | some p => if old < new then s.onPart p fun x => { x with evt := x.evt ||| 4 } else s
  | none => s

/-- The package has lost a unit of its own (R27, R460): its level is 2, with a signed entry in the health log. -/
def State.packageLoss (s : State) (u : Nat) : State := { s with health := max s.health 2, healthLog := s.healthLog ++ [s.healthEntry (s.src u) s.health (max s.health 2) 1 0] }

/-- A CXL port fails, which has no spare (R27, R470): every unit on it is out of reach, and the package has lost a unit of its own. -/
def State.failTierPort (s : State) (port : Nat) : State :=
  if decide (16 ≤ port) || s.cxlFailed.getLsbD port then s else { s with cxlFailed := setBit s.cxlFailed port true }.packageLoss (0x1560 + port)

/-- TIER_PORT_FAILURE (R27, R470). -/
def execTierPortFailure (port : Nat) (s : State) : Host.Outcome State Fault Refusal := .next (s.failTierPort port)

/-- A slice runs on without a unit (R27). -/
def State.loseUnit (s : State) (sl unit : Nat) : State := (s.onSlice sl fun k => { k with lost := min 255 (k.lost + 1) }).raiseHealth sl unit 2 1 0

/-- A failed core's place goes to the spare of its arcade, if that is unused (R18), or if a unit of a higher source number took it at the same GTC, which is then lost (R26, R27); otherwise the capacity is lost (R27). A spare that fails before it is used counts as lost capacity with level 2, which the spec leaves open (DESIGN CHOICE, log 67). (log 52) -/
def State.substitute (s : State) (sl unit base spare : Nat) : State :=
  let sp := base + spare
  let pos := (((s.slice sl).subs.find? fun e => e.2 == unit).map (·.1)).getD unit
  let user := (s.slice sl).subs.find? fun e => e.2 == sp
  let s := s.onCore unit fun _ => { failed := true, nextId := (s.core unit).nextId }
  let take (s : State) : State :=
    ((s.onSlice sl fun k => { k with subs := Tab.set k.subs pos sp, spareAt := Tab.set k.spareAt sp s.gtc }).onCore sp fun c => { nextId := c.nextId }).raiseHealth sl unit 1 1 sp
  if (s.core sp).failed || unit == sp then s.loseUnit sl unit
  else
    match user with
    | none => take s
    | some (other, _) =>
      if Tab.find (s.slice sl).spareAt sp == some s.gtc && decide (unit < other) then take ((s.onSlice sl fun k => { k with subs := Tab.erase k.subs other }).loseUnit sl other)
      else s.loseUnit sl unit

/-- The team of a failed core exits in place, with one record (R460). (log 60) -/
def State.failTeam (s : State) (u : Nat) : State :=
  match (s.core u).team with
  | none => s
  | some t =>
    let r : Record := { stamp := s.gtc, src := s.src u, cause := 0x17, det := 1 :: t.last.map (BitVec.ofNat 32) }
    let s := (s.attribute u r).post ((s.partOf u).getD 0) r
    let s := (s.core u).stripes.foldl (fun s e => (List.range 32).foldl (fun s l => match (s.thread u e.1 l).status with
      | .ejected b k => ((s.exitThread u e.1 l).dropGuestWaits b k).onCore b fun c => c.freeGuest k
      | .absent => s
      | .exited => s
      | _ => s.exitThread u e.1 l) s) s
    s.teamExit u t

/-- A failed SIMT core (R400, R409, R411, R460): its launch loses the core, its slice returns that launch's chunks, and a head that had reserved it chooses again. (log 69) -/
def State.failCore (s : State) (u : Nat) : State :=
  let sl := sliceOf u
  let a := arcadeOf u
  let s := (s.withdraw sl (· == u)).failTeam u
  let s : State := { s with launches := s.launches.map fun e : Nat × Launch => (e.1, if e.2.reserved.contains u then { e.2 with reserved := [] } else e.2) }
  (s.substitute sl u (18 * sl + 9 * a) (((s.slice sl).coreSpare[a]?).getD 8)).decideSoon ((s.partOf u).getD 0)

/-- A failed booth core (R391). -/
def State.failBooth (s : State) (u : Nat) : State :=
  let sl := sliceOf u
  let a := arcadeOf u
  (s.loseGuests u).substitute sl u (0xC00 + 10 * sl + 5 * a) (((s.slice sl).boothSpare[a]?).getD 4)

/-- A failed host core: its threads end as a double trap would (R423, R460). (log 52) -/
def State.failHost (s : State) (u : Nat) : State :=
  let sl := sliceOf u
  let s := (List.range 4).foldl (fun s i => if (s.thread u i 0).alive then
    (s.post ((s.partOf u).getD 0) (s.threadRecord u i 0 (s.thread u i 0).pc.toNat { cause := 0x17, dcode := 0x28 })).exitThread u i 0 else s) s
  (s.onCore u fun c => { failed := true, nextId := c.nextId }).loseUnit sl u

/-- The slice of a unit without a spare that is not a core (R25). -/
def sliceOfUnit (u : Nat) : Nat :=
  if 0xF00 ≤ u ∧ u < 0xF40 then (u - 0xF00) / 2
  else if 0x1000 ≤ u ∧ u < 0x1080 then (u - 0x1000) / 4
  else if 0x1200 ≤ u ∧ u < 0x1420 then (u - 0x1200) / 17
  else u % 32

/-- A failed barrow engine: its operations end (R460). (log 32) -/
def State.failBarrow (s : State) (u : Nat) : State :=
  let sl := (u - 0xF00) / 2
  (s.onSlice sl fun k => { k with barrows := Tab.modify k.barrows (u % 2) {} fun b => { b with failed := true } }).endBarrowOps sl (u % 2)

/-- A failed cache bank holds no line (R460): the controller serves its accesses, and what it had not written back is lost as by an uncorrectable error (log 62). -/
def State.failBank (s : State) (bn : Nat) : State :=
  let b := s.bank bn
  let dirty := (b.lines.filter BankLine.dirty) ++ b.wbuf
  let s := dirty.foldl (fun s x => { s with latent := Tab.set s.latent (2 ^ 28 * (bn / 4) + x.line) .ecc, metas := Tab.modify s.metas (2 ^ 28 * (bn / 4) + x.line) {} fun m => { m with clear := false } }) s
  s.onBank bn fun b => { b with lines := [], wbuf := [], failed := true }

/-- Frames of the top sixteenth of a data region (R30). -/
def topFrames : List Nat := (List.range (sliceFrames / 16)).map fun i => sliceFrames - sliceFrames / 16 + i

/-- Lines that stand on a pseudo-channel and have been written to HBM4E (R28, R30): the spare, once in use, holds those of the first channel that was lost. On which channels the relocated lines of a later one stand the spec does not say: no further loss reaches them (DESIGN CHOICE, log 68). -/
def State.linesOn (s : State) (sl chan : Nat) : List Nat :=
  let at_ := if chan = 16 then (if (s.slice sl).spareUsed then ((s.slice sl).lostChans.filter (· ≠ 16)).head? else none) else some chan
  (s.metas.filter fun e => e.1 / 2 ^ 28 == sl && some (e.1 % 16) == at_ && !e.2.clear).map (·.1)

/-- A pseudo-channel fails (R30, R54): the spare takes its lines. A sudden failure poisons those that the bank does not hold, and those it holds where the controller would read them again; without a spare the top of the region is withdrawn. A frame has one record of it. An announced failure with no spare left loses its lines as a sudden one does, and a spare that fails unused is consumed with level 1, which the spec leaves open (DESIGN CHOICE, log 68). -/
def State.failChannel (s : State) (sl chan : Nat) (announced : Bool) : State :=
  let spare := !(s.slice sl).spareUsed
  if (s.slice sl).lostChans.contains chan then s
  else
    let bad := if announced && spare then [] else s.linesOn sl chan
    let s := bad.foldl (fun s k =>
      if s.resident sl (k % 2 ^ 28 * 128) then { s with latent := Tab.set s.latent k (.channel chan) } else (s.setPoison k 0xFF).channelPoison sl (k % 2 ^ 28 / 64) chan) s
    let s := s.onSlice sl fun k => { k with lostChans := k.lostChans ++ [chan], spareUsed := true, lost := if spare then k.lost else min 255 (k.lost + 1) }
    let s := s.raiseHealth sl (0x1200 + 17 * sl + chan) (if spare then 1 else 2) 3 chan
    if spare then s
    else topFrames.foldl (fun s fr => (s.channelPoison sl fr chan).onFrame (2 ^ 22 * sl + fr) fun f => { f with withdrawn := true }) s

/-- The numbers of units that are neither cores, pseudo-channels nor CXL ports (R25). -/
def plainUnit (u : Nat) : Bool :=
  [(0xF00, 0xF40), (0x1000, 0x1080), (0x1100, 0x1120), (0x1500, 0x1560), (0x1580, 0x1588), (0x1590, 0x159A), (0x1611, 0x1614), (0x1620, 0x1622)].any fun r => decide (r.1 ≤ u) && decide (u < r.2)

/-- Work on a unit ends with its failure (R460): a barrow engine's operations, a cache bank's lines; a slice port is no pod port; nothing passes a firewall or a link; the others have no work of their own here. (logs 32, 52 and 62) -/
def State.stopUnit (s : State) (u : Nat) : State :=
  if 0xF00 ≤ u ∧ u < 0xF40 then s.failBarrow u
  else if 0x1000 ≤ u ∧ u < 0x1080 then s.failBank (u - 0x1000)
  else if 0x1540 ≤ u ∧ u < 0x1560 then s.onSlice (u - 0x1540) fun k => { k with podMode := false }
  else s

/-- A failed unit without a spare that is no core (R27, R460): a slice's, or the package's own; a unit fails once. -/
def State.failPlain (s : State) (u : Nat) : State :=
  if !plainUnit u || s.lostUnits.contains u then s
  else
    let s := { s with lostUnits := s.lostUnits ++ [u] }.stopUnit u
    if 0x1580 ≤ u then s.packageLoss u else s.loseUnit (sliceOfUnit u) u

/-- A failed function core or root core (R27, R460): it runs no more. -/
def State.failFirmware (s : State) (u : Nat) : State :=
  let s := s.onCore u fun c => { failed := true, nextId := c.nextId }
  (if u = 0x1610 then { s with rootUp := false } else s.onFunc (u - 0x1600) fun k => { k with up := false }).packageLoss u

/-- UNIT_FAILURE (R25, R27, R460): a number that names no unit has no effect, and a unit fails once. A failed stage or matrix engine is the failure of its core, logged under the core's number, which the spec leaves open (DESIGN CHOICE, log 69). (log 32) (log 67) -/
def execUnitFailure (u : Nat) (s : State) : Host.Outcome State Fault Refusal :=
  .next (if (s.core u).failed then s
    else match kindOf u with
      | .simt => s.failCore u
      | .booth => s.failBooth u
      | .host => s.failHost u
      | .func | .root => s.failFirmware u
      | .other =>
        if 0x400 ≤ u ∧ u < 0x640 then (if (s.core (u - 0x400)).failed then s else s.failCore (u - 0x400))
        else if 0x800 ≤ u ∧ u < 0xA40 then (if (s.core (u - 0x800)).failed then s else s.failCore (u - 0x800))
        else if 0x1200 ≤ u ∧ u < 0x1420 then s.failChannel ((u - 0x1200) / 17) ((u - 0x1200) % 17) false
        else if 0x1560 ≤ u ∧ u < 0x1570 then s.failTierPort (u - 0x1560)
        else s.failPlain u)

/-- BOOTH_FAILURE (R391). (log 67) -/
def execBoothFailure (u : Nat) (s : State) : Host.Outcome State Fault Refusal := .next (if kindOf u != .booth || (s.core u).failed then s else s.failBooth u)

/-- PSEUDO_CHANNEL_FAILURE (R30). -/
def execPseudoChannelFailure (sl chan : Nat) (announced : Bool) (s : State) : Host.Outcome State Fault Refusal := .next (s.failChannel sl chan announced)

/-- SRAM_UNCORRECTABLE (R121, R125): a granule of an S-mode or F-mode bank is poisoned, with one record; a bank in C mode drops the line, and the next access fetches it again. The granule of a C-mode bank is one of its 512 lines, of the way that the bank is (log 40). -/
def execSramUncorrectable (u g : Nat) (s : State) : Host.Outcome State Fault Refusal :=
  .next (if kindOf u != .simt then s
    else if (s.core u).mode (g / 4096) == 0 then s.onCore u fun c => c.dropWayLine (g / 4096) (g % 4096 / 8)
    else
      let r : Record := { stamp := s.gtc, src := s.src u, cause := 0x13, dcode := 0x17, addr := 2 ^ 61 + s.rankOf u * 2 ^ 52 + 16 * g }
      (s.post ((s.partOf u).getD 0) r).onCore u fun c => c.setPoisoned g true)

/-! ## Write-back (R34 to R37) -/

/-- LINE_WRITE_BACK (R34, R36, R37, R51): the controller accepts the oldest line of a bank's write-back buffer, 16 ticks after its last write-back at the earliest. (log 19) -/
def execLineWriteBack (bank : Nat) (s : State) : Host.Outcome State Fault Refusal :=
  match (s.bank bank).wbuf with
  | [] => .next s
  | x :: _ =>
    if !s.mayDrain bank then .next s
    else if !(s.frame (frameKey (bank / 4) (x.line * 128))).dead && decide (2 ^ 56 - 1 ≤ (Tab.get s.metas (2 ^ 28 * (bank / 4) + x.line) {}).counter) then .fault .lineCounterWrap
    else .next (s.drainOne bank)

/-! ## The management port (R457, R458, R461, R471, log 27) -/

/-- SPDM GET_VERSION: version 1.3. -/
def execSpdmGetVersion (s : State) : Host.Outcome State Fault Refusal := .next (s.say [0x10, 0x04, 0, 0, 0, 1, 0, 0x13])
/-- SPDM GET_CAPABILITIES: measurements without signature. (log 2) -/
def execSpdmGetCapabilities (s : State) : Host.Outcome State Fault Refusal := .next { s.say ([0x13, 0x61] ++ (List.range 4).map fun k => (Config.freeValue (s.freeCount + k)).setWidth 8) with freeCount := s.freeCount + 4 }
/-- SPDM NEGOTIATE_ALGORITHMS: no asymmetric algorithm. -/
def execSpdmNegotiateAlgorithms (s : State) : Host.Outcome State Fault Refusal := .next (s.say [0x13, 0x63, 0, 0])
/-- SPDM GET_MEASUREMENTS: the report of R459 as one block. -/
def execSpdmGetMeasurements (p : Nat) (nonce : List (BitVec 8)) (s : State) : Host.Outcome State Fault Refusal := .next (s.say ([0x13, 0x60] ++ s.attestation p nonce))
/-- CHALLENGE, KEY_EXCHANGE and signed measurements: ERROR UnsupportedRequest. -/
def execSpdmUnsupported (s : State) : Host.Outcome State Fault Refusal := .next (s.say [0x13, 0x7F, 0x07, 0])
/-- The crash records (R457). -/
def execMgmtReadCrashRecords (s : State) : Host.Outcome State Fault Refusal := .next (s.say s.crashes.flatten)
/-- The health log (R461). -/
def execMgmtReadHealthLog (s : State) : Host.Outcome State Fault Refusal := .next (s.say s.healthLog.flatten)
/-- A metering log (R458). -/
def execMgmtReadMeteringLog (p : Nat) (s : State) : Host.Outcome State Fault Refusal := .next (s.say (s.part p).meterLog.flatten)
/-- The boot stage (R439). -/
def execMgmtBootStageReport (s : State) : Host.Outcome State Fault Refusal := .next (s.say [3, BitVec.ofNat 8 s.boot.stage])

end Sys2Proof.Machine
end

