-- ==== Sys2Proof/Machine/System.lean ====
section
/-!
DEFINITION. System words: special registers, TRAP, BKPT, ERET, HALT, WLATCH, TLBINV; turns, interrupts and the end of an invalidation (R69, R353 to R362, R420 to R424).
-/
namespace Sys2Proof.Machine

/-! ## Special registers (R353 to R355) -/

/-- sr.oc of a stripe (R115). -/
def Stripe.oc (t : Stripe) : Nat := (List.range 5).foldl (fun a k => a + Tab.get t.counters k 0 % 64 * 2 ^ (6 * k)) 0

/-- sr.xcause of a thread (R420). -/
def xcauseOf (t : Stripe) (th : Thread) : Nat :=
  (if th.ie then 2 ^ 19 else 0) + (if t.xin then 2 ^ 18 else 0) + th.pPriv.code % 4 * 2 ^ 16 + th.dcode.toNat * 2 ^ 8 + th.cause.toNat

/-- sr.core of a home core (R136, R137); the rank bits of a firmware core are a free value (log 25). (log 2) -/
def State.srCore (s : State) (u : Nat) : Nat :=
  match kindOf u with
  | .host => 512 + 4 * (s.part ((s.partOf u).getD 0)).slotOf (sliceOf u) + (u - 0xE00) % 4
  | .simt => s.rankOf u
  | _ => (Config.freeValue s.freeCount).toNat % 512

/-- The value of a special register for a thread at a place and a level (R353). -/
def State.readSr (s : State) (u i l n : Nat) (priv : Priv) : Nat :=
  let (hu, hi, hl) := s.home u i l
  let c := s.core hu
  let th := s.thread u i l
  match n with
  | 0x000 => 32 * hi + hl
  | 0x001 => hl
  | 0x002 => hi
  | 0x003 => if kindOf hu == .host then 1 else (s.stripe hu hi).role.toNat
  | 0x004 => s.srCore hu
  | 0x005 => match c.team with
    | some t => t.csz * 16 + t.pos
    | none => 0
  | 0x006 => (s.thread hu hi hl).gangs.toNat
  | 0x008 => (s.worldOf u i l).toNat
  | 0x009 => (s.partOf hu).getD 0
  | 0x00A => (s.ctxOf hu hi hl).toNat
  | 0x010 => (s.stripe hu hi).oc
  | 0x011 => th.txcause.toNat
  | 0x012 => th.tx.depth
  | 0x020 => c.kown.toNat
  | 0x021 => match c.kdirty with
    | [] => 0
    | (t, _) :: _ => 2 ^ 31 + t
  | 0x022 => c.bmode.toNat
  | 0x030 => c.ejt.toNat
  | 0x031 => c.ejto.toNat
  | 0x040 => (s.ptbOf u i l).toNat
  | 0x050 => xcauseOf (s.stripe u i) th
  | 0x051 => th.xpc.toNat
  | 0x052 => (if priv == .h then c.xrecH else c.xrec).toNat
  | 0x053 => (if priv == .h then c.cbaseH else c.cbase).toNat
  | _ => 0

/-- RDSR (R354): per active lane. -/
def execRdsr (f : FmtI) (s : State) : Host.Outcome State Fault Refusal :=
  let wide := srWide f.sr == some true
  let lanes := s.active f.hdr
  .next (match s.checkSem lanes fun _ => { srcs := [], dsts := if wide then [f.dst.toNat, f.dst.toNat + 1] else [f.dst.toNat], apply := fun _ t => t } with
    | .error e => s.stopWord noRunAhead e
    | .ok _ =>
      let val (l : Nat) : Nat := s.readSr s.cur.unit s.cur.stripe l f.sr s.curPriv
      let t := s.finish f.hdr.b fun l t =>
        if !lanes.contains l then t
        else if wide then t.setPair f.dst.toNat (BitVec.ofNat 64 (val l)) else t.setReg f.dst.toNat (BitVec.ofNat 32 (val l))
      { t with freeCount := t.freeCount + 1 })

/-- A special register has a field that privilege K may write (R8, R354): sr.world and IE of sr.xcause exist for writing on host cores only. (log 43) -/
def srWritable (n : Nat) (host : Bool) : Bool := [0x00A, 0x020, 0x021, 0x030, 0x031, 0x040, 0x051, 0x052, 0x053].contains n || (host && (n == 0x008 || n == 0x050))

/-- The bits [51:12], [51:10] or [51:0] of a register that a write takes. -/
def keepBits (v hi lo : Nat) : BitVec 64 := BitVec.ofNat 64 (bits v hi lo * 2 ^ lo)

/-- A write of the writable fields of a special register (R354, R355, R420). Registers of the thread are written in every active lane (log 26). -/
def State.writeSr (s : State) (lanes : List Nat) (n v : Nat) : State :=
  let u := s.cur.unit
  let host := s.curKind == .host
  let threads (g : Thread → Thread) : State := s.onCur fun t => lanes.foldl (fun t l => t.onLane l g) t
  match n with
  | 0x008 => if (s.part s.curPart).wmask.getLsbD (v % 64) then (threads fun t => { t with world := BitVec.ofNat 6 v }).onCore u Core.dropLines else s
  | 0x00A => if host then threads fun t => { t with ctx := BitVec.ofNat 16 v } else s.onCore u fun c => { c with ctx := BitVec.ofNat 16 v }
  | 0x020 => s.onCore u fun c => { c with kown := BitVec.ofNat 32 v &&& 0x8000FFFF }
  | 0x021 => s.onCore u fun c => { c with kdirty := if v.testBit 30 then [] else Tab.erase c.kdirty (v % 1024) }
  | 0x030 => s.onCore u fun c => { c with ejt := BitVec.ofNat 32 (v % 32) }
  | 0x031 => s.onCore u fun c => { c with ejto := BitVec.ofNat 32 v }
  | 0x040 => if host then threads fun t => { t with ptb := keepBits v 51 0 } else s.onCore u fun c => { c with ptb := keepBits v 51 0 }
  | 0x050 => threads fun t => { t with ie := v.testBit 19 }
  | 0x051 => threads fun t => { t with xpc := BitVec.ofNat 52 v }
  | 0x052 => s.onCore u fun c => if s.curPriv == .h then { c with xrecH := keepBits v 51 10 } else { c with xrec := keepBits v 51 10 }
  | 0x053 => s.onCore u fun c => if s.curPriv == .h then { c with cbaseH := keepBits v 51 12 } else { c with cbase := keepBits v 51 12 }
  | _ => s

/-- WRSR (R354): once for the word, with the value of the lowest active lane. (log 26) -/
def execWrsr (f : FmtI) (s : State) : Host.Outcome State Fault Refusal :=
  let wide := srWide f.sr == some true
  let lanes := s.active f.hdr
  .next (if s.curKind == .booth then s.goHome
    else if lanes.isEmpty then s.finishPlain f.hdr.b
    else
      let low := (lanes.head?).getD 0
      if s.curPriv == .u || !srWritable f.sr (s.curKind == .host) then s.stopWord noRunAhead (.trap { cause := 0x03, lane := low })
      else
        match s.checkSem [low] fun _ => { srcs := if wide then [(f.sa.toNat, f.fa), (f.sa.toNat + 1, f.fa)] else [(f.sa.toNat, f.fa)], apply := fun _ t => t } with
        | .error e => s.stopWord noRunAhead e
        | .ok _ =>
          let v := if wide then ((s.curThread low).pair f.sa.toNat).toNat else ((s.curThread low).reg f.sa.toNat).toNat
          (s.writeSr lanes f.sr v).finishPlain f.hdr.b)

/-! ## Traps, return, halting (R356 to R358) -/

/-- A software trap (R356): when a lane is active, it names the lowest and carries its number. -/
def State.softTrap (s : State) (f : FmtI) (cause : Nat) : State :=
  match s.active f.hdr with
  | [] => s.finishPlain f.hdr.b
  | low :: _ => s.stopWord noRunAhead (.trap { cause := cause, lane := low, det := [BitVec.ofNat 32 (f.imm.toNat % 256)] })

/-- TRAP (R356). -/
def execTrap (f : FmtI) (s : State) : Host.Outcome State Fault Refusal := .next (s.softTrap f 0x19)
/-- BKPT (R356). -/
def execBkpt (f : FmtI) (s : State) : Host.Outcome State Fault Refusal := .next (s.softTrap f 0x1A)

/-- A word that privilege U may not execute (R357, R358, R361); nothing happens with no active lane. -/
def State.privWord (s : State) (h : Hdr) (go : State → List Nat → State) : State :=
  match s.active h with
  | [] => s.finishPlain h.b
  | low :: r => if s.curPriv == .u then s.stopWord noRunAhead (.trap { cause := 0x03, lane := low }) else go s (low :: r)

/-- ERET (R357, R422): each active lane returns to the address and level of its trap; lanes behind a false guard go on. -/
def execEret (f : FmtR) (s : State) : Host.Outcome State Fault Refusal :=
  .next (if s.curKind == .booth then s.goHome
    else s.privWord f.hdr fun s act =>
      let m := laneMask act.contains
      let s := s.onCur fun t => (t.mapLanes fun l th => if s.cur.lanes.getLsbD l && !m.getLsbD l then th.advance f.hdr.b else th).eret m f.hdr.b
      if f.hdr.b then (s.onCur Stripe.leaveSerial).stopGroup else s.leaveGroup m)

/-- HALT (R358): the thread issues nothing until an interrupt is pending. -/
def execHalt (f : FmtR) (s : State) : Host.Outcome State Fault Refusal :=
  .next (match s.curKind with
    | .booth => s.illegal
    | .simt => s.illegal
    | _ => s.privWord f.hdr fun s act =>
      let s := s.finish f.hdr.b fun l t => if act.contains l then { t with status := .halted } else t
      s.leaveGroup (laneMask act.contains))

/-! ## Interrupts (R424, R427, R444) -/

/-- An interrupt is pending for a host-core thread: a source routed to it is active. (log 58) -/
def State.interruptPending (s : State) (u slot : Nat) : Bool :=
  match s.partOf u with
  | none => false
  | some p =>
    let x := s.part p
    (x.evt != 0 && bits x.evtrt.toNat 15 2 == u && x.evtrt.toNat % 4 == slot)
      || (x.fq.ctl.getLsbD 4 && x.fq.head != x.fq.tail && bits x.fq.ctl.toNat 31 18 == u && bits x.fq.ctl.toNat 17 16 == slot)

/-- A host-core thread that a source interrupts may take the interrupt: IE is set, no handler runs, and it is at U or K (R424). -/
def State.interruptible (s : State) (u slot : Nat) : Bool :=
  let t := s.stripe u slot
  let th := t.lane 0
  kindOf u == .host && s.interruptPending u slot && th.ie && !t.xin && (th.priv == .u || th.priv == .k)

/-- HALT_WAKE (R358): the thread goes on at the next word, where it takes the interrupt if it may, whatever its run count. -/
def execHaltWake (u slot : Nat) (s : State) : Host.Outcome State Fault Refusal :=
  .next (if (s.thread u slot 0).status == .halted && s.interruptPending u slot then
      (if s.interruptible u slot then s.takeInterrupt u slot else s.onThread u slot 0 fun t => { t with status := .ready })
    else s)

/-- INTERRUPT_TAKE (R424): at a run boundary, with IE set, no handler running, at U or K. (logs 44 and 58) -/
def execInterruptTake (u slot : Nat) (s : State) : Host.Outcome State Fault Refusal :=
  let t := s.stripe u slot
  let th := t.lane 0
  .next (if s.interruptible u slot && th.status == .ready && t.wait.isNone && !t.parked && th.run == 0 && (Tab.get (s.core u).quads slot {}).turn.isNone
    then s.takeInterrupt u slot else s)

/-! ## Turns (R139, R141) -/

/-- The quadrant of a stripe (R135); a host core's four threads each have one, a booth core has one (R137, R386). -/
def quadOf (u i : Nat) : Nat :=
  match kindOf u with
  | .host => i
  | .booth => 0
  | _ => i % 4

/-- TURN_GRANT (R141): the slot of a quadrant without a turn goes round to the next stripe with a ready lane. -/
def execTurnGrant (u q : Nat) (s : State) : Host.Outcome State Fault Refusal :=
  let x := Tab.get (s.core u).quads q {}
  .next (if x.turn.isSome || kindOf u == .booth then s
    else
      let order := (List.range 16).map fun k => (x.last + 1 + k) % 16
      match order.find? fun i => quadOf u i == q && s.stripeReady u i with
      | some i => s.grant u q i
      | none => s)

/-! ## World latch and TLB invalidation (R359 to R361, R69) -/

/-- The status of a WLATCH of a unit to a world (R359, R453). -/
def State.latchStatus (s : State) (u w : Nat) : Nat :=
  let known := kindOf u == .simt && (s.coresOf (sliceOf u)).contains u && (match s.partOf u with
    | some p => (s.part p).wmask.getLsbD w
    | none => false)
  if !known then 2 else if s.latchBusy u then 1 else 0

/-- WLATCH (R359): per active lane, on the root core and the function cores; its operands take the modifiers of 32-bit sources (R214, R215); the thread waits for the sequence. (log 43) -/
def execWlatch (f : FmtR) (s : State) : Host.Outcome State Fault Refusal :=
  let go (s : State) : State :=
    match s.active f.hdr with
    | [] => s.finishPlain f.hdr.b
    | low :: rest =>
      let act := low :: rest
      if (s.curThread low).done then s.endStatuses f.hdr act (.answer 4)
      else
        match s.checkSem act fun _ => { srcs := [(f.sa.toNat, f.fa), (f.sb.toNat, f.fb)], dsts := [f.dst.toNat], apply := fun _ t => t } with
        | .error e => s.stopWord noRunAhead e
        | .ok _ =>
          let unit (l : Nat) : Nat := (modBits f.ma ((s.curThread l).reg f.sa.toNat)).toNat % 2 ^ 14
          let world (l : Nat) : Nat := (modBits f.mb ((s.curThread l).reg f.sb.toNat)).toNat % 64
          match act.findSome? fun l => if s.latchStatus (unit l) (world l) = 0 then s.spillWait (unit l) else none with
          | some w => s.blockWord w
          | none =>
            let s := act.foldl (fun s l =>
              let st := s.latchStatus (unit l) (world l)
              let s := if st = 0 then s.startLatch (unit l) (BitVec.ofNat 6 (world l)) (some (s.cur.unit, s.cur.stripe)) else s
              s.onThread s.cur.unit s.cur.stripe l fun t => t.status1 f.dst.toNat st) s
            s.endStatuses f.hdr act (.answer 4)
  .next (match s.curKind with
    | .func => go s
    | .root => go s
    | _ => s.illegal)

/-- Every covered entry of the partition's TLBs goes, and every walk cache of it is emptied (R69, R361). (log 44) -/
def State.invalidate (s : State) (part : Nat) (v : Invalidation) : State :=
  let keep (es : List TlbEntry) : List TlbEntry := es.filter fun e => !v.covers e
  let s := { s with cores := s.cores.map fun e : Nat × Core => if s.partOf e.1 == some part then (e.1, { e.2 with tlb := keep e.2.tlb, quadTlb := e.2.quadTlb.map (fun q : Nat × List TlbEntry => (q.1, keep q.2)), walkAhead := keep e.2.walkAhead, walkCache := [] }) else e }
  (s.part part).members.foldl (fun s m => s.onSlice m.2 fun k => { k with barrows := k.barrows.map (fun (e : Nat × Barrow) => (e.1, { e.2 with tlb := keep e.2.tlb })), walkCache := [] }) s

/-- Accesses of a partition that are not performed: unit and number. (log 44) -/
def State.inFlight (s : State) (part : Nat) : List (Nat × Nat) :=
  s.cores.flatMap fun e => if s.partOf e.1 == some part then (e.2.outq.filter fun a => !a.performed).map fun a => (e.1, a.id) else []

/-- Threads of a partition whose notify waits at a function core: the write of SRC and STAMP is translated already (R349). (log 44) -/
def State.notifiers (s : State) (part : Nat) : List (Nat × Nat × Nat) :=
  s.funcs.flatMap fun f => (f.2.notifies.filter fun n => s.partOf n.unit == some part).map fun n => (n.unit, n.stripe, n.lane)

/-- Something translated before an invalidation is not performed (R69): an access, a commit's log, or the write of a LAUNCH. -/
def State.beforeInval (s : State) (v : Invalidation) : Bool :=
  (v.before.any fun x => (s.core x.1).outq.any fun a => a.id == x.2 && !a.performed)
    || (v.txs.any fun t => s.commits.any fun c => c.id == t)
    || v.notes.any fun x => (s.funcs.any fun f => f.2.notifies.any fun n => (n.unit, n.stripe, n.lane) == x)
      || (s.core x.1).outq.any fun a => a.size == 12 && a.stripe == x.2.1 && a.lane == x.2.2 && !a.performed

/-- TLBINV (R361): once for the word, with the lowest active lane's operands; the thread waits until it completes. -/
def State.tlbinv (s : State) (f : FmtE) (kind : Nat) : State :=
  let go (s : State) : State := s.privWord f.hdr fun s act =>
    let low := (act.head?).getD 0
    if (s.curThread low).done then (if s.waitOver s.cur.unit s.cur.stripe (.answer 3) then s.finishPlain f.hdr.b else s.blockWord (.answer 3))
    else
      let page := [(f.sa.toNat, f.fa), (f.sa.toNat + 1, f.fa)]
      let srcs := match kind with
        | 0 => page ++ [(f.sb.toNat, f.fb)]
        | 1 => [(f.sb.toNat, f.fb)]
        | _ => []
      match s.checkSem [low] fun _ => { srcs := srcs, apply := fun _ t => t } with
      | .error e => s.stopWord noRunAhead e
      | .ok _ =>
        let th := s.curThread low
        let va := if kind = 0 then (th.pair f.sa.toNat).toNat % 2 ^ 52 else 0
        let asid := if kind = 2 then 0 else (th.reg f.sb.toNat).toNat % 4096
        let v : Invalidation :=
          { stripe := s.cur.stripe, lanes := s.cur.lanes, kind := kind, items := [(va, asid)], before := s.inFlight s.curPart,
            txs := (s.commits.filter fun c => s.partOf c.unit == some s.curPart).map Commit.id, notes := s.notifiers s.curPart }
        let s := (s.invalidate s.curPart v).onCore s.cur.unit fun c => { c with invals := c.invals ++ [v] }
        (s.onThread s.cur.unit s.cur.stripe low fun t => { t with done := true }).blockWord (.answer 3)
  match s.curKind with
  | .booth => s.goHome
  | .simt => go s
  | .host => go s
  | _ => s.illegal

/-- TLBINV.page (R361). -/
def execTlbinvPage (f : FmtE) (s : State) : Host.Outcome State Fault Refusal := .next (s.tlbinv f 0)
/-- TLBINV.asid (R361). -/
def execTlbinvAsid (f : FmtE) (s : State) : Host.Outcome State Fault Refusal := .next (s.tlbinv f 1)
/-- TLBINV.all (R361). -/
def execTlbinvAll (f : FmtE) (s : State) : Host.Outcome State Fault Refusal := .next (s.tlbinv f 2)

/-- TLBINV_COMPLETE (R69): everything translated before it has been performed; no covered entry was filled meanwhile (log 44). -/
def execTlbinvComplete (u i : Nat) (s : State) : Host.Outcome State Fault Refusal :=
  .next (match (s.core u).invals.find? fun v => v.stripe == i with
    | none => s
    | some v =>
      if s.beforeInval v then s
      else (s.invalidate ((s.partOf u).getD 0) v).onCore u fun c => { c with invals := c.invals.erase v })

end Sys2Proof.Machine
end

