-- ==== Sys2Proof/Machine/Dispatch.lean ====
section
/-!
DEFINITION. The dispatch of every instruction and event to its meaning, one arm per constructor.
-/
namespace Sys2Proof.Machine

/-- The effect of one instruction or event. -/
def exec (i : Instr) (s : State) : Host.Outcome State Fault Refusal :=
  match i with
  | .iadd f => Sys2Proof.Machine.execIadd f s
  | .iaddI f => Sys2Proof.Machine.execIaddI f s
  | .isub f => Sys2Proof.Machine.execIsub f s
  | .isubI f => Sys2Proof.Machine.execIsubI f s
  | .iaddc f => Sys2Proof.Machine.execIaddc f s
  | .isubb f => Sys2Proof.Machine.execIsubb f s
  | .imul f => Sys2Proof.Machine.execImul f s
  | .imulI f => Sys2Proof.Machine.execImulI f s
  | .imulh f => Sys2Proof.Machine.execImulh f s
  | .imad f => Sys2Proof.Machine.execImad f s
  | .imadw f => Sys2Proof.Machine.execImadw f s
  | .imin f => Sys2Proof.Machine.execImin f s
  | .iminI f => Sys2Proof.Machine.execIminI f s
  | .imax f => Sys2Proof.Machine.execImax f s
  | .imaxI f => Sys2Proof.Machine.execImaxI f s
  | .iabs f => Sys2Proof.Machine.execIabs f s
  | .ineg f => Sys2Proof.Machine.execIneg f s
  | .isat f => Sys2Proof.Machine.execIsat f s
  | .shl f => Sys2Proof.Machine.execShl f s
  | .shlI f => Sys2Proof.Machine.execShlI f s
  | .shr f => Sys2Proof.Machine.execShr f s
  | .shrI f => Sys2Proof.Machine.execShrI f s
  | .shra f => Sys2Proof.Machine.execShra f s
  | .shraI f => Sys2Proof.Machine.execShraI f s
  | .rot f => Sys2Proof.Machine.execRot f s
  | .rotI f => Sys2Proof.Machine.execRotI f s
  | .shw f => Sys2Proof.Machine.execShw f s
  | .and f => Sys2Proof.Machine.execAnd f s
  | .andI f => Sys2Proof.Machine.execAndI f s
  | .or f => Sys2Proof.Machine.execOr f s
  | .orI f => Sys2Proof.Machine.execOrI f s
  | .xor f => Sys2Proof.Machine.execXor f s
  | .xorI f => Sys2Proof.Machine.execXorI f s
  | .andn f => Sys2Proof.Machine.execAndn f s
  | .andnI f => Sys2Proof.Machine.execAndnI f s
  | .lut3 f => Sys2Proof.Machine.execLut3 f s
  | .popc f => Sys2Proof.Machine.execPopc f s
  | .clz f => Sys2Proof.Machine.execClz f s
  | .brev f => Sys2Proof.Machine.execBrev f s
  | .bfx f => Sys2Proof.Machine.execBfx f s
  | .bfi f => Sys2Proof.Machine.execBfi f s
  | .dot4 f => Sys2Proof.Machine.execDot4 f s
  | .dot8 f => Sys2Proof.Machine.execDot8 f s
  | .icmp f => Sys2Proof.Machine.execIcmp f s
  | .icmpI f => Sys2Proof.Machine.execIcmpI f s
  | .sel f => Sys2Proof.Machine.execSel f s
  | .mov f => Sys2Proof.Machine.execMov f s
  | .movi f => Sys2Proof.Machine.execMovi f s
  | .movh f => Sys2Proof.Machine.execMovh f s
  | .lea f => Sys2Proof.Machine.execLea f s
  | .leaI f => Sys2Proof.Machine.execLeaI f s
  | .ptrmk f => Sys2Proof.Machine.execPtrmk f s
  | .ptrfld f => Sys2Proof.Machine.execPtrfld f s
  | .plut f => Sys2Proof.Machine.execPlut f s
  | .fadd f => Sys2Proof.Machine.execFadd f s
  | .fsub f => Sys2Proof.Machine.execFsub f s
  | .fmul f => Sys2Proof.Machine.execFmul f s
  | .ffma f => Sys2Proof.Machine.execFfma f s
  | .fmin f => Sys2Proof.Machine.execFmin f s
  | .fmax f => Sys2Proof.Machine.execFmax f s
  | .frcp f => Sys2Proof.Machine.execFrcp f s
  | .frsq f => Sys2Proof.Machine.execFrsq f s
  | .fsqrt f => Sys2Proof.Machine.execFsqrt f s
  | .fexp2 f => Sys2Proof.Machine.execFexp2 f s
  | .flog2 f => Sys2Proof.Machine.execFlog2 f s
  | .fsin f => Sys2Proof.Machine.execFsin f s
  | .fcos f => Sys2Proof.Machine.execFcos f s
  | .ftanh f => Sys2Proof.Machine.execFtanh f s
  | .fclass f => Sys2Proof.Machine.execFclass f s
  | .fscale f => Sys2Proof.Machine.execFscale f s
  | .fcmp f => Sys2Proof.Machine.execFcmp f s
  | .fdot2 f => Sys2Proof.Machine.execFdot2 f s
  | .fcvt f => Sys2Proof.Machine.execFcvt f s
  | .icvt f => Sys2Proof.Machine.execIcvt f s
  | .fcvti f => Sys2Proof.Machine.execFcvti f s
  | .npack f => Sys2Proof.Machine.execNpack f s
  | .nunpack f => Sys2Proof.Machine.execNunpack f s
  | .dualWord f => Sys2Proof.Machine.execDualWord f s
  | .ld f => Sys2Proof.Machine.execLd f s
  | .ldsx f => Sys2Proof.Machine.execLdsx f s
  | .st f => Sys2Proof.Machine.execSt f s
  | .ldx f => Sys2Proof.Machine.execLdx f s
  | .stx f => Sys2Proof.Machine.execStx f s
  | .ldc f => Sys2Proof.Machine.execLdc f s
  | .pref f => Sys2Proof.Machine.execPref f s
  | .ldRem f => Sys2Proof.Machine.execLdRem f s
  | .amoAdd f => Sys2Proof.Machine.execAmoAdd f s
  | .amoMin f => Sys2Proof.Machine.execAmoMin f s
  | .amoMax f => Sys2Proof.Machine.execAmoMax f s
  | .amoAnd f => Sys2Proof.Machine.execAmoAnd f s
  | .amoOr f => Sys2Proof.Machine.execAmoOr f s
  | .amoXor f => Sys2Proof.Machine.execAmoXor f s
  | .amoExch f => Sys2Proof.Machine.execAmoExch f s
  | .amoFadd f => Sys2Proof.Machine.execAmoFadd f s
  | .fence f => Sys2Proof.Machine.execFence f s
  | .waitc f => Sys2Proof.Machine.execWaitc f s
  | .waitt f => Sys2Proof.Machine.execWaitt f s
  | .rdgtc f => Sys2Proof.Machine.execRdgtc f s
  | .invl1 f => Sys2Proof.Machine.execInvl1 f s
  | .granset f => Sys2Proof.Machine.execGranset f s
  | .granclr f => Sys2Proof.Machine.execGranclr f s
  | .sload f => Sys2Proof.Machine.execSload f s
  | .sstore f => Sys2Proof.Machine.execSstore f s
  | .sgather f => Sys2Proof.Machine.execSgather f s
  | .sscatter f => Sys2Proof.Machine.execSscatter f s
  | .spref f => Sys2Proof.Machine.execSpref f s
  | .bcopy f => Sys2Proof.Machine.execBcopy f s
  | .bfill f => Sys2Proof.Machine.execBfill f s
  | .chsend f => Sys2Proof.Machine.execChsend f s
  | .chsendS f => Sys2Proof.Machine.execChsendS f s
  | .chrecv f => Sys2Proof.Machine.execChrecv f s
  | .chrecvS f => Sys2Proof.Machine.execChrecvS f s
  | .chpoll f => Sys2Proof.Machine.execChpoll f s
  | .takeR f => Sys2Proof.Machine.execTakeR f s
  | .takeS f => Sys2Proof.Machine.execTakeS f s
  | .takeK f => Sys2Proof.Machine.execTakeK f s
  | .giveR f => Sys2Proof.Machine.execGiveR f s
  | .giveS f => Sys2Proof.Machine.execGiveS f s
  | .giveK f => Sys2Proof.Machine.execGiveK f s
  | .mxclaim f => Sys2Proof.Machine.execMxclaim f s
  | .mxfree f => Sys2Proof.Machine.execMxfree f s
  | .mxldb f => Sys2Proof.Machine.execMxldb f s
  | .mxmul f => Sys2Proof.Machine.execMxmul f s
  | .mxdrain f => Sys2Proof.Machine.execMxdrain f s
  | .mxzero f => Sys2Proof.Machine.execMxzero f s
  | .mxsave f => Sys2Proof.Machine.execMxsave f s
  | .mxrest f => Sys2Proof.Machine.execMxrest f s
  | .mxrd f => Sys2Proof.Machine.execMxrd f s
  | .mxwr f => Sys2Proof.Machine.execMxwr f s
  | .txbegin f => Sys2Proof.Machine.execTxbegin f s
  | .txend f => Sys2Proof.Machine.execTxend f s
  | .txendG f => Sys2Proof.Machine.execTxendG f s
  | .txabort f => Sys2Proof.Machine.execTxabort f s
  | .bra f => Sys2Proof.Machine.execBra f s
  | .bru f => Sys2Proof.Machine.execBru f s
  | .brd f => Sys2Proof.Machine.execBrd f s
  | .join f => Sys2Proof.Machine.execJoin f s
  | .brx f => Sys2Proof.Machine.execBrx f s
  | .call f => Sys2Proof.Machine.execCall f s
  | .ret f => Sys2Proof.Machine.execRet f s
  | .exit f => Sys2Proof.Machine.execExit f s
  | .nop f => Sys2Proof.Machine.execNop f s
  | .yield f => Sys2Proof.Machine.execYield f s
  | .gjoin f => Sys2Proof.Machine.execGjoin f s
  | .gleave f => Sys2Proof.Machine.execGleave f s
  | .gvote f => Sys2Proof.Machine.execGvote f s
  | .gshfl f => Sys2Proof.Machine.execGshfl f s
  | .gred f => Sys2Proof.Machine.execGred f s
  | .gelect f => Sys2Proof.Machine.execGelect f s
  | .barinit f => Sys2Proof.Machine.execBarinit f s
  | .bararr f => Sys2Proof.Machine.execBararr f s
  | .barwait f => Sys2Proof.Machine.execBarwait f s
  | .barsync f => Sys2Proof.Machine.execBarsync f s
  | .bardrop f => Sys2Proof.Machine.execBardrop f s
  | .ringinit f => Sys2Proof.Machine.execRinginit f s
  | .rput f => Sys2Proof.Machine.execRput f s
  | .rget f => Sys2Proof.Machine.execRget f s
  | .rfree f => Sys2Proof.Machine.execRfree f s
  | .launch f => Sys2Proof.Machine.execLaunch f s
  | .launchPod f => Sys2Proof.Machine.execLaunchPod f s
  | .fetcht f => Sys2Proof.Machine.execFetcht f s
  | .cancel f => Sys2Proof.Machine.execCancel f s
  | .nodesig f => Sys2Proof.Machine.execNodesig f s
  | .rdsr f => Sys2Proof.Machine.execRdsr f s
  | .wrsr f => Sys2Proof.Machine.execWrsr f s
  | .trap f => Sys2Proof.Machine.execTrap f s
  | .bkpt f => Sys2Proof.Machine.execBkpt f s
  | .eret f => Sys2Proof.Machine.execEret f s
  | .halt f => Sys2Proof.Machine.execHalt f s
  | .wlatch f => Sys2Proof.Machine.execWlatch f s
  | .tlbinvPage f => Sys2Proof.Machine.execTlbinvPage f s
  | .tlbinvAsid f => Sys2Proof.Machine.execTlbinvAsid f s
  | .tlbinvAll f => Sys2Proof.Machine.execTlbinvAll f s
  | .turnGrant a b => Sys2Proof.Machine.execTurnGrant a b s
  | .loadDataReturn a b => Sys2Proof.Machine.execLoadDataReturn a b s
  | .interruptTake a b => Sys2Proof.Machine.execInterruptTake a b s
  | .walkAhead a b => Sys2Proof.Machine.execWalkAhead a b s
  | .tlbinvComplete a b => Sys2Proof.Machine.execTlbinvComplete a b s
  | .stageTransfer a b => Sys2Proof.Machine.execStageTransfer a b s
  | .stageRetire a b => Sys2Proof.Machine.execStageRetire a b s
  | .barrowStart a b => Sys2Proof.Machine.execBarrowStart a b s
  | .barrowTransfer a b => Sys2Proof.Machine.execBarrowTransfer a b s
  | .barrowRetire a b => Sys2Proof.Machine.execBarrowRetire a b s
  | .podRetireReport a b c => Sys2Proof.Machine.execPodRetireReport a b c s
  | .mxldbPerform a => Sys2Proof.Machine.execMxldbPerform a s
  | .mxmulKstep a => Sys2Proof.Machine.execMxmulKstep a s
  | .matrixOpPerform a => Sys2Proof.Machine.execMatrixOpPerform a s
  | .drainApply a => Sys2Proof.Machine.execDrainApply a s
  | .drainRetire a => Sys2Proof.Machine.execDrainRetire a s
  | .matrixClaimRelease a => Sys2Proof.Machine.execMatrixClaimRelease a s
  | .gangRendezvousComplete a b => Sys2Proof.Machine.execGangRendezvousComplete a b s
  | .takeGrant a b => Sys2Proof.Machine.execTakeGrant a b s
  | .bankClearDone a b => Sys2Proof.Machine.execBankClearDone a b s
  | .bankReturn a b => Sys2Proof.Machine.execBankReturn a b s
  | .granuleAccess a b c => Sys2Proof.Machine.execGranuleAccess a b c s
  | .channelSlotFull a b => Sys2Proof.Machine.execChannelSlotFull a b s
  | .channelCreditReturn a b => Sys2Proof.Machine.execChannelCreditReturn a b s
  | .promotionRequest a b => Sys2Proof.Machine.execPromotionRequest a b s
  | .promotionAck a b => Sys2Proof.Machine.execPromotionAck a b s
  | .txPrepare a b => Sys2Proof.Machine.execTxPrepare a b s
  | .txDecide a => Sys2Proof.Machine.execTxDecide a s
  | .txCommitWrite a b => Sys2Proof.Machine.execTxCommitWrite a b s
  | .txSingleBankCommit a => Sys2Proof.Machine.execTxSingleBankCommit a s
  | .ejectHandoverDone a b => Sys2Proof.Machine.execEjectHandoverDone a b s
  | .boothTurn a => Sys2Proof.Machine.execBoothTurn a s
  | .boothReturn a b => Sys2Proof.Machine.execBoothReturn a b s
  | .repatriate a b => Sys2Proof.Machine.execRepatriate a b s
  | .boothTimeLimit a b => Sys2Proof.Machine.execBoothTimeLimit a b s
  | .handBackDone a b => Sys2Proof.Machine.execHandBackDone a b s
  | .waittWake a b => Sys2Proof.Machine.execWaittWake a b s
  | .haltWake a b => Sys2Proof.Machine.execHaltWake a b s
  | .accessPerformed a b => Sys2Proof.Machine.execAccessPerformed a b s
  | .fillArrival a b => Sys2Proof.Machine.execFillArrival a b s
  | .bypassedRead a b => Sys2Proof.Machine.execBypassedRead a b s
  | .lineWriteBack a => Sys2Proof.Machine.execLineWriteBack a s
  | .frameRelease a b => Sys2Proof.Machine.execFrameRelease a b s
  | .packetArbitrate a => Sys2Proof.Machine.execPacketArbitrate a s
  | .negativeResponse a b => Sys2Proof.Machine.execNegativeResponse a b s
  | .firewallDrainEnd a => Sys2Proof.Machine.execFirewallDrainEnd a s
  | .faultRecordPost a => Sys2Proof.Machine.execFaultRecordPost a s
  | .faultQueueFlush a => Sys2Proof.Machine.execFaultQueueFlush a s
  | .launchNotifyAccept a => Sys2Proof.Machine.execLaunchNotifyAccept a s
  | .placementDecision a => Sys2Proof.Machine.execPlacementDecision a s
  | .headAgeing a b => Sys2Proof.Machine.execHeadAgeing a b s
  | .paramFetch a b => Sys2Proof.Machine.execParamFetch a b s
  | .chunkRequest a b => Sys2Proof.Machine.execChunkRequest a b s
  | .launchComplete a => Sys2Proof.Machine.execLaunchComplete a s
  | .preemptRequeue a => Sys2Proof.Machine.execPreemptRequeue a s
  | .cancelEffect a => Sys2Proof.Machine.execCancelEffect a s
  | .quantExpiry a => Sys2Proof.Machine.execQuantExpiry a s
  | .contextSave a => Sys2Proof.Machine.execContextSave a s
  | .fnrstEnd a => Sys2Proof.Machine.execFnrstEnd a s
  | .wlatchComplete a => Sys2Proof.Machine.execWlatchComplete a s
  | .podRecordAppend a => Sys2Proof.Machine.execPodRecordAppend a s
  | .podChunkRequest a b => Sys2Proof.Machine.execPodChunkRequest a b s
  | .podComplete a => Sys2Proof.Machine.execPodComplete a s
  | .dispenseStart a => Sys2Proof.Machine.execDispenseStart a s
  | .functionCoreRestart a => Sys2Proof.Machine.execFunctionCoreRestart a s
  | .functionCoreCrash a b c => Sys2Proof.Machine.execFunctionCoreCrash a b c s
  | .rootCoreCrash a b => Sys2Proof.Machine.execRootCoreCrash a b s
  | .rootCoreRestart => Sys2Proof.Machine.execRootCoreRestart s
  | .migrateUnit a => Sys2Proof.Machine.execMigrateUnit a s
  | .bootRetry a => Sys2Proof.Machine.execBootRetry a s
  | .mcfrel a b c => Sys2Proof.Machine.execMcfrel a b c s
  | .pfres a b => Sys2Proof.Machine.execPfres a b s
  | .engresResume a b c => Sys2Proof.Machine.execEngresResume a b c s
  | .engresPoison a b c => Sys2Proof.Machine.execEngresPoison a b c s
  | .sramUncorrectable a b => Sys2Proof.Machine.execSramUncorrectable a b s
  | .boothFailure a => Sys2Proof.Machine.execBoothFailure a s
  | .pseudoChannelFailure a b c => Sys2Proof.Machine.execPseudoChannelFailure a b c s
  | .fwctlWrite a b => Sys2Proof.Machine.execFwctlWrite a b s
  | .registerWrite a b c d => Sys2Proof.Machine.execRegisterWrite a b c d s
  | .nodeWrite a b c => Sys2Proof.Machine.execNodeWrite a b c s
  | .lpreQueue a b => Sys2Proof.Machine.execLpreQueue a b s
  | .lpreAll a => Sys2Proof.Machine.execLpreAll a s
  | .fnrst a => Sys2Proof.Machine.execFnrst a s
  | .crierDeliver a => Sys2Proof.Machine.execCrierDeliver a s
  | .podMemberReport a b c => Sys2Proof.Machine.execPodMemberReport a b c s
  | .podMemberLost a b => Sys2Proof.Machine.execPodMemberLost a b s
  | .podDispatcherSilent a => Sys2Proof.Machine.execPodDispatcherSilent a s
  | .podCancel a b c => Sys2Proof.Machine.execPodCancel a b c s
  | .powerOn a => Sys2Proof.Machine.execPowerOn a s
  | .manifestApply a => Sys2Proof.Machine.execManifestApply a s
  | .partitionReset a => Sys2Proof.Machine.execPartitionReset a s
  | .networkBoot a b => Sys2Proof.Machine.execNetworkBoot a b s
  | .resizeRemove a b => Sys2Proof.Machine.execResizeRemove a b s
  | .resizeAdd a b => Sys2Proof.Machine.execResizeAdd a b s
  | .keyset a => Sys2Proof.Machine.execKeyset a s
  | .keyclr a => Sys2Proof.Machine.execKeyclr a s
  | .attest a => Sys2Proof.Machine.execAttest a s
  | .meter a => Sys2Proof.Machine.execMeter a s
  | .health a => Sys2Proof.Machine.execHealth a s
  | .hcstart a => Sys2Proof.Machine.execHcstart a s
  | .winexp a => Sys2Proof.Machine.execWinexp a s
  | .strkey a => Sys2Proof.Machine.execStrkey a s
  | .rotWatchdog a => Sys2Proof.Machine.execRotWatchdog a s
  | .meterAppend a b => Sys2Proof.Machine.execMeterAppend a b s
  | .unitFailure a => Sys2Proof.Machine.execUnitFailure a s
  | .podConfiguration a => Sys2Proof.Machine.execPodConfiguration a s
  | .flitReceive a b => Sys2Proof.Machine.execFlitReceive a b s
  | .linkKeyAgree a b => Sys2Proof.Machine.execLinkKeyAgree a b s
  | .podJoin a => Sys2Proof.Machine.execPodJoin a s
  | .timeExchange a => Sys2Proof.Machine.execTimeExchange a s
  | .tierPortFailure a => Sys2Proof.Machine.execTierPortFailure a s
  | .spdmGetVersion => Sys2Proof.Machine.execSpdmGetVersion s
  | .spdmGetCapabilities => Sys2Proof.Machine.execSpdmGetCapabilities s
  | .spdmNegotiateAlgorithms => Sys2Proof.Machine.execSpdmNegotiateAlgorithms s
  | .spdmGetMeasurements a b => Sys2Proof.Machine.execSpdmGetMeasurements a b s
  | .spdmUnsupported => Sys2Proof.Machine.execSpdmUnsupported s
  | .mgmtReadCrashRecords => Sys2Proof.Machine.execMgmtReadCrashRecords s
  | .mgmtReadHealthLog => Sys2Proof.Machine.execMgmtReadHealthLog s
  | .mgmtReadMeteringLog a => Sys2Proof.Machine.execMgmtReadMeteringLog a s
  | .mgmtBootStageReport => Sys2Proof.Machine.execMgmtBootStageReport s

end Sys2Proof.Machine
end

