-- ==== Sys2Proof/Machine/Schedule.lean ====
section
/-!
DEFINITION. The schedule where the environment names none (log 3), the errors it may name, the placing of a word, and what follows every step.
-/
namespace Sys2Proof.Machine

/-- The cores, from one that moves with the GTC, so that no core always comes first. -/
def State.ring (s : State) : Tab Core :=
  let k := s.gtc % s.cores.length
  s.cores.drop k ++ s.cores.take k

/-- The first open group of any quadrant: group A, then group B, in each clk (R139). -/
def State.openTurn (s : State) : Option (Nat × Nat × Bool) :=
  s.ring.findSome? fun (u, c) => c.quads.findSome? fun (q, x) =>
    match x.turn with
    | none => none
    | some t => if t.a ≠ 0 ∧ t.mayIssue false then some (u, q, false) else if t.b ≠ 0 then some (u, q, true) else none

/-- The group that issues next without an agenda: the focus while it is open, else the first open group. (log 3) -/
def State.nextIssue (s : State) : Option (Nat × Nat × Bool) :=
  match s.focus with
  | some (u, q, b) => if (s.openGroup u q b).isSome then some (u, q, b) else s.openTurn
  | none => s.openTurn

/-- The events of a core that its state may call for. The operations of a stripe whose team has exited go on (R106). -/
def coreEvents (u : Nat) (c : Core) : List Instr :=
  c.stripes.flatMap (fun e => [.waittWake u e.1, .promotionRequest u e.1, .promotionAck u e.1, .tlbinvComplete u e.1])
    ++ (c.stage.map (·.stripe)).eraseDups.flatMap (fun i => [.stageTransfer u i, .stageRetire u i, .walkAhead u i])
    ++ c.outq.flatMap (fun a => [.negativeResponse u a.id, .accessPerformed u a.id, .loadDataReturn u a.id])
    ++ (if c.matrix.queue.isEmpty && c.matrix.drain.isEmpty then []
        else [.mxldbPerform u, .mxmulKstep u, .matrixOpPerform u, .drainApply u, .drainRetire u, .matrixClaimRelease u])
    ++ c.gangs.map (fun e => .gangRendezvousComplete u e.1) ++ c.takes.map (fun t => .takeGrant u t.kind)
    ++ c.clearing.map (.bankClearDone u) ++ c.leaving.map (.bankReturn u)
    ++ c.chans.flatMap (fun e => [.channelSlotFull u e.1, .channelCreditReturn u e.1])
    ++ c.guests.flatMap (fun e => [.ejectHandoverDone u e.1, .boothTimeLimit u e.1, .boothReturn u e.1, .repatriate u e.1, .handBackDone u e.1])
    ++ [.wlatchComplete u, .quantExpiry u, .contextSave u]
    ++ (match kindOf u with
        | .host => [.haltWake u 0, .haltWake u 1, .haltWake u 2, .haltWake u 3, .interruptTake u 0, .interruptTake u 1, .interruptTake u 2, .interruptTake u 3]
        | _ => [])

/-- The turns that a core may grant. -/
def turnEvents (u : Nat) : List Instr :=
  match kindOf u with
  | .booth => [.boothTurn u]
  | _ => [.turnGrant u 0, .turnGrant u 1, .turnGrant u 2, .turnGrant u 3]

/-- The events of a slice, a cache bank, a partition, a function or a launch that its state may call for. -/
def sliceEvents (sl : Nat) (x : Slice) : List Instr :=
  x.releases.map (fun r => .frameRelease sl r.1) ++ [.firewallDrainEnd sl]
    ++ x.barrows.flatMap (fun e => [.barrowStart sl e.1, .barrowTransfer sl e.1, .barrowRetire sl e.1] ++ e.2.ops.map fun o => .podRetireReport sl e.1 o.tag)
@[inherit_doc sliceEvents]
def bankEvents (b : Nat) (x : Bank) : List Instr :=
  x.misses.map (fun m => .fillArrival b m.line) ++ x.bypassed.zipIdx.map (fun e => .bypassedRead b e.2) ++ x.wbuf.map fun _ => .lineWriteBack b
@[inherit_doc sliceEvents]
def partEvents (p : Nat) (x : Partition) : List Instr :=
  x.fq.held.map (fun _ => .faultQueueFlush p) ++ x.fq.made.map (fun _ => .faultRecordPost p) ++ [.bootRetry p, .migrateUnit p, .placementDecision p]
@[inherit_doc sliceEvents]
def funcEvents (f : Nat) (x : Function) : List Instr :=
  [.functionCoreRestart f, .fnrstEnd f] ++ x.notifies.map (fun _ => .launchNotifyAccept f) ++ x.queues.flatMap fun e => [.paramFetch f e.1, .headAgeing f e.1]
@[inherit_doc sliceEvents]
def launchEvents (k : Nat) (slices : List Nat) : List Instr :=
  [.cancelEffect k, .dispenseStart k] ++ slices.map (.chunkRequest k) ++ [.preemptRequeue k, .launchComplete k]

/-- The events of a commit in progress (R322, R324). -/
def commitEvents (c : Commit) : List Instr :=
  .txSingleBankCommit c.id :: c.entries.map (fun e => .txPrepare c.id e.1) ++ .txDecide c.id :: c.entries.map fun e => .txCommitWrite c.id e.1

/-- The events of the pod that this package's state may call for. -/
def podEvents (package : Nat) (p : Pod) : List Instr :=
  p.inbox.zipIdx.map (fun e => .podRecordAppend e.2) ++ p.launches.flatMap fun e => [.podChunkRequest e.1 package, .podComplete e.1]

/-- The machine's own events that may be due, the turns last. An event that is not due leaves the state as it is, so step takes the first that changes it. (log 3) -/
def State.mayDo (s : State) : List Instr :=
  s.ports.map (fun e => .packetArbitrate e.1) ++ s.granq.map (fun g => .granuleAccess g.unit g.stripe g.lane)
    ++ s.banks.flatMap (fun e => bankEvents e.1 e.2) ++ s.ring.flatMap (fun e => coreEvents e.1 e.2) ++ s.commits.flatMap commitEvents
    ++ s.slices.flatMap (fun e => sliceEvents e.1 e.2) ++ s.parts.flatMap (fun e => partEvents e.1 e.2) ++ s.funcs.flatMap (fun e => funcEvents e.1 e.2)
    ++ s.launches.flatMap (fun e => launchEvents e.1 (s.slices.map (·.1))) ++ podEvents s.packageIdx s.pod ++ [.rootCoreRestart]
    ++ s.ring.flatMap fun e => turnEvents e.1

/-- An uncorrectable error of a line lies in wait for its next read (R51). (logs 13 and 31) -/
def State.lineError (s : State) (sl line : Nat) (mac : Bool) : State := { s with latent := Tab.set s.latent (2 ^ 28 * sl + line) (if mac then .mac else .ecc) }

/-- An integrity-tree node of a level is lost: every frame under it is integrity-lost, and each owned frame's kernel gets a record in ascending frame order (R52, R54). (log 47) -/
def State.treeError (s : State) (sl lvl fr : Nat) : State :=
  let n := 8 ^ (lvl - 1)
  let first := fr / n * n
  (List.range (min n (sliceFrames - first))).foldl (fun s i =>
    let k := 2 ^ 22 * sl + (first + i)
    let above : Bool := ((s.frame k).lost.map fun l => decide (lvl ≤ l.2)).getD false
    let s := if above then s else s.onFrame k fun f => { f with lost := some (s.gtc, lvl), released := false }
    match (s.frame k).owner, (s.slice sl).part with
    | some key, some p =>
      s.post p
        { stamp := s.gtc, src := s.src (0x1100 + sl), cause := 0x13, dcode := 0x1B, world := (s.keySlot sl key).world.toNat,
          addr := s.paOf p sl ((first + i) * 8192), det := [BitVec.ofNat 32 lvl, BitVec.ofNat 32 s.gtc, BitVec.ofNat 32 (s.gtc / 2 ^ 32)] }
    | _, _ => s.noteFree sl ((first + i) * 64)) s

/-- A 64-bit word stored for the group that issues next: partition 0 of slice 0, a one-stripe team on core 0 of unit 0, the page of its PC mapped to frame 1,024 (log 11). -/
def State.place (s : State) (bs : List Byte) : State :=
  let pc := ((s.thread 0 0 0).pc.toNat / 8) * 8
  let leaf : BitVec 64 := BitVec.ofNat 64 (2 ^ 63 + 2 ^ 62 + 1024 * 8192 + 0xFC0)
  let s := s.onSlice 0 fun k => { k with fwctl := BitVec.ofNat 64 (2 ^ 32 + 256), keys := Tab.modify k.keys 0 {} fun x => { x with valid := true, weight := false, world := 0 } }
  let s := s.onPart 0 fun p => { p with valid := true, members := [(0, 0)], gone := none, migwm := 0 }
  let s := s.onCore 0 fun c =>
    { c with ptb := 0x1000, world := 0, latching := none, failed := false, team := some (c.team.getD { launch := 0, stripes := 1 }),
             tlb := c.tlb ++ [{ vpn := pc / 8192, level := 0, asid := 0, leaf := leaf }],
             quads := Tab.modify c.quads 0 {} fun q => { q with turn := some { stripe := 0, a := 1, b := 0 } } }
  let s := s.onThread 0 0 0 fun t => { t with status := .ready, pc := BitVec.ofNat 52 pc, run := 0 }
  let s := s.onFrame (frameKey 0 (1024 * 8192)) fun _ => { owner := some 0 }
  let s := s.setPoison (lineKey 0 (1024 * 8192 + pc % 8192)) 0
  { s with agenda := [], focus := some (0, 0, false), latent := [], mem := bytesSet s.mem (memKey 0 (1024 * 8192 + pc % 8192)) bs }

/-- What follows every step: the window's stores take effect, teams whose threads are gone have exited, claims and heads without users are given up, guests whose time has come are marked. -/
def State.settle (s : State) : State :=
  let s := s.settleRegs.settleTeams
  (s.cores.foldl (fun s e => s.settleClaim e.1) s).settleLaunches.settleGuests

end Sys2Proof.Machine
end

