-- ==== Sys2Proof/Machine/Step.lean ====
section
/-!
DEFINITION. One step of the package: the agenda's head, or the group that issues, or a pending event, or one tick.
-/
namespace Sys2Proof.Machine

/-- The end of a step: what follows it, and the stop when the GTC would wrap (R22). (log 19) -/
def State.stepDone (s : State) : Host.Outcome State Fault Refusal :=
  let t := s.settle
  if t.wrapped then .fault .gtcWrap else .next t

/-- The end of an event. -/
def afterEvent (r : Host.Outcome State Fault Refusal) : Host.Outcome State Fault Refusal :=
  match r with
  | .next s => s.stepDone
  | .fault f => .fault f
  | .refused f => .refused f

/-- The end of a word of a number of clk (R274). -/
def afterWord (clk : Nat) (r : Host.Outcome State Fault Refusal) : Host.Outcome State Fault Refusal :=
  match r with
  | .next s => (s.clk clk).stepDone
  | .fault f => .fault f
  | .refused f => .refused f

/-- A group issues its next word. -/
def issueStep (s : State) (u q : Nat) (groupB : Bool) : Host.Outcome State Fault Refusal :=
  match s.issue u q groupB with
  | .idle => s.stepDone
  | .stopped t => (t.clk 1).stepDone
  | .word t i => afterWord (wordClk i) (exec i t)

/-- One item of the agenda. -/
def runAgendum (a : Agendum) (s : State) : Host.Outcome State Fault Refusal :=
  match a with
  | .event i => afterEvent (exec i s)
  | .issue u q b => issueStep s u q b
  | .ticks n => (s.tick n).stepDone
  | .lineError sl line mac => (s.lineError sl line mac).stepDone
  | .treeError sl lvl fr => (s.treeError sl lvl fr).stepDone
  | .firmwareBarrow sl e fill b => (s.firmwareBarrow sl e fill b).stepDone
  | .peerAnswer p => ({ s with pod := { s.pod with responses := s.pod.responses ++ [p] } } : State).stepDone

/-- An event changes the state, or stops. -/
def State.isDue (s : State) (i : Instr) : Bool :=
  match exec i s with
  | .next t => t != s
  | _ => true

/-- The machine's own event that comes next without an agenda, if one is due. (log 3) -/
def State.nextEvent (s : State) : Option Instr := s.mayDo.find? s.isDue

/-- One step. (log 3) -/
def step (s : State) : Host.Outcome State Fault Refusal :=
  match s.agenda with
  | a :: rest => runAgendum a { s with agenda := rest }
  | [] =>
    match s.nextIssue with
    | some (u, q, b) => issueStep s u q b
    | none =>
      match s.nextEvent with
      | some i => afterEvent (exec i s)
      | none => (s.tick 1).stepDone

/-- The instruction in the low nbits of w is placed where step fetches next, with all that its fetch needs (log 11). -/
def State.withFetchWord (s : State) (nbits w : Nat) : State := s.place (leBytes 8 (w % 2 ^ nbits))

end Sys2Proof.Machine
end

