-- ==== Sys2Proof/Safety.lean ====
section
/-!
DEFINITION. The terms that statements use: operands that are ready, what a word leaves alone, and the invariants of the machine.
-/
namespace Sys2Proof.Machine

/-- Every register of the list may be named by every one of these lanes of the issuing stripe and is full there (R150, R153, R388). -/
def State.LanesReady (s : State) (lanes rs : List Nat) : Prop :=
  ∀ l ∈ lanes, ∀ r ∈ rs,
    (if s.curKind = .booth then r < 32 else (s.curThread l).mapped s.curKind r = true) ∧ (s.curThread l).empty.getLsbD r = false

/-- The registers are ready in every active lane of the issuing word. -/
abbrev State.RegsReady (s : State) (h : Hdr) (rs : List Nat) : Prop := s.LanesReady (s.active h) rs

/-- No byte of memory and no byte of any scratchpad has changed. -/
def BytesKept (s t : State) : Prop :=
  (∀ a, bytesAt t.mem a = bytesAt s.mem a) ∧ ∀ u a, bytesAt (t.core u).sram a = bytesAt (s.core u).sram a

/-- Only lanes of the issuing group, what their stripe shares and the turn of their quadrant may differ: every other lane, stripe, core and unit, every special register of the core and every byte is as before. -/
structure GroupOnly (s t : State) : Prop where
  rest    : { t with cores := s.cores } = s
  cores   : ∀ u, u ≠ s.cur.unit → t.core u = s.core u
  core    : { t.core s.cur.unit with stripes := [], quads := [] } = { s.core s.cur.unit with stripes := [], quads := [] }
  stripes : ∀ i, i ≠ s.cur.stripe → t.stripe s.cur.unit i = s.stripe s.cur.unit i
  lanes   : ∀ l, l < 32 → s.cur.lanes.getLsbD l = false → t.curThread l = s.curThread l
  bytes   : BytesKept s t

/-- The word is over for its group (R138, R139): each lane l of the group is f l of what it was; a word with B = 0 leaves the turn as it is, and the stripe keeps everything but, at the end of a run, serial mode. -/
structure LaneEffect (s t : State) (b : Bool) (f : Nat → Thread → Thread) : Prop where
  only   : GroupOnly s t
  group  : ∀ l, l < 32 → s.cur.lanes.getLsbD l = true → t.curThread l = f l (s.curThread l)
  stripe : { t.curStripe with lanes := [], serial := false } = { s.curStripe with lanes := [], serial := false }
  run    : b = false → t.curStripe.serial = s.curStripe.serial ∧ (t.core s.cur.unit).quads = (s.core s.cur.unit).quads

/-- A lane after a word of the header: f where the guard holds, then on to the next word (R212). -/
def laneAfter (h : Hdr) (f : Thread → Thread) (t : Thread) : Thread := (if guardVal h t.preds then f t else t).advance h.b

/-- The word of the header has had the effect f on every active lane and on nothing else. -/
def State.Did (s : State) (i : Instr) (h : Hdr) (f : Thread → Thread) : Prop :=
  ∃ t, exec i s = .next t ∧ LaneEffect s t h.b fun _ => laneAfter h f

/-- A core without its threads and turns, its scratchpad, its caches and translations, and its queues of accesses and engine operations: every special register, counter, accumulator and unit that is left. -/
def Core.still (c : Core) : Core :=
  { c with stripes := [], quads := [], sram := [], fbits := [], pbits := [], lines := [], consts := [], tlb := [], quadTlb := [], walkAhead := [], walkCache := [], outq := [], nextId := 0,
           stage := [], matrix := { c.matrix with queue := [], drain := [] } }

/-- The scratchpads are as before: bytes, F bits and P bits. -/
def SpadKept (s t : State) : Prop := ∀ u, (t.core u).sram = (s.core u).sram ∧ (t.core u).fbits = (s.core u).fbits ∧ (t.core u).pbits = (s.core u).pbits

/-- Every byte of memory is as before. -/
def MemKept (s t : State) : Prop := ∀ a, bytesAt t.mem a = bytesAt s.mem a

/-- Every byte of memory is as before, or is zero in a granule that is poisoned: the write-back of a line zeroes those (R51). -/
def MemSound (s t : State) : Prop := ∀ a, bytesAt t.mem a = bytesAt s.mem a ∨ (bytesAt t.mem a = 0 ∧ (t.poisonOf (a / 128)).getLsbD (a / 16 % 8) = true)

/-- A word that reaches memory is over for its group: each lane l of it is f l of what it was; every other thread, and what Core.still keeps of every core, is as before. -/
structure WordOver (s t : State) (f : Nat → Thread → Thread) : Prop where
  lanes  : ∀ l, l < 32 → t.curThread l = if s.cur.lanes.getLsbD l then f l (s.curThread l) else s.curThread l
  others : ∀ u i l, u ≠ s.cur.unit ∨ i ≠ s.cur.stripe → t.thread u i l = s.thread u i l
  still  : ∀ u, (t.core u).still = (s.core u).still

/-- What holds between steps: the GTC is a 64-bit count (R22), no store to the control window waits (R444), and a matrix engine is claimed only by a gang that has a member (R179). -/
structure State.Inv (s : State) : Prop where
  gtc    : s.gtc < 2 ^ 64
  stores : s.regWrites = []
  claims : ∀ u g, (s.core u).matrix.claim = some g → (s.core u).members g ≠ []

end Sys2Proof.Machine
end

