-- ==== Sys2Proof/Certificates/Slice0/Obligations.lean ====
section
/-!
DEFINITION. The statements about the model. Helpers stand in Sys2Proof.Slice0; each statement is one definition Obligations.<Name>.
-/
namespace Sys2Proof.Slice0
open Sys2Proof.Machine

/-! ## Operands of compute words -/

/-- The first source of a word after its modifier (R214). -/
def opA (f : FmtR) (ty : Nat) (t : Thread) : Word := modify f.ma ty (t.reg f.sa.toNat)
/-- The second source of a word after its modifier (R214). -/
def opB (f : FmtR) (ty : Nat) (t : Thread) : Word := modify f.mb ty (t.reg f.sb.toNat)

/-- Every element of r is the operation on the elements of a and b, read by the type and wrapped to its width (R272, R275). -/
def Elements (ty : Nat) (op : Int → Int → Int) (a b r : Word) : Prop :=
  ∀ i, i < 32 / tyWidth ty →
    elem r (tyWidth ty) i = wrapNat (op (elemInt ty (elem a (tyWidth ty) i)) (elemInt ty (elem b (tyWidth ty) i))) (tyWidth ty)

/-- The clamp of ISAT to the type's range (R275). -/
def saturate (ty : Nat) (x : Int) : Int :=
  if tySigned ty then clampInt x (-(2 ^ (tyWidth ty - 1))) (2 ^ (tyWidth ty - 1) - 1) else clampInt x 0 (2 ^ tyWidth ty - 1)

/-- The two-source integer words with the operation on two elements (R275). -/
def integerWords : List ((FmtR → Instr) × (FmtR → Int → Int → Int)) :=
  [(.iadd, fun _ a b => a + b), (.isub, fun _ a b => a - b), (.imul, fun _ a b => a * b),
   (.imin, fun _ a b => if a ≤ b then a else b), (.imax, fun _ a b => if a ≤ b then b else a),
   (.isat, fun f a b => saturate f.ty.toNat (if f.q = 1 then a - b else a + b))]

/-- The one-source integer words (R275). -/
def integerUnary : List ((FmtR → Instr) × (Int → Int)) := [(.iabs, fun a => a.natAbs), (.ineg, fun a => -a)]

/-- The I forms of the two-source integer words (R276). -/
def integerWordsI : List ((FmtI → Instr) × (Int → Int → Int)) :=
  [(.iaddI, fun a b => a + b), (.isubI, fun a b => a - b), (.imulI, fun a b => a * b),
   (.iminI, fun a b => if a ≤ b then a else b), (.imaxI, fun a b => if a ≤ b then b else a)]

end Sys2Proof.Slice0

open Sys2Proof Sys2Proof.Machine Sys2Proof.Slice0

namespace Sys2Proof.Slice0
open Sys2Proof.Machine

/-- The carry-in that SC names: 7 is none (R277). -/
def carryOf (f : FmtR) (t : Thread) : Nat := if f.sc.toNat % 8 = 7 then 0 else if predGet t.preds (f.sc.toNat % 8) then 1 else 0

/-- The sum of a dot product with its accumulator (R278). -/
def dotSum (f : FmtR) (w : Nat) (t : Thread) : Int :=
  sext (t.reg f.sc.toNat).toNat 32 + ((List.range (32 / w)).map fun i =>
    elemInt f.ty.toNat (elem (opA f f.ty.toNat t) w i) *
      (if f.q.getLsbD 0 then sext (elem (opB f f.ty.toNat t) w i) w else (elem (opB f f.ty.toNat t) w i : Int))).sum

/-- One element of width w shifted or rotated by a count (R279). -/
def Shifted (op : ShiftOp) (w x n r : Nat) : Prop :=
  match op with
  | .shl => r = if n < w then x * 2 ^ n % 2 ^ w else 0
  | .shr => r = if n < w then x / 2 ^ n else 0
  | .shra => r = wrapNat (sext x w / 2 ^ (min n w)) w
  | .rot => ∀ k, k < w → r.testBit ((k + n) % w) = x.testBit k

/-- Every element of r is the element of a shifted by the element of b (R279). -/
def ShiftedElements (op : ShiftOp) (ty : Nat) (a b r : Word) : Prop :=
  ∀ i, i < 32 / tyWidth ty → Shifted op (tyWidth ty) (elem a (tyWidth ty) i) (elem b (tyWidth ty) i) (elem r (tyWidth ty) i)

/-- The shifts with their I forms (R279). -/
def shiftWords : List (ShiftOp × (FmtR → Instr) × (FmtI → Instr)) :=
  [(.shl, .shl, .shlI), (.shr, .shr, .shrI), (.shra, .shra, .shraI), (.rot, .rot, .rotI)]

/-- The bitwise words with their I forms and the operation on one bit (R281). -/
def logicWords : List ((FmtR → Instr) × (FmtI → Instr) × (Bool → Bool → Bool)) :=
  [(.and, .andI, (· && ·)), (.or, .orI, (· || ·)), (.xor, .xorI, (· != ·)), (.andn, .andnI, fun a b => a && !b)]

/-- The condition of a compare (R207, R284): signed under .i32, unsigned under .n32. -/
def condition (q ty : Nat) (a b : Word) : Bool :=
  let x : Int := if ty = 0 then a.toInt else a.toNat
  let y : Int := if ty = 0 then b.toInt else b.toNat
  match q with
  | 0 => decide (x = y)
  | 1 => decide (x ≠ y)
  | 2 => decide (x < y)
  | 3 => decide (x ≤ y)
  | 4 => decide (x > y)
  | _ => decide (x ≥ y)

end Sys2Proof.Slice0

open Sys2Proof Sys2Proof.Machine Sys2Proof.Slice0

/-- IMULH, IMAD, IMADW, DOT4 and DOT8 compute the products and sums of R275 and R278. IADD, ISUB, IMUL, IMIN, IMAX, ISAT, IABS and INEG compute per element, their I forms with the sign-extended immediate; the result goes to gD of every active lane and nothing else changes (R212, R272, R275, R276). IADDC and ISUBB write the sum or difference and the carry or borrow (R277). -/
def Obligations.IntegerWordsCompute : Prop :=
  (
  (∀ (f : FmtR) (s : State), f.ty.toNat ≤ 1 → s.RegsReady f.hdr [f.sa.toNat, f.sb.toNat, f.dst.toNat] →
    s.Did (.imulh f) f.hdr fun t => t.setReg f.dst.toNat (BitVec.ofInt 32
      (elemInt f.ty.toNat (opA f f.ty.toNat t).toNat * elemInt f.ty.toNat (opB f f.ty.toNat t).toNat / 2 ^ 32))) ∧
  (∀ (f : FmtR) (s : State), s.RegsReady f.hdr [f.sa.toNat, f.sb.toNat, f.sc.toNat, f.dst.toNat] →
    ∃ v : Thread → Word, (∀ t i, i < 32 / tyWidth f.ty.toNat → elem (v t) (tyWidth f.ty.toNat) i = wrapNat
        (elemInt f.ty.toNat (elem (opA f f.ty.toNat t) (tyWidth f.ty.toNat) i) * elemInt f.ty.toNat (elem (opB f f.ty.toNat t) (tyWidth f.ty.toNat) i)
          + elemInt f.ty.toNat (elem (t.reg f.sc.toNat) (tyWidth f.ty.toNat) i)) (tyWidth f.ty.toNat)) ∧
      s.Did (.imad f) f.hdr fun t => t.setReg f.dst.toNat (v t)) ∧
  (∀ (f : FmtR) (s : State), f.ty.toNat ≤ 1 → s.RegsReady f.hdr [f.sa.toNat, f.sb.toNat, f.sc.toNat, f.sc.toNat + 1, f.dst.toNat, f.dst.toNat + 1] →
    s.Did (.imadw f) f.hdr fun t => t.setPair f.dst.toNat (BitVec.ofInt 64
      (elemInt f.ty.toNat (opA f f.ty.toNat t).toNat * elemInt f.ty.toNat (opB f f.ty.toNat t).toNat) + t.pair f.sc.toNat)) ∧
  (∀ p ∈ [(Instr.dot4, 8), (Instr.dot8, 4)], ∀ (f : FmtR) (s : State), s.RegsReady f.hdr [f.sa.toNat, f.sb.toNat, f.sc.toNat, f.dst.toNat] →
    s.Did (p.1 f) f.hdr fun t => t.setReg f.dst.toNat (BitVec.ofInt 32
      (if f.q.getLsbD 1 then clampInt (dotSum f p.2 t) (-(2 ^ 31)) (2 ^ 31 - 1) else dotSum f p.2 t)))) ∧
  (
  (
  (∀ p ∈ integerWords, ∀ (f : FmtR) (s : State), s.RegsReady f.hdr [f.sa.toNat, f.sb.toNat, f.dst.toNat] →
    ∃ v : Thread → Word, (∀ t, Elements f.ty.toNat (p.2 f) (opA f f.ty.toNat t) (opB f f.ty.toNat t) (v t)) ∧
      s.Did (p.1 f) f.hdr fun t => t.setReg f.dst.toNat (v t)) ∧
  (∀ p ∈ integerUnary, ∀ (f : FmtR) (s : State), s.RegsReady f.hdr [f.sa.toNat, f.dst.toNat] →
    ∃ v : Thread → Word, (∀ t, Elements f.ty.toNat (fun a _ => p.2 a) (opA f f.ty.toNat t) (opA f f.ty.toNat t) (v t)) ∧
      s.Did (p.1 f) f.hdr fun t => t.setReg f.dst.toNat (v t)) ∧
  (∀ p ∈ integerWordsI, ∀ (f : FmtI) (s : State), s.RegsReady f.hdr [f.sa.toNat, f.dst.toNat] →
    ∃ v : Thread → Word, (∀ t, Elements f.ty.toNat p.2 (t.reg f.sa.toNat) (f.imm.signExtend 32) (v t)) ∧
      s.Did (p.1 f) f.hdr fun t => t.setReg f.dst.toNat (v t))) ∧
  (
  (∀ (f : FmtR) (s : State), s.RegsReady f.hdr [f.sa.toNat, f.sb.toNat, f.dst.toNat] →
    s.Did (.iaddc f) f.hdr fun t =>
      (t.setReg f.dst.toNat (opA f 1 t + opB f 1 t + BitVec.ofNat 32 (carryOf f t))).setPred f.q.toNat
        (decide (2 ^ 32 ≤ (opA f 1 t).toNat + (opB f 1 t).toNat + carryOf f t))) ∧
  (∀ (f : FmtR) (s : State), s.RegsReady f.hdr [f.sa.toNat, f.sb.toNat, f.dst.toNat] →
    s.Did (.isubb f) f.hdr fun t =>
      (t.setReg f.dst.toNat (opA f 1 t - opB f 1 t - BitVec.ofNat 32 (carryOf f t))).setPred f.q.toNat
        (decide ((opA f 1 t).toNat < (opB f 1 t).toNat + carryOf f t)))))

/-- POPC counts the 1 bits of a, CLZ the 0 bits above its highest 1 bit, BREV reverses them (R282). -/
def Obligations.BitCountsAndReversal : Prop :=
  (∀ f : FmtR, (encode (.popc f)).map wordOpc = some 0x017 ∧ (encode (.clz f)).map wordOpc = some 0x018 ∧ (encode (.brev f)).map wordOpc = some 0x019) ∧
  (∀ f : FmtR, (Instr.popc f).wellFormed = true ∨ (Instr.clz f).wellFormed = true ∨ (Instr.brev f).wellFormed = true → f.sb = 0 ∧ f.sc = 0 ∧ f.x = 0) ∧
  ∀ (f : FmtR) (s : State), s.RegsReady f.hdr [f.sa.toNat, f.dst.toNat] →
    (s.Did (.popc f) f.hdr fun t => t.setReg f.dst.toNat (BitVec.ofNat 32 (((List.range 32).filter fun k => (opA f 0 t).getLsbD k).length))) ∧
    (∃ v : Thread → Word, (∀ t, if opA f 0 t = 0 then v t = 32 else
        (v t).toNat < 32 ∧ (opA f 0 t).getLsbD (31 - (v t).toNat) = true ∧ ∀ k, 31 - (v t).toNat < k → (opA f 0 t).getLsbD k = false) ∧
      s.Did (.clz f) f.hdr fun t => t.setReg f.dst.toNat (v t)) ∧
    (∃ v : Thread → Word, (∀ t k, k < 32 → (v t).getLsbD k = (opA f 0 t).getLsbD (31 - k)) ∧
      s.Did (.brev f) f.hdr fun t => t.setReg f.dst.toNat (v t))

/-- SHL, SHR, SHRA and ROT act per element, their I forms with the sign-extended immediate as one 32-bit count; SHW shifts a 64-bit value (R279, R280). AND, OR, XOR, ANDN and LUT3 compute every bit of gD from the bits of their sources at the same position (R281). BFX extracts the field of a field word and extends it; BFI inserts one (R283). -/
def Obligations.ShiftsLogicAndBitFields : Prop :=
  (
  (∀ p ∈ shiftWords, ∀ (f : FmtR) (s : State), s.RegsReady f.hdr [f.sa.toNat, f.sb.toNat, f.dst.toNat] →
    ∃ v : Thread → Word, (∀ t, ShiftedElements p.1 f.ty.toNat (opA f f.ty.toNat t) (t.reg f.sb.toNat) (v t)) ∧
      s.Did (p.2.1 f) f.hdr fun t => t.setReg f.dst.toNat (v t)) ∧
  (∀ p ∈ shiftWords, ∀ (f : FmtI) (s : State), s.RegsReady f.hdr [f.sa.toNat, f.dst.toNat] →
    ∃ v : Thread → Word, (∀ t, ShiftedElements p.1 f.ty.toNat (t.reg f.sa.toNat) (f.imm.signExtend 32) (v t)) ∧
      s.Did (p.2.2 f) f.hdr fun t => t.setReg f.dst.toNat (v t)) ∧
  (∀ (f : FmtR) (s : State), s.RegsReady f.hdr [f.sa.toNat, f.sb.toNat, f.sc.toNat, f.dst.toNat] →
    s.Did (.shw f) f.hdr fun t =>
      let v : DWord := modBits f.mb (t.reg f.sb.toNat) ++ modBits f.ma (t.reg f.sa.toNat)
      let n := (t.reg f.sc.toNat).toNat % 64
      t.setReg f.dst.toNat (if f.q = 0 then (v <<< n).extractLsb' 32 32 else if f.q = 1 then (v >>> n).setWidth 32 else (v.sshiftRight n).setWidth 32))) ∧
  (
  (
  (∀ p ∈ logicWords, ∀ (f : FmtR) (s : State), s.RegsReady f.hdr [f.sa.toNat, f.sb.toNat, f.dst.toNat] →
    ∃ v : Thread → Word, (∀ t k, k < 32 → (v t).getLsbD k = p.2.2 ((opA f 0 t).getLsbD k) ((opB f 0 t).getLsbD k)) ∧
      s.Did (p.1 f) f.hdr fun t => t.setReg f.dst.toNat (v t)) ∧
  (∀ p ∈ logicWords, ∀ (f : FmtI) (s : State), s.RegsReady f.hdr [f.sa.toNat, f.dst.toNat] →
    ∃ v : Thread → Word, (∀ t k, k < 32 → (v t).getLsbD k = p.2.2 ((t.reg f.sa.toNat).getLsbD k) ((f.imm.signExtend 32).getLsbD k)) ∧
      s.Did (p.2.1 f) f.hdr fun t => t.setReg f.dst.toNat (v t)) ∧
  (∀ (f : FmtR) (s : State), s.RegsReady f.hdr [f.sa.toNat, f.sb.toNat, f.sc.toNat, f.dst.toNat] →
    ∃ v : Thread → Word, (∀ t k, k < 32 → (v t).getLsbD k = f.table.getLsbD
        (4 * ((opA f 0 t).getLsbD k).toNat + 2 * ((opB f 0 t).getLsbD k).toNat + ((t.reg f.sc.toNat).getLsbD k).toNat)) ∧
      s.Did (.lut3 f) f.hdr fun t => t.setReg f.dst.toNat (v t))) ∧
  (
  (∀ (f : FmtR) (s : State), s.RegsReady f.hdr [f.sa.toNat, f.sb.toNat, f.dst.toNat] → f.ty.toNat ≤ 1 →
    ∃ v : Thread → Word, (∀ t k, k < 32 →
        let a := opA f f.ty.toNat t
        let p := fieldPos (t.reg f.sb.toNat)
        let l := fieldLen (t.reg f.sb.toNat)
        let field (j : Nat) : Bool := if p + j < 32 then a.getLsbD (p + j) else decide (f.ty.toNat = 0) && a.getLsbD 31
        (v t).getLsbD k = if k < l then field k else decide (f.ty.toNat = 0 ∧ 0 < l) && field (l - 1)) ∧
      s.Did (.bfx f) f.hdr fun t => t.setReg f.dst.toNat (v t)) ∧
  (∀ (f : FmtR) (s : State), s.RegsReady f.hdr [f.sa.toNat, f.sb.toNat, f.sc.toNat, f.dst.toNat] →
    ∃ v : Thread → Word, (∀ t k, k < 32 →
        let p := fieldPos (t.reg f.sc.toNat)
        (v t).getLsbD k = if p ≤ k ∧ k < p + fieldLen (t.reg f.sc.toNat) then (opB f 0 t).getLsbD (k - p) else (opA f 0 t).getLsbD k) ∧
      s.Did (.bfi f) f.hdr fun t => t.setReg f.dst.toNat (v t))))

/-- ICMP writes its predicate by the condition of Q; SEL, MOV, MOVI and MOVH write the selected or named value (R207, R284, R285). -/
def Obligations.ComparesSelectsAndMoves : Prop :=
  (∀ (f : FmtR) (s : State), f.ty.toNat ≤ 1 → f.q.toNat ≤ 5 → s.RegsReady f.hdr [f.sa.toNat, f.sb.toNat] →
    s.Did (.icmp f) f.hdr fun t => t.setPred (f.dst.toNat % 8) (condition f.q.toNat f.ty.toNat (opA f f.ty.toNat t) (opB f f.ty.toNat t))) ∧
  (∀ (f : FmtI) (s : State), f.ty.toNat ≤ 1 → f.q.toNat ≤ 5 → s.RegsReady f.hdr [f.sa.toNat] →
    s.Did (.icmpI f) f.hdr fun t => t.setPred (f.dst.toNat % 8) (condition f.q.toNat f.ty.toNat (t.reg f.sa.toNat) (f.imm.signExtend 32))) ∧
  (∀ (f : FmtR) (s : State), s.RegsReady f.hdr [f.sa.toNat, f.sb.toNat, f.dst.toNat] →
    s.Did (.sel f) f.hdr fun t => t.setReg f.dst.toNat (if predGet t.preds (f.sc.toNat % 8) then opA f 0 t else opB f 0 t)) ∧
  (∀ (f : FmtR) (s : State), s.RegsReady f.hdr [f.sa.toNat, f.dst.toNat] → s.Did (.mov f) f.hdr fun t => t.setReg f.dst.toNat (opA f 0 t)) ∧
  (∀ (f : FmtL) (s : State), s.RegsReady f.hdr [f.dst.toNat] → s.Did (.movi f) f.hdr fun t => t.setReg f.dst.toNat f.imm) ∧
  (∀ (f : FmtL) (s : State), s.RegsReady f.hdr [f.dst.toNat, f.dst.toNat + 1] →
    s.Did (.movh f) f.hdr fun t => (t.setReg f.dst.toNat 0).setReg (f.dst.toNat + 1) f.imm)

/-- PLUT writes pD with the bit of its table that pA, pB and pC select; a read of p7 is true and a write of p7 has no effect (R286, R202). -/
def Obligations.PredicateTableLookup : Prop :=
  (∀ f : FmtR, (encode (.plut f)).map wordOpc = some 0x024) ∧
  (∀ f : FmtR, (Instr.plut f).wellFormed = true →
    f.dst.toNat < 8 ∧ f.sa.toNat < 8 ∧ f.sb.toNat < 8 ∧ f.sc.toNat < 8 ∧ f.ma = 0 ∧ f.mb = 0 ∧ f.fa = false ∧ f.fb = false ∧ f.fc = false ∧ f.x.getLsbD 8 = false) ∧
  ∀ (f : FmtR) (s : State), (Instr.plut f).wellFormed = true →
    s.Did (.plut f) f.hdr fun t =>
      let p (r : BitVec 7) : Bool := if r = 7 then true else t.preds.getLsbD r.toNat
      if f.dst = 7 then t
      else { t with preds := setBit t.preds f.dst.toNat ((f.x.extractLsb' 0 8).getLsbD (4 * (p f.sa).toNat + 2 * (p f.sb).toNat + (p f.sc).toNat)) }

/-- LEA adds a scaled index to a pair, PTRMK builds a pointer and PTRFLD takes one apart (R55, R287, R288). -/
def Obligations.PointerWordsBuildPointers : Prop :=
  (∀ (f : FmtR) (s : State), s.RegsReady f.hdr [f.sa.toNat, f.sa.toNat + 1, f.sb.toNat, f.dst.toNat, f.dst.toNat + 1] →
    s.Did (.lea f) f.hdr fun t => t.setPair f.dst.toNat
      (t.pair f.sa.toNat + (if f.ty = 0 then (t.reg f.sb.toNat).signExtend 64 else (t.reg f.sb.toNat).setWidth 64) <<< f.q.toNat)) ∧
  (∀ (f : FmtI) (s : State), s.RegsReady f.hdr [f.sa.toNat, f.sa.toNat + 1, f.dst.toNat, f.dst.toNat + 1] →
    s.Did (.leaI f) f.hdr fun t => t.setPair f.dst.toNat
      (t.pair f.sa.toNat + (if f.ty = 0 then f.imm.signExtend 64 else (f.imm.signExtend 32).setWidth 64) <<< f.q.toNat)) ∧
  (∀ (f : FmtR) (s : State), s.RegsReady f.hdr ([f.sa.toNat, f.sa.toNat + 1, f.dst.toNat, f.dst.toNat + 1] ++ if f.q = 1 ∨ f.q = 2 then [f.sb.toNat] else []) →
    ∃ v : Thread → DWord, (∀ t, ptrSpace (v t).toNat = f.q.toNat ∧ ptrOff (v t).toNat = ptrOff (t.pair f.sa.toNat).toNat ∧
        ptrRank (v t).toNat = if f.q = 1 ∨ f.q = 2 then (t.reg f.sb.toNat).toNat % 512 else 0) ∧
      s.Did (.ptrmk f) f.hdr fun t => t.setPair f.dst.toNat (v t)) ∧
  (∀ (f : FmtR) (s : State), s.RegsReady f.hdr [f.sa.toNat, f.sa.toNat + 1, f.dst.toNat] →
    ∃ v : Thread → Word, (∀ t, f.q.toNat ≤ 3 → (v t).toNat =
        (if f.q = 0 then ptrSpace (t.pair f.sa.toNat).toNat else if f.q = 1 then ptrRank (t.pair f.sa.toNat).toNat
         else if f.q = 2 then ptrOff (t.pair f.sa.toNat).toNat % 2 ^ 32 else ptrOff (t.pair f.sa.toNat).toNat / 2 ^ 32)) ∧
      s.Did (.ptrfld f) f.hdr fun t => t.setReg f.dst.toNat (v t))

namespace Sys2Proof.Slice0
open Sys2Proof.Machine

/-- The format of a float type: FP32 for .f32, BF16 or FP16 else (R162). -/
def fmtOf (ty : Nat) : FloatFmt := if ty = 8 then fp32 else if ty = 9 ∨ ty = 11 then bf16 else fp16
/-- Elements of a float type (R162, R206). -/
def countOf (ty : Nat) : Nat := if ty = 9 ∨ ty = 10 then 2 else 1
/-- A value of a register's element as a float. -/
def fval (ty : Nat) (v : Word) (i : Nat) : FVal := (fmtOf ty).decode (elem v (tyWidth ty) i)

/-- r holds the codes c i as its elements of a float type, and zero in every bit that no element has (R162, R272). -/
def FloatResult (ty : Nat) (c : Nat → Nat) (r : Word) : Prop :=
  (∀ i, i < countOf ty → elem r (tyWidth ty) i = c i % 2 ^ tyWidth ty) ∧ r.toNat < 2 ^ (tyWidth ty * countOf ty)

/-- The rounded float words, whether they read gC, and the exact value of the elements rounded once (R289). -/
def floatWords : List ((FmtR → Instr) × Bool × (Nat → Rounding → Word → Word → Word → Nat → Nat)) :=
  [(.fadd, false, fun ty m a b _ i => (fmtOf ty).sum m [fval ty a i, fval ty b i]),
   (.fsub, false, fun ty m a b _ i => (fmtOf ty).sum m [fval ty a i, (fval ty b i).neg]),
   (.fmul, false, fun ty m a b _ i => (fmtOf ty).round m ((fval ty a i).mul (fval ty b i))),
   (.ffma, true, fun ty m a b c i => (fmtOf ty).sum m [(fval ty a i).mul (fval ty b i), fval ty c i])]

/-- The one-source float words: the class mask and the functions of R295 (R294). -/
def floatUnary : List ((FmtR → Instr) × (Nat → Rounding → Word → Nat → Nat)) :=
  (.fclass, fun ty _ a i => (fmtOf ty).classMask (elem a (tyWidth ty) i)) ::
    [((Instr.frcp : FmtR → Instr), RealFn.rcp), (.frsq, .rsq), (.fsqrt, .sqrt), (.fexp2, .exp2), (.flog2, .log2), (.fsin, .sin), (.fcos, .cos), (.ftanh, .tanh)].map
      fun p => (p.1, fun ty m a i => (fmtOf ty).round m (p.2.apply (fval ty a i)))

/-- The ordering of two float codes: none when either is a NaN, else a comparison of their values with minus zero equal to plus zero (R293). -/
def floatCondition (q : Nat) (f : FloatFmt) (a b : Nat) : Bool :=
  match f.decode a == .nan || f.decode b == .nan, q with
  | true, 1 => true
  | true, 7 => true
  | true, _ => false
  | false, 0 => f.cmp a b == 0
  | false, 1 => f.cmp a b != 0
  | false, 2 => decide (f.cmp a b < 0)
  | false, 3 => decide (f.cmp a b ≤ 0)
  | false, 4 => decide (0 < f.cmp a b)
  | false, 5 => decide (0 ≤ f.cmp a b)
  | false, 6 => true
  | false, _ => false

/-- The registers a half of a dual word reads and writes (R218, R219). -/
def halfRegs (h : Half) : List Nat := h.reads ++ h.writes.toList

/-- The full-form words that a half stands for: a move, the words of two sources by OP7, and the compares by OP7 less the base of their condition (R218, R219). -/
def halfWords : List (Nat × (FmtR → Instr)) :=
  [(0x01, .iadd), (0x02, .isub), (0x03, .imul), (0x04, .imin), (0x05, .imax), (0x06, .and), (0x07, .or), (0x08, .xor), (0x09, .andn), (0x0A, .shl), (0x0B, .shr), (0x0C, .shra),
   (0x0D, .mov), (0x10, .fadd), (0x11, .fsub), (0x12, .fmul), (0x13, .fmin), (0x14, .fmax)] ++
    (List.range 6).map (fun q => (0x18 + q, .icmp)) ++ (List.range 8).map fun q => (0x20 + q, .fcmp)

/-- The fields that a half gives its full-form word (R217, R219): the guard without negation, D as destination and first source, S with MS as second source, and for a move as the only one; FS for every source; the type of T, rounding .rn, and for a compare its condition and p0 from the high half, p1 from the low half. -/
def halfFields (b high : Bool) (h : Half) : FmtR :=
  let op := h.op.toNat
  let q := if 0x20 ≤ op then op - 0x20 else if 0x18 ≤ op then op - 0x18 else 0
  let ty := ([0, 1, 2, 4, 8, 9, 10, 5][h.t.toNat]?).getD 0
  { hdr := ⟨b, false, if h.ps = 0 then 7 else BitVec.ofNat 3 (h.ps.toNat - 1)⟩, dst := if 0x18 ≤ op then (if high then 0 else 1) else h.d, sa := if op = 0x0D then h.s else h.d, sb := if op = 0x0D then 0 else h.s, sc := 0,
    ma := if op = 0x0D then h.ms else 0, mb := if op = 0x0D then 0 else h.ms, fa := h.fs, fb := if op = 0x0D then false else h.fs, fc := false, x := BitVec.ofNat 9 (64 * q + ty) }

/-- What a half does alone in a state: its full-form word, or nothing for NOP (R219). -/
def HalfAlone (s t : State) (b high : Bool) (h : Half) : Prop :=
  (h.op = 0 ∧ t = s) ∨ ∃ w, (h.op.toNat, w) ∈ halfWords ∧ exec (w (halfFields b high h)) s = .next t

/-- A descriptor of a format word that NPACK or NUNPACK takes, with its selector (R166, R167, R300, R301). -/
structure NarrowFormat (target : Bool) (q : Nat) (w : Word) : Prop where
  present : w.getLsbD 31 = true ∧ bits w.toNat 3 0 = 0 ∧ bits w.toNat 7 4 = 0
  width   : 1 ≤ bits w.toNat 8 8 + bits w.toNat 11 9 + bits w.toNat 15 12 ∧ bits w.toNat 8 8 + bits w.toNat 11 9 + bits w.toNat 15 12 ≤ 8
  integer : bits w.toNat 11 9 = 0 → bits w.toNat 23 16 = 0 ∧ bits w.toNat 29 28 ≠ 1 ∧ bits w.toNat 29 28 ≠ 2
  ieee    : bits w.toNat 29 28 = 1 → bits w.toNat 15 12 ≠ 0
  scale   : bits w.toNat 27 26 ≠ 3 ∧ (bits w.toNat 27 26 = 0 → bits w.toNat 25 24 = 0)
  written : target = true → bits w.toNat 29 28 = 0 → bits w.toNat 11 9 = 0
  chosen  : 4 < bits w.toNat 8 8 + bits w.toNat 11 9 + bits w.toNat 15 12 → q < 4

/-- The lowest active lane for which a condition fails. -/
def LowestNot (s : State) (h : Hdr) (l : Nat) (p : Nat → Prop) : Prop := l ∈ s.active h ∧ ¬ p l ∧ ∀ k ∈ s.active h, k < l → p k

end Sys2Proof.Slice0

open Sys2Proof Sys2Proof.Machine Sys2Proof.Slice0

/-- FMIN and FMAX: a single NaN gives the other operand, two the canonical NaN, else the smaller or larger with minus zero below plus zero (R290). -/
def Obligations.FloatMinMaxTreatNaN : Prop :=
  (∀ f : FmtR, (encode (.fmin f)).map wordOpc = some 0x084 ∧ (encode (.fmax f)).map wordOpc = some 0x085) ∧
  (∀ f : FmtR, (Instr.fmin f).wellFormed = true ∨ (Instr.fmax f).wellFormed = true → f.ty.toNat ∈ [8, 9, 10, 11, 12] ∧ f.rm = 0) ∧
  ∀ p ∈ [((Instr.fmin : FmtR → Instr), false), (.fmax, true)], ∀ (f : FmtR) (s : State), f.ty.toNat ∈ [8, 9, 10, 11, 12] →
    s.RegsReady f.hdr [f.sa.toNat, f.sb.toNat, f.dst.toNat] →
    ∃ v : Thread → Word, (∀ t, ∃ c : Nat → Nat, FloatResult f.ty.toNat c (v t) ∧ ∀ i, i < countOf f.ty.toNat →
        let m := fmtOf f.ty.toNat
        let a := elem (opA f f.ty.toNat t) (tyWidth f.ty.toNat) i
        let b := elem (opB f f.ty.toNat t) (tyWidth f.ty.toNat) i
        (m.decode a = .nan → m.decode b = .nan → c i = m.nanCode) ∧
        (m.decode a = .nan → m.decode b ≠ .nan → c i = b) ∧
        (m.decode a ≠ .nan → m.decode b = .nan → c i = a) ∧
        (m.decode a ≠ .nan → m.decode b ≠ .nan → (c i = a ∨ c i = b) ∧
          if p.2 then m.key a ≤ m.key (c i) ∧ m.key b ≤ m.key (c i) else m.key (c i) ≤ m.key a ∧ m.key (c i) ≤ m.key b)) ∧
      s.Did (p.1 f) f.hdr fun t => t.setReg f.dst.toNat (v t)

/-- FADD, FSUB, FMUL and FFMA round the exact value of each element once; FCLASS and the special functions act per element; FDOT2 adds two products to an FP32 (R289, R292, R294, R295). FSCALE multiplies by a power of two and rounds; FCMP writes its predicate; FCVT, ICVT and FCVTI convert between types (R291, R293, R297, R298, R299). -/
def Obligations.FloatWordsRoundCompareAndConvert : Prop :=
  (
  (∀ p ∈ floatWords, ∀ (f : FmtR) (s : State), f.ty.toNat ∈ [8, 9, 10, 11, 12] →
    s.RegsReady f.hdr ([f.sa.toNat, f.sb.toNat, f.dst.toNat] ++ if p.2.1 then [f.sc.toNat] else []) →
    ∃ v : Thread → Word, (∀ t, FloatResult f.ty.toNat (p.2.2 f.ty.toNat (Rounding.ofCode f.rm) (opA f f.ty.toNat t) (opB f f.ty.toNat t) (t.reg f.sc.toNat)) (v t)) ∧
      s.Did (p.1 f) f.hdr fun t => t.setReg f.dst.toNat (v t)) ∧
  (∀ p ∈ floatUnary, ∀ (f : FmtR) (s : State), f.ty.toNat ∈ [8, 9, 10, 11, 12] → s.RegsReady f.hdr [f.sa.toNat, f.dst.toNat] →
    ∃ v : Thread → Word, (∀ t, FloatResult f.ty.toNat (p.2 f.ty.toNat (Rounding.ofCode f.rm) (opA f f.ty.toNat t)) (v t)) ∧
      s.Did (p.1 f) f.hdr fun t => t.setReg f.dst.toNat (v t)) ∧
  (∀ (f : FmtR) (s : State), s.RegsReady f.hdr [f.sa.toNat, f.sb.toNat, f.sc.toNat, f.dst.toNat] →
    s.Did (.fdot2 f) f.hdr fun t => t.setReg f.dst.toNat (BitVec.ofNat 32 (fp32.sum (Rounding.ofCode f.rm)
      [fp32.decode (t.reg f.sc.toNat).toNat, ((fmtOf f.ty.toNat).decode (elem (opA f f.ty.toNat t) 16 0)).mul ((fmtOf f.ty.toNat).decode (elem (opB f f.ty.toNat t) 16 0)),
       ((fmtOf f.ty.toNat).decode (elem (opA f f.ty.toNat t) 16 1)).mul ((fmtOf f.ty.toNat).decode (elem (opB f f.ty.toNat t) 16 1))])))) ∧
  (
  (∀ (f : FmtR) (s : State), f.ty.toNat ∈ [8, 9, 10, 11, 12] → s.RegsReady f.hdr [f.sa.toNat, f.sb.toNat, f.dst.toNat] →
    ∃ v : Thread → Word, (∀ t, FloatResult f.ty.toNat (fun i => (fmtOf f.ty.toNat).round (Rounding.ofCode f.rm)
        ((fval f.ty.toNat (opA f f.ty.toNat t) i).scale (if countOf f.ty.toNat = 2 then sext (elem (t.reg f.sb.toNat) 16 i) 16 else (t.reg f.sb.toNat).toInt))) (v t)) ∧
      s.Did (.fscale f) f.hdr fun t => t.setReg f.dst.toNat (v t)) ∧
  (∀ (f : FmtR) (s : State), f.ty.toNat ∈ [8, 11, 12] → s.RegsReady f.hdr [f.sa.toNat, f.sb.toNat] →
    s.Did (.fcmp f) f.hdr fun t => t.setPred (f.dst.toNat % 8) (floatCondition f.q.toNat (fmtOf f.ty.toNat)
      (elem (opA f f.ty.toNat t) (tyWidth f.ty.toNat) 0) (elem (opB f f.ty.toNat t) (tyWidth f.ty.toNat) 0))) ∧
  (∀ (f : FmtR) (s : State), s.RegsReady f.hdr ([f.sa.toNat, f.dst.toNat] ++ if f.ty.toNat ∈ [9, 10] ∧ f.srcTy = 8 then [f.sb.toNat] else []) →
    (fcvtRow f.ty.toNat f.srcTy).isSome = true →
    ∃ v : Thread → Word, (∀ t, FloatResult f.ty.toNat (fun i => (fmtOf f.ty.toNat).round (Rounding.ofCode f.rm)
        (if f.ty.toNat = 8 then fval f.srcTy (opA f f.srcTy t) (if countOf f.srcTy = 2 then f.q.toNat % 2 else 0)
         else if f.srcTy = 8 ∧ i = 1 then fval 8 (opB f f.srcTy t) 0 else fval f.srcTy (opA f f.srcTy t) i)) (v t)) ∧
      s.Did (.fcvt f) f.hdr fun t => t.setReg f.dst.toNat (v t)) ∧
  (∀ (f : FmtR) (s : State), f.ty.toNat ∈ [8, 9, 10, 11, 12] → s.RegsReady f.hdr [f.sa.toNat, f.dst.toNat] →
    ∃ v : Thread → Word, (∀ t, FloatResult f.ty.toNat (fun i => (fmtOf f.ty.toNat).round (Rounding.ofCode f.rm)
        (FVal.ofInt (elemInt f.srcTy (elem (opA f f.srcTy t) (tyWidth f.srcTy) i)))) (v t)) ∧
      s.Did (.icvt f) f.hdr fun t => t.setReg f.dst.toNat (v t)) ∧
  (∀ (f : FmtR) (s : State), fcvtiRow f.ty.toNat f.srcTy = true → s.RegsReady f.hdr [f.sa.toNat, f.dst.toNat] →
    ∃ v : Thread → Word, (∀ t, (∀ i, i < countOf f.srcTy → elem (v t) (tyWidth f.ty.toNat) i = wrapNat
        ((fval f.srcTy (opA f f.srcTy t) i).toInt (Rounding.ofCode f.rm) (if tySigned f.ty.toNat then -(2 ^ (tyWidth f.ty.toNat - 1)) else 0)
          (if tySigned f.ty.toNat then 2 ^ (tyWidth f.ty.toNat - 1) - 1 else 2 ^ tyWidth f.ty.toNat - 1)) (tyWidth f.ty.toNat))) ∧
      s.Did (.fcvti f) f.hdr fun t => t.setReg f.dst.toNat (v t)))

/-- NPACK puts the code that Encode gives for gA under the A descriptor into the nibble or byte of gB that Q selects, and keeps every other bit; NUNPACK rounds the value of the selected code, or writes it as an integer; a word whose descriptor fails a check in an active lane takes the FORMAT trap of its lowest such lane instead (R166 to R168, R300, R301). A dual word performs both halves: each half has the effect of the full-form word of its mnemonic from the state before the word, the guards included; both destinations are written, and nothing else (R216, R219, R221). -/
def Obligations.NarrowCodesAndDualWords : Prop :=
  (
  (∀ (f : FmtR) (s : State), f.ty.toNat ∈ [0, 8, 11, 12] → s.RegsReady f.hdr [f.sa.toNat, f.sb.toNat, f.sc.toNat, f.sc.toNat + 1, f.dst.toNat] →
    (∀ l ∈ s.active f.hdr, NarrowFormat true f.q.toNat ((s.curThread l).reg f.sc.toNat)) →
    ∃ v : Thread → Word, (∀ t, NarrowFormat true f.q.toNat (t.reg f.sc.toNat) →
        let d := Descr.ofNat (t.reg f.sc.toNat).toNat
        let n := if d.s + d.e + d.m ≤ 4 then 4 else 8
        let x : FVal := if f.ty = 0 then .ofInt (opA f 0 t).toInt else fval f.ty.toNat (opA f f.ty.toNat t) 0
        ∀ b, b < 32 → (v t).getLsbD b = if n * f.q.toNat ≤ b ∧ b < n * f.q.toNat + n then (d.encode (Rounding.ofCode f.rm) x).testBit (b - n * f.q.toNat) else (opB f f.ty.toNat t).getLsbD b) ∧
      s.Did (.npack f) f.hdr fun t => t.setReg f.dst.toNat (v t)) ∧
  (∀ (f : FmtR) (s : State), f.ty.toNat ∈ [0, 8, 11, 12] → s.RegsReady f.hdr [f.sa.toNat, f.sc.toNat, f.sc.toNat + 1, f.dst.toNat] →
    (∀ l ∈ s.active f.hdr, NarrowFormat false f.q.toNat ((s.curThread l).reg f.sc.toNat) ∧ (f.ty = 0 → bits ((s.curThread l).reg f.sc.toNat).toNat 11 9 = 0)) →
    ∃ v : Thread → Word, (∀ t, NarrowFormat false f.q.toNat (t.reg f.sc.toNat) → (f.ty = 0 → bits (t.reg f.sc.toNat).toNat 11 9 = 0) →
        let d := Descr.ofNat (t.reg f.sc.toNat).toNat
        let n := if d.s + d.e + d.m ≤ 4 then 4 else 8
        let x := d.decode ((opA f f.ty.toNat t).toNat / 2 ^ (n * f.q.toNat) % 2 ^ (d.s + d.e + d.m))
        (f.ty = 0 → x = .ofInt (v t).toInt) ∧ (f.ty ≠ 0 → FloatResult f.ty.toNat (fun _ => (fmtOf f.ty.toNat).round (Rounding.ofCode f.rm) x) (v t))) ∧
      s.Did (.nunpack f) f.hdr fun t => t.setReg f.dst.toNat (v t)) ∧
  (∀ (f : FmtR) (s : State) (l : Nat), s.RegsReady f.hdr [f.sa.toNat, f.sb.toNat, f.sc.toNat, f.sc.toNat + 1, f.dst.toNat] →
    LowestNot s f.hdr l (fun l => NarrowFormat true f.q.toNat ((s.curThread l).reg f.sc.toNat)) →
    exec (.npack f) s = .next (s.stopWord noRunAhead (.trap { cause := 0x02, dcode := 0x09, lane := l }))) ∧
  (∀ (f : FmtR) (s : State) (l : Nat), s.RegsReady f.hdr [f.sa.toNat, f.sc.toNat, f.sc.toNat + 1, f.dst.toNat] →
    LowestNot s f.hdr l (fun l => NarrowFormat false f.q.toNat ((s.curThread l).reg f.sc.toNat) ∧ (f.ty = 0 → bits ((s.curThread l).reg f.sc.toNat).toNat 11 9 = 0)) →
    exec (.nunpack f) s = .next (s.stopWord noRunAhead (.trap { cause := 0x02, dcode := 0x09, lane := l })))) ∧
  (
  ∀ (f : FmtD) (s : State), (Instr.dualWord f).wellFormed = true →
    (∀ l ∈ s.curLanes, ∀ h ∈ [f.hi, f.lo], ∀ r ∈ halfRegs h,
      (if s.curKind = .booth then r < 32 else (s.curThread l).mapped s.curKind r = true) ∧ (s.curThread l).empty.getLsbD r = false) →
    ∃ th tl t : State, HalfAlone s th f.b true f.hi ∧ HalfAlone s tl f.b false f.lo ∧ exec (.dualWord f) s = .next t ∧
      ∃ g : Nat → Thread → Thread, LaneEffect s t f.b (fun l old => (g l old).advance f.b) ∧ ∀ l ∈ s.curLanes,
        let old := s.curThread l
        { g l old with g := old.g, empty := old.empty, preds := old.preds } = old ∧ (g l old).empty = old.empty ∧
        (∀ r, r < 128 → (g l old).reg r = if (tl.curThread l).reg r = old.reg r then (th.curThread l).reg r else (tl.curThread l).reg r) ∧
        ∀ p, p < 7 → (g l old).preds.getLsbD p = if (tl.curThread l).preds.getLsbD p = old.preds.getLsbD p then (th.curThread l).preds.getLsbD p else (tl.curThread l).preds.getLsbD p)

/-- RDGTC writes the GTC of its clk to the pair of every active lane (R257). -/
def Obligations.RdgtcReadsTheCounter : Prop :=
  (∀ f : FmtR, (encode (.rdgtc f)).map wordOpc = some 0x11B) ∧
  (∀ f : FmtR, (Instr.rdgtc f).wellFormed = true →
    f.dst.toNat % 2 = 0 ∧ f.sa = 0 ∧ f.sb = 0 ∧ f.sc = 0 ∧ f.ma = 0 ∧ f.mb = 0 ∧ f.fa = false ∧ f.fb = false ∧ f.fc = false ∧ f.x = 0) ∧
  ∀ (f : FmtR) (s : State), s.RegsReady f.hdr [f.dst.toNat, f.dst.toNat + 1] →
    s.Did (.rdgtc f) f.hdr fun t => (t.setReg f.dst.toNat (BitVec.ofNat 32 s.gtc)).setReg (f.dst.toNat + 1) (BitVec.ofNat 32 (s.gtc / 2 ^ 32))

namespace Sys2Proof.Slice0
open Sys2Proof.Machine

/-- A lane whose run ends at another address (R329). -/
def wentTo (target : VAddr) (t : Thread) : Thread := { t with pc := target, run := 0, done := false }

/-- The next PC of a lane at a BRD: the target of bits [47:29], or the next word (R211, R330). -/
def brdNext (f : FmtB) (s : State) (t : Thread) : VAddr :=
  if guardVal f.hdr t.preds then s.cur.pc + (f.off.extractLsb' 19 19).signExtend 52 * 8 else s.cur.pc + 8
/-- The join PC of a BRD, from bits [28:10] (R211, R332). -/
def brdJoinPc (f : FmtB) (s : State) : VAddr := s.cur.pc + (f.off.extractLsb' 0 19).signExtend 52 * 8

/-- The state with the entry of a BRD pushed (R332). -/
def pushed (f : FmtB) (s : State) : State := s.onCur fun x => { x with join := { pc := brdJoinPc f s, mask := s.cur.lanes } :: x.join }

/-- The state once every lane of a BRD stands at its next PC, before any lane is ejected (R330, R332). -/
def split (f : FmtB) (s : State) : State := (pushed f s).branch fun _ t => { t with pc := brdNext f s t }

end Sys2Proof.Slice0

open Sys2Proof Sys2Proof.Machine Sys2Proof.Slice0

/-- BRU branches when the guards of the issuing lanes agree, and raises UNIFORM when they do not (R331). -/
def Obligations.UniformBranchChecksItsGroup : Prop :=
  (∀ (f : FmtB) (s : State), (∀ l ∈ s.curLanes, ∀ k ∈ s.curLanes, guardVal f.hdr (s.curThread l).preds = guardVal f.hdr (s.curThread k).preds) →
    ∃ t, exec (.bru f) s = .next t ∧
      LaneEffect s t true fun _ x => wentTo (if guardVal f.hdr x.preds then s.cur.pc + f.off.signExtend 52 * 8 else x.pc + 8) x) ∧
  (∀ (f : FmtB) (s : State) (k l : Nat), s.curLanes.head? = some k →
    s.curLanes.find? (fun j => guardVal f.hdr (s.curThread j).preds != guardVal f.hdr (s.curThread k).preds) = some l →
    ∃ m : LaneMask, (∀ j, j < 32 → m.getLsbD j = (s.cur.lanes.getLsbD j && guardVal f.hdr (s.curThread j).preds)) ∧
      exec (.bru f) s = .next (s.stopWord noRunAhead (.trap { cause := 0x07, lane := l, det := [s.cur.lanes, m] })))

/-- BRD pushes its entry and splits the group; with eight entries it pushes nothing, enters serial mode and raises every issuing lane's overflow count, or raises ILLEGAL "nesting"; an ejectable minority of one lane that the pool can place moves to its booth thread (R330, R332, R381, R383, R384, R385). Where the rules leave a point open the statement has the model's choice: log 54. -/
def Obligations.BrdPushesSplitsAndEjects : Prop :=
  (∀ (f : FmtB) (s : State), s.cur.lanes ≠ 0 → s.curStripe.serial = false → s.curStripe.join.length < 8 → f.x.getLsbD 0 = false →
    ∃ t, exec (.brd f) s = .next t ∧ LaneEffect (pushed f s) t true fun _ x => wentTo (brdNext f s x) x) ∧
  (∀ (f : FmtB) (s : State), s.cur.lanes ≠ 0 → 8 ≤ s.curStripe.join.length → (∀ l ∈ s.curLanes, (s.curThread l).lov < 255) →
    ∃ t, exec (.brd f) s = .next t ∧ LaneEffect s t true (fun _ x => { wentTo (brdNext f s x) x with lov := x.lov + 1 }) ∧
      ((∃ l ∈ s.curLanes, (s.curThread l).status = .ready) → t.curStripe.serial = true)) ∧
  (∀ (f : FmtB) (s : State) (l : Nat), 8 ≤ s.curStripe.join.length → s.curLanes.find? (fun l => decide (255 ≤ (s.curThread l).lov)) = some l →
    exec (.brd f) s = .next (s.stopWord noRunAhead (.trap { cause := 0x01, dcode := 0x27, lane := l }))) ∧
  (∀ (f : FmtB) (s : State) (l b k : Nat), s.cur.lanes ≠ 0 → s.curStripe.serial = false → s.curStripe.join.length < 8 → f.x.getLsbD 0 = true → l < 32 →
    minority (s.curLanes.filter fun l => guardVal f.hdr (s.curThread l).preds) (s.curLanes.filter fun l => !guardVal f.hdr (s.curThread l).preds) = [l] →
    s.mayEject [l] = true → (split f s).boothFor s.cur.unit = some (b, k) → b ≠ s.cur.unit →
    ∃ t, exec (.brd f) s = .next t ∧ (t.curThread l).status = .ejected b k ∧
      Tab.find (t.core b).guests k = some { home := s.cur.unit, stripe := s.cur.stripe, lane := l, joinPc := brdJoinPc f s, due := s.gtc + clkTicks 40 } ∧
      (∀ r, r < 32 → (t.thread b k 0).reg r = (s.curThread l).reg r) ∧ (t.thread b k 0).preds = (s.curThread l).preds ∧
      (t.thread b k 0).pc = brdNext f s (s.curThread l))

/-- BRA, CALL, BRX and RET: a lane whose guard holds goes to the target, every other lane to the next word; CALL writes g30:g31, a target that is not 8-byte aligned raises ALIGN naming the lowest such lane (R211, R329, R330). JOIN: lanes whose topmost entry is the top of the stack and names this address wait there until the entry's mask has arrived, then all go on behind the JOIN; lanes in no entry pass (R333); an arrival waits for its lane's earlier accesses, as a release does (R241, R368, R371). -/
def Obligations.BranchesAndJoins : Prop :=
  (
  (∀ (f : FmtB) (s : State), ∃ t, exec (.bra f) s = .next t ∧
    LaneEffect s t true fun _ x => wentTo (if guardVal f.hdr x.preds then s.cur.pc + f.off.signExtend 52 * 8 else x.pc + 8) x) ∧
  (∀ (f : FmtB) (s : State), s.RegsReady f.hdr [30, 31] → ∃ t, exec (.call f) s = .next t ∧
    LaneEffect s t true fun _ x => if guardVal f.hdr x.preds then wentTo (s.cur.pc + f.off.signExtend 52 * 8) (x.setPair 30 ((x.pc + 8).setWidth 64)) else wentTo (x.pc + 8) x) ∧
  (∀ i ∈ [(Instr.brx : FmtR → Instr), .ret], ∀ (f : FmtR) (s : State), s.RegsReady f.hdr [f.sa.toNat, f.sa.toNat + 1] →
    (∀ l ∈ s.active f.hdr, ((s.curThread l).pair f.sa.toNat).toNat % 8 = 0) → ∃ t, exec (i f) s = .next t ∧
      LaneEffect s t true fun _ x => wentTo (if guardVal f.hdr x.preds then (x.pair f.sa.toNat).setWidth 52 else x.pc + 8) x) ∧
  (∀ i ∈ [(Instr.brx : FmtR → Instr), .ret], ∀ (f : FmtR) (s : State) (l : Nat), s.RegsReady f.hdr [f.sa.toNat, f.sa.toNat + 1] →
    (s.active f.hdr).find? (fun l => ((s.curThread l).pair f.sa.toNat).toNat % 8 != 0) = some l →
    exec (i f) s = .next (s.stopWord noRunAhead (.trap { cause := 0x0D, lane := l, addr := ((s.curThread l).pair f.sa.toNat).toNat })))) ∧
  (
  -- An arrival is a .core release of its lane, at .arc on a booth: it waits for the lane's earlier accesses.
  (∀ (f : FmtR) (s : State) (e : JoinEntry) (rest : List JoinEntry) (l : Nat), s.curStripe.serial = false → s.curStripe.join = e :: rest → e.pc = s.cur.pc →
    l ∈ s.curLanes → e.mask.getLsbD l = true → s.pending s.cur.unit s.cur.stripe l (s.curKind == .booth) false false = true →
    ∃ t w, exec (.join f) s = .next t ∧ t = s.blockWord w ∧ t.curStripe.wait = some w ∧ BytesKept s t) ∧
  (∀ (f : FmtR) (s : State) (e : JoinEntry) (rest : List JoinEntry), s.curStripe.serial = false → s.curStripe.join = e :: rest → e.pc = s.cur.pc →
    (∀ l ∈ s.curLanes, s.pending s.cur.unit s.cur.stripe l (s.curKind == .booth) false false = false) →
    (∀ l ∈ s.curLanes, e.mask.getLsbD l = true) → e.mask &&& ~~~(e.arrived ||| s.cur.lanes) ≠ 0 → (∀ x ∈ rest, x.mask &&& ~~~x.arrived ≠ 0) →
    ∃ t, exec (.join f) s = .next t ∧ { t with cores := s.cores, slices := s.slices } = s ∧ BytesKept s t ∧ t.curStripe.join = { e with arrived := e.arrived ||| s.cur.lanes } :: rest ∧
      WordOver s t fun _ x => { x with status := .joined, run := 0, done := false }) ∧
  (∀ (f : FmtR) (s : State) (e : JoinEntry) (rest : List JoinEntry), s.curStripe.serial = false → s.curStripe.join = e :: rest → e.pc = s.cur.pc →
    (∀ l ∈ s.curLanes, s.pending s.cur.unit s.cur.stripe l (s.curKind == .booth) false false = false) →
    (∀ l ∈ s.curLanes, e.mask.getLsbD l = true) → e.mask &&& ~~~(e.arrived ||| s.cur.lanes) = 0 → (∀ x ∈ rest, x.mask &&& ~~~x.arrived ≠ 0) →
    ∃ t, exec (.join f) s = .next t ∧ t.curStripe.join = rest ∧ BytesKept s t ∧
      (∀ l ∈ s.curLanes, t.curThread l = { s.curThread l with status := .ready, pc := (s.curThread l).pc + 8, run := 0, done := false }) ∧
      ∀ l, l < 32 → s.cur.lanes.getLsbD l = false → e.arrived.getLsbD l = true → (s.curThread l).status = .joined →
        t.curThread l = { s.curThread l with status := .ready, pc := (s.curThread l).pc + 8 }) ∧
  (∀ (f : FmtR) (s : State), s.curStripe.serial = false → (∀ e ∈ s.curStripe.join, ∀ l ∈ s.curLanes, e.mask.getLsbD l = false) →
    (∀ x ∈ s.curStripe.join, x.mask &&& ~~~x.arrived ≠ 0) →
    ∃ t, exec (.join f) s = .next t ∧ LaneEffect s t true fun _ x => wentTo (x.pc + 8) x))

/-- EXIT ends every active lane: it leaves its gangs, its blocks return to the pool and its transaction is discarded; NOP moves on; YIELD moves on and ends the turn when a lane is active, once the other group has issued its word of the same clk (R139, R140, R144, R330, R334). -/
def Obligations.ExitNopAndYield : Prop :=
  (∀ (f : FmtR) (s : State), s.curKind ≠ .booth → (∀ l ∈ s.active f.hdr, (s.curThread l).deferred = none) →
    ∃ t, exec (.exit f) s = .next t ∧ BytesKept s t ∧ (∀ u, u ≠ s.cur.unit → t.core u = s.core u) ∧
      ∀ l ∈ s.active f.hdr, (t.curThread l).status = .exited ∧ (t.curThread l).gangs = 0 ∧ (t.curThread l).blocks = 0 ∧ (t.curThread l).tx.depth = 0) ∧
  (∀ (f : FmtR) (s : State), ∃ t, exec (.nop f) s = .next t ∧ LaneEffect s t f.hdr.b fun _ x => x.advance f.hdr.b) ∧
  (∀ (f : FmtR) (s : State), s.active f.hdr = [] → ∃ t, exec (.yield f) s = .next t ∧ LaneEffect s t f.hdr.b fun _ x => x.advance f.hdr.b) ∧
  (∀ (f : FmtR) (s : State), s.active f.hdr ≠ [] → ∃ t, exec (.yield f) s = .next t ∧ GroupOnly s t ∧
    (∀ l ∈ s.curLanes, t.curThread l = (s.curThread l).advance f.hdr.b) ∧
    -- The other group first completes its word of the same clk.
    let other (r : Turn) : LaneMask := if s.cur.groupB then r.a else r.b
    let before := (Tab.get (s.core s.cur.unit).quads s.cur.quad {}).turn
    let after := (Tab.get (t.core s.cur.unit).quads s.cur.quad {}).turn
    -- The clk of the turn that the words of this group, and those of the other, have taken.
    let mine (r : Turn) : Nat := if s.cur.groupB then r.cb else r.ca
    let theirs (r : Turn) : Nat := if s.cur.groupB then r.ca else r.cb
    ((∀ r, before = some r → mine r ≤ theirs r ∨ other r = 0) → after = none) ∧
      ∀ r, before = some r → theirs r < mine r → other r ≠ 0 → ∃ x, after = some x ∧ x.ending = true ∧ other x = other r ∧ (if s.cur.groupB then x.b else x.a) = 0)

namespace Sys2Proof.Slice0
open Sys2Proof.Machine

/-- What a special register reads on a core that is no booth (R353, R420): lane, place in the core, counters, transaction, engine and ejection registers, translation root and trap registers. -/
def ReadsSpecial (s : State) (l n v : Nat) : Prop :=
  let c := s.core s.cur.unit
  let th := s.curThread l
  (n = 0x000 → v = 32 * s.cur.stripe + l) ∧ (n = 0x001 → v = l) ∧ (n = 0x002 → v = s.cur.stripe) ∧ (n = 0x006 → v = th.gangs.toNat) ∧
  (n = 0x011 → v = th.txcause.toNat) ∧ (n = 0x012 → v = th.tx.depth) ∧ (n = 0x020 → v = c.kown.toNat) ∧ (n = 0x022 → v = c.bmode.toNat) ∧
  (n = 0x030 → v = c.ejt.toNat) ∧ (n = 0x031 → v = c.ejto.toNat) ∧ (n = 0x040 → v = (if s.curKind = .host then th.ptb else c.ptb).toNat) ∧
  (n = 0x050 → v / 2 ^ 19 % 2 = th.ie.toNat ∧ v / 2 ^ 18 % 2 = s.curStripe.xin.toNat ∧ v / 2 ^ 16 % 4 = th.pPriv.code % 4 ∧ v / 2 ^ 8 % 256 = th.dcode.toNat ∧ v % 256 = th.cause.toNat) ∧
  (n = 0x051 → v = th.xpc.toNat) ∧ (n = 0x052 → v = (if s.curPriv = .h then c.xrecH else c.xrec).toNat) ∧
  (n = 0x053 → v = (if s.curPriv = .h then c.cbaseH else c.cbase).toNat)

/-- The field bits that a write of a special register of a core takes (R355, R420): what it holds afterwards, from the 64-bit value written. -/
def coreRegs : List (Nat × (Nat → Core → Prop)) :=
  [(0x020, fun v c => c.kown.toNat = v % 2 ^ 16 + v / 2 ^ 31 % 2 * 2 ^ 31), (0x030, fun v c => c.ejt.toNat = v % 32), (0x031, fun v c => c.ejto.toNat = v % 2 ^ 32)]

end Sys2Proof.Slice0

open Sys2Proof Sys2Proof.Machine Sys2Proof.Slice0

/-- RDSR writes the register's value to gD, or to gD:gD+1 for a 64-bit register, in every active lane (R353, R354, R420). WRSR at privilege K or above writes the writable fields of the register once, from the lowest active lane; at U, or on a register without a writable field, it raises PRIV (R354, R355, R420). Where the rules leave a point open the statement has the model's choice: logs 25, 26 and 43. -/
def Obligations.SpecialRegistersReadAndWrite : Prop :=
  (
  ∀ (f : FmtI) (s : State) (wide : Bool), s.curKind ≠ .booth → srWide f.sr = some wide →
    s.RegsReady f.hdr (if wide then [f.dst.toNat, f.dst.toNat + 1] else [f.dst.toNat]) →
    ∃ (v : Nat → Nat) (t : State), (∀ l, l < 32 → ReadsSpecial s l f.sr (v l)) ∧ exec (.rdsr f) s = .next t ∧ t.freeCount = s.freeCount + 1 ∧
      LaneEffect { s with freeCount := t.freeCount } t f.hdr.b fun l x => laneAfter f.hdr (fun x => if wide then x.setPair f.dst.toNat (BitVec.ofNat 64 (v l)) else x.setReg f.dst.toNat (BitVec.ofNat 32 (v l))) x) ∧
  (
  (∀ p ∈ coreRegs, ∀ (f : FmtI) (s : State) (low : Nat), s.curKind ≠ .booth → (s.active f.hdr).head? = some low → s.curPriv ≠ .u → f.sr = p.1 →
    s.LanesReady [low] [f.sa.toNat] →
    ∃ t, exec (.wrsr f) s = .next t ∧ p.2 ((s.curThread low).reg f.sa.toNat).toNat (t.core s.cur.unit) ∧ BytesKept s t ∧
      (∀ u, u ≠ s.cur.unit → t.core u = s.core u) ∧ ∀ l ∈ s.curLanes, t.curThread l = (s.curThread l).advance f.hdr.b) ∧
  (∀ (f : FmtI) (s : State) (low : Nat), s.curKind ≠ .booth → (s.active f.hdr).head? = some low → s.curPriv ≠ .u → f.sr ∈ [0x040, 0x052, 0x053] →
    s.LanesReady [low] [f.sa.toNat, f.sa.toNat + 1] →
    ∃ t, exec (.wrsr f) s = .next t ∧ BytesKept s t ∧
      let v := ((s.curThread low).pair f.sa.toNat).toNat
      let c := t.core s.cur.unit
      (f.sr = 0x040 → s.curKind ≠ .host → c.ptb.toNat = v % 2 ^ 52) ∧ (f.sr = 0x040 → s.curKind = .host → ∀ l ∈ s.active f.hdr, (t.curThread l).ptb.toNat = v % 2 ^ 52) ∧
      (f.sr = 0x052 → (if s.curPriv = .h then c.xrecH else c.xrec).toNat = v % 2 ^ 52 / 2 ^ 10 * 2 ^ 10) ∧
      (f.sr = 0x053 → (if s.curPriv = .h then c.cbaseH else c.cbase).toNat = v % 2 ^ 52 / 2 ^ 12 * 2 ^ 12)) ∧
  (∀ (f : FmtI) (s : State) (low : Nat), s.curKind ≠ .booth → (s.active f.hdr).head? = some low → s.curPriv ≠ .u → f.sr = 0x051 →
    s.LanesReady [low] [f.sa.toNat, f.sa.toNat + 1] →
    ∃ t, exec (.wrsr f) s = .next t ∧ GroupOnly s t ∧ ∀ l ∈ s.active f.hdr, (t.curThread l).xpc = ((s.curThread low).pair f.sa.toNat).setWidth 52) ∧
  (∀ (f : FmtI) (s : State) (low : Nat), s.curKind ≠ .booth → (s.active f.hdr).head? = some low →
    s.curPriv = .u ∨ f.sr ∈ [0x000, 0x001, 0x002, 0x003, 0x004, 0x005, 0x006, 0x009, 0x010, 0x011, 0x012, 0x022] →
    exec (.wrsr f) s = .next (s.stopWord noRunAhead (.trap { cause := 0x03, lane := low }))))

/-- TRAP and BKPT, on every core kind and at every level, raise TRAPI or BKPT naming the lowest active lane with n in detail word 0; TRAP #0x21 is 0x1F82_0000_0000_8400 (R356). -/
def Obligations.TrapAndBkptRaiseTheirNumber : Prop :=
  (∀ f : FmtI, (encode (.trap f)).map wordOpc = some 0x382 ∧ (encode (.bkpt f)).map wordOpc = some 0x384) ∧
  (∀ f : FmtI, (Instr.trap f).wellFormed = true ∨ (Instr.bkpt f).wellFormed = true → f.imm.toNat < 256 ∧ f.dst = 0 ∧ f.sa = 0 ∧ f.fa = false ∧ f.x = 0) ∧
  decode 0x1F82000000008400 = .ok (.trap { hdr := { b := false, n := false, p := 7 }, dst := 0, sa := 0, imm := 0x21, fa := false, x := 0 }) ∧
  (∀ p ∈ [((Instr.trap : FmtI → Instr), 0x19), (.bkpt, 0x1A)], ∀ (f : FmtI) (s : State) (low : Nat), (p.1 f).wellFormed = true → (s.active f.hdr).head? = some low →
    exec (p.1 f) s = .next (s.stopWord noRunAhead (.trap { cause := p.2, lane := low, det := [BitVec.ofNat 32 f.imm.toNat] })))

/-- Taking a precise trap on a SIMT or host core: every lane of the group enters the handler of its level with XPC, PPRIV, CAUSE and DCODE saved, XIN is set and the other lanes of the stripe keep what they have (R420, R421); raised in the handler of that level, it ends every lane of the group and posts a record with DCODE 0x28 (R423). When both groups of a stripe trap in one clk, only group A's trap is taken (R421). ERET at K or above returns every active lane to XPC at PPRIV, and XIN clears once the whole trapping group is back; HALT stops a host thread; at U both raise PRIV (R357, R358, R422). Where the rules leave a point open the statement has the model's choice: log 18. -/
def Obligations.TrapEntryAndReturn : Prop :=
  (
  (∀ (s r : State) (tr : Trap), (s.curKind = .simt ∨ s.curKind = .host) → (∀ l ∈ s.curLanes, (s.curThread l).tx.depth = 0) →
    (s.curStripe.xin = false ∨ s.curStripe.xgroup &&& s.cur.lanes ≠ 0 ∧ (s.curThread tr.lane).priv ≠ (s.curThread tr.lane).priv.target) →
    s.recordWait s.cur.unit s.cur.stripe tr.lane = none → s.writeTrapRecord s.cur.unit s.cur.stripe tr.lane s.cur.pc.toNat tr = some r →
    let t := s.stopWord noRunAhead (.trap tr)
    t.curStripe.xin = true ∧ t.curStripe.xgroup = s.cur.lanes ∧
      (∀ l, l < 32 → t.curThread l = if s.cur.lanes.getLsbD l then
        { s.curThread l with
          xpc := (s.curThread l).pc, pPriv := (s.curThread l).priv, cause := BitVec.ofNat 8 tr.cause, dcode := BitVec.ofNat 8 tr.dcode
          priv := if (s.curThread l).priv = .h then .h else .k, status := .ready, done := false, begun := false
          pc := BitVec.ofNat 52 (bits (if (s.curThread tr.lane).priv = .h then (s.core s.cur.unit).cbaseH else (s.core s.cur.unit).cbase).toNat 51 12 * 4096 + 128 * tr.cause) }
        else s.curThread l) ∧
      ∀ a, bytesAt t.mem a = bytesAt r.mem a) ∧
  (∀ (s : State) (tr : Trap), (s.curKind = .simt ∨ s.curKind = .host) → (∀ l ∈ s.curLanes, (s.curThread l).tx.depth = 0 ∧ (s.curThread l).deferred = none) →
    s.curStripe.xin = true → s.curStripe.xgroup &&& s.cur.lanes ≠ 0 → (s.curThread tr.lane).priv = (s.curThread tr.lane).priv.target →
    let t := s.stopWord noRunAhead (.trap tr)
    (∀ l ∈ s.curLanes, (t.curThread l).status = .exited) ∧ (∃ x ∈ (t.part ((s.partOf s.cur.unit).getD 0)).fq.made, x.cause = tr.cause ∧ x.dcode = 0x28) ∧
      ∀ a, bytesAt t.mem a = bytesAt s.mem a) ∧
  -- Group A has trapped in the same clk: the trap of group B is not taken, and its word is not performed.
  (∀ (s : State) (tr : Trap), (s.curKind = .simt ∨ s.curKind = .host) → s.curStripe.xin = true → s.curStripe.xgroup &&& s.cur.lanes = 0 →
    GroupOnly s (s.stopWord noRunAhead (.trap tr)) ∧ ∀ l, (s.stopWord noRunAhead (.trap tr)).curThread l = s.curThread l)) ∧
  (
  (∀ (f : FmtR) (s : State) (low : Nat), s.curKind ≠ .booth → (s.active f.hdr).head? = some low → s.curPriv ≠ .u →
    ∃ t, exec (.eret f) s = .next t ∧ BytesKept s t ∧ (∀ u, u ≠ s.cur.unit → t.core u = s.core u) ∧
      (∀ l ∈ s.active f.hdr, t.curThread l = { s.curThread l with pc := (s.curThread l).xpc, priv := (s.curThread l).pPriv, run := if f.hdr.b then 0 else (s.curThread l).run + 1 }) ∧
      (s.curStripe.xin = true → ((∀ l, l < 32 → s.curStripe.xgroup.getLsbD l = true → s.curStripe.xback.getLsbD l = true ∨ l ∈ s.active f.hdr) ↔ t.curStripe.xin = false))) ∧
  (∀ (f : FmtR) (s : State) (low : Nat), s.curKind = .host ∨ s.curKind = .func ∨ s.curKind = .root → (s.active f.hdr).head? = some low → s.curPriv ≠ .u →
    ∃ t, exec (.halt f) s = .next t ∧ GroupOnly s t ∧ ∀ l ∈ s.active f.hdr, t.curThread l = { (s.curThread l).advance f.hdr.b with status := .halted }) ∧
  (∀ i ∈ [(Instr.eret : FmtR → Instr), .halt], ∀ (f : FmtR) (s : State) (low : Nat), s.curKind = .host → (s.active f.hdr).head? = some low → s.curPriv = .u →
    exec (i f) s = .next (s.stopWord noRunAhead (.trap { cause := 0x03, lane := low }))) ∧
  (∀ (f : FmtR) (s : State), s.curKind = .simt ∨ s.curKind = .booth → exec (.halt f) s = .next (s.stopWord noRunAhead (.trap { cause := 0x01, lane := s.lowLane }))))

/-- WLATCH on a firmware core starts the latch sequence of a free SIMT core of its partition and writes 0, or writes 1 while that core is in use, 2 for a world outside WMASK or a core that is not there; TLBINV drops every translation it covers, then completes once what was in flight is performed (R69, R214, R359, R361, R453). Where the rules leave a point open the statement has the model's choice: logs 43 and 44. -/
def Obligations.LatchesAndInvalidations : Prop :=
  (∀ (f : FmtR) (s : State) (low : Nat), s.curKind = .func ∨ s.curKind = .root → s.active f.hdr = [low] → low < 32 → (s.curThread low).done = false →
    s.RegsReady f.hdr [f.sa.toNat, f.sb.toNat, f.dst.toNat] →
    let u := (modBits f.ma ((s.curThread low).reg f.sa.toNat)).toNat % 2 ^ 14
    let w := (modBits f.mb ((s.curThread low).reg f.sb.toNat)).toNat % 64
    -- The spill of dirty tiles of a saved owner waits for the banks of its area.
    let free := ∃ p, kindOf u = .simt ∧ u ∈ s.coresOf (sliceOf u) ∧ s.partOf u = some p ∧ (s.part p).wmask.getLsbD w = true ∧ s.latchBusy u = false
    (∀ x, free → s.spillWait u = some x → exec (.wlatch f) s = .next (s.blockWord x)) ∧
    ((free → s.spillWait u = none) → ∃ t, exec (.wlatch f) s = .next t ∧
      ((kindOf u ≠ .simt ∨ u ∉ s.coresOf (sliceOf u) ∨ (∃ p, s.partOf u = some p ∧ (s.part p).wmask.getLsbD w = false)) → (t.curThread low).reg f.dst.toNat = 2 ∧ BytesKept s t) ∧
      (∀ p, kindOf u = .simt → u ∈ s.coresOf (sliceOf u) → s.partOf u = some p → (s.part p).wmask.getLsbD w = true → s.latchBusy u = true → (t.curThread low).reg f.dst.toNat = 1 ∧ BytesKept s t) ∧
      (∀ p, kindOf u = .simt → u ∈ s.coresOf (sliceOf u) → s.partOf u = some p → (s.part p).wmask.getLsbD w = true → s.latchBusy u = false →
        (t.curThread low).reg f.dst.toNat = 0 ∧ (t.core u).latching = some (BitVec.ofNat 6 w) ∧ (t.core u).latchAt = s.gtc + clkTicks 4096))) ∧
  (∀ p ∈ [((Instr.tlbinvPage : FmtE → Instr), 0), (.tlbinvAsid, 1), (.tlbinvAll, 2)], ∀ (f : FmtE) (s : State) (low : Nat), s.curKind = .simt ∨ s.curKind = .host →
    (s.active f.hdr).head? = some low → s.curPriv ≠ .u → (s.curThread low).done = false →
    s.LanesReady [low] (if p.2 = 0 then [f.sa.toNat, f.sa.toNat + 1, f.sb.toNat] else if p.2 = 1 then [f.sb.toNat] else []) →
    ∃ (t : State) (v : Invalidation), exec (p.1 f) s = .next t ∧ v.kind = p.2 ∧
      (p.2 = 0 → v.items = [(((s.curThread low).pair f.sa.toNat).toNat % 2 ^ 52, ((s.curThread low).reg f.sb.toNat).toNat % 4096)]) ∧
      (p.2 = 1 → v.items.map (·.2) = [((s.curThread low).reg f.sb.toNat).toNat % 4096]) ∧ v.before = s.inFlight s.curPart ∧ v.txs = (s.commits.filter fun c => s.partOf c.unit == some s.curPart).map Commit.id ∧
      v ∈ (t.core s.cur.unit).invals ∧ t.curStripe.wait = some (.answer 3) ∧ BytesKept s t ∧
      ∀ e ∈ t.cores, s.partOf e.1 = some s.curPart → e.2.walkCache = [] ∧ ∀ x ∈ e.2.tlb ++ e.2.quadTlb.flatMap (·.2) ++ e.2.walkAhead, v.covers x = false) ∧
  (∀ i ∈ [(Instr.tlbinvPage : FmtE → Instr), .tlbinvAsid, .tlbinvAll], ∀ (f : FmtE) (s : State) (low : Nat), s.curKind = .simt ∨ s.curKind = .host →
    (s.active f.hdr).head? = some low → s.curPriv ≠ .u → (s.curThread low).done = true → (∀ v ∈ (s.core s.cur.unit).invals, v.stripe ≠ s.cur.stripe) →
    ∃ t, exec (i f) s = .next t ∧ LaneEffect s t f.hdr.b fun _ x => x.advance f.hdr.b)

namespace Sys2Proof.Slice0
open Sys2Proof.Machine

/-- A memory word that nothing holds up: a lane is active, no lane is in a transaction, no qualified access is under way, its registers are ready, and no acquire or release makes it wait (R236, R370, R371). -/
structure Unhindered (s : State) (f : FmtM) (regs : List Nat) (rel : Option Nat) : Prop where
  some  : s.active f.hdr ≠ []
  plain : ∀ l, l < 32 → (s.curThread l).tx.depth = 0
  idle  : s.granq = []
  regs  : s.RegsReady f.hdr regs
  free  : s.waitFor true rel = none

/-- The lanes of a memory word with the addresses they name (R208, R243). -/
def lanesAt (s : State) (f : FmtM) (indexed : Bool) (scale : Nat) : List (Nat × Nat) := (s.active f.hdr).map fun l => (l, memAddr f indexed scale (s.curThread l))

/-- LD, LDX and LDC: the word, the scale of its index, and whether it is the constant load (R242, R243, R246). -/
def loadWords : List ((FmtM → Instr) × (FmtM → Nat) × Bool) := [(.ld, fun _ => 1, false), (.ldx, FmtM.bytes, false), (.ldc, fun _ => 1, true)]
/-- ST and STX with the scale of the index (R243, R247). -/
def storeWords : List ((FmtM → Instr) × (FmtM → Nat)) := [(.st, fun _ => 1), (.stx, FmtM.bytes)]
/-- The AMO words with their operation (R250). -/
def amoWords : List ((FmtM → Instr) × Nat) := [(.amoAdd, 0), (.amoMin, 1), (.amoMax, 2), (.amoAnd, 3), (.amoOr, 4), (.amoXor, 5), (.amoExch, 6), (.amoFadd, 7)]

/-- The release scope of a word's order, if it is a release (R209); a thread on a booth acts at .arc where its word says .core (R241). -/
def relOf (s : State) (f : FmtM) : Option Nat := if 2 ≤ f.ord.toNat then some (if s.curKind = .booth then max f.scp.toNat 1 else f.scp.toNat) else none

/-- The acquire scope of a word's order: 0 none, 1 core, 2 arcade, 3 partition or pod (R121, R209, R241, R374). -/
def acqAt (s : State) (f : FmtM) : Nat :=
  if f.ord = 1 ∨ f.ord = 3 then min ((if s.curKind = .booth then max f.scp.toNat 1 else f.scp.toNat) + 1) 3 else 0

/-- An acquire's effect on the loads to come is left to what the second state shows. -/
def keepAcquired (t : State) (f : Thread → Thread) (l : Nat) (x : Thread) : Thread := { f x with acquired := (t.curThread l).acquired }

/-- The access of a lane stands in the home core's queue with the operands of the word. -/
def Queued (s t : State) (a : LaneAcc) (p : Access → Prop) : Prop :=
  ∃ x ∈ (t.core s.curHome).outq, x.pc = s.cur.pc.toNat ∧ s.home s.cur.unit s.cur.stripe a.lane = (s.curHome, x.stripe, x.lane) ∧ x.pa = a.x.pa ∧ x.key = a.x.key ∧ p x

end Sys2Proof.Slice0

open Sys2Proof Sys2Proof.Machine Sys2Proof.Slice0

/-- ST and STX whose checks pass: a scratchpad takes the stored bytes, the highest lane's where lanes overlap, a global store enters the queue, a store to the control window is handed on, and no register and no other byte changes; with a granule qualifier F becomes 1 (R123, R236, R238, R239, R243, R247). An AMO whose checks pass empties gD: a global one enters the queue with gD's value as operand; at a scratchpad it leaves the new value of R250 in the word and delivers the old one (R236, R250, R251). PREF changes no register, no byte and no A bit; a line that makes way is written back, its poisoned granules as zero (R51, R248). Where the rules leave a point open the statement has the model's choice: logs 18 and 72. -/
def Obligations.StoresAmosAndPrefetches : Prop :=
  (
  (∀ p ∈ storeWords, ∀ (f : FmtM) (s s1 s2 : State) (accs : List LaneAcc), Unhindered s f (f.addrRegs true ++ f.dataRegs) (relOf s f) → f.gq = 0 →
    s.resolve (s.accReq f.bytes true 0 false false) (fun _ => false) (lanesAt s f true (p.2 f)) = (s1, .ok accs) → s1.clearingBank f.bytes accs = none → s1.markDirty accs = .ok s2 →
    ∃ t, exec (p.1 f) s = .next t ∧ WordOver s t (fun _ x => x.advance f.hdr.b) ∧ MemKept s2 t ∧ (∀ u, (t.core u).fbits = (s.core u).fbits) ∧
      (∀ u b, (∀ a ∈ accs, ∀ off, a.place = .spad u off → b < off ∨ off + f.bytes ≤ b) → bytesAt (t.core u).sram b = bytesAt (s.core u).sram b) ∧
      (∀ a ∈ accs, ∀ u off, a.place = .spad u off → (∀ y ∈ accs, a.lane < y.lane → ∀ o, y.place = .spad u o → o + f.bytes ≤ off ∨ off + f.bytes ≤ o) →
        bytesGet (t.core u).sram off f.bytes = leBytes f.bytes (storeVal f (s.curThread a.lane))) ∧
      ∀ a ∈ accs, ∀ va, a.place = .global va →
        (windowEnd ≤ a.x.pa → Queued s t a fun x => x.kind = .store ∧ x.size = f.bytes ∧ x.data = storeVal f (s.curThread a.lane) ∧ x.performed = false) ∧
        (a.x.pa < windowEnd → ∃ w ∈ t.regWrites, w.part = s.curPart ∧ w.pa = a.x.pa ∧ w.n = f.bytes ∧ w.v = storeVal f (s.curThread a.lane))) ∧
  (∀ p ∈ storeWords, ∀ (f : FmtM) (s s1 : State) (a : LaneAcc) (l u off : Nat), Unhindered s f (f.addrRegs true ++ f.dataRegs) none → f.gq ≠ 0 → f.ord = 0 → s.active f.hdr = [l] →
    s.resolve (s.accReq f.bytes true f.gq.toNat false false) (fun _ => false) (lanesAt s f true (p.2 f)) = (s1, .ok [a]) → a.place = .spad u off → s1.clearingBank f.bytes [a] = none →
    (f.gq = 1 → (s.core u).full (off / 16) = false) →
    ∃ t, exec (p.1 f) s = .next t ∧ (t.core u).full (off / 16) = true ∧ (∀ g, g ≠ off / 16 → (t.core u).full g = (s.core u).full g) ∧ MemKept s1 t ∧
      (∀ l, l < 32 → t.curThread l = if s.cur.lanes.getLsbD l then (s.curThread l).advance f.hdr.b else s.curThread l) ∧
      bytesGet (t.core u).sram off f.bytes = leBytes f.bytes (storeVal f (s.curThread a.lane)) ∧
      ∀ v b, (v ≠ u ∨ b < off ∨ off + f.bytes ≤ b) → bytesAt (t.core v).sram b = bytesAt (s.core v).sram b)) ∧
  (
  (∀ p ∈ amoWords, ∀ (f : FmtM) (s s1 s2 s3 : State) (accs : List LaneAcc), Unhindered s f (f.addrRegs true ++ [f.dst.toNat]) (relOf s f) →
    s.resolve (s.accReq 4 true 0 false true) (fun _ => false) (lanesAt s f true 1) = (s1, .ok accs) → s1.clearingBank 4 accs = none → s1.checkPoison 3 4 accs = (s2, .ok ()) → s2.markDirty accs = .ok s3 →
    ∃ t, exec (p.1 f) s = .next t ∧ WordOver s t (keepAcquired t (laneAfter f.hdr fun x => x.mark f.dst.toNat)) ∧ MemKept s3 t ∧ (∀ u, (t.core u).fbits = (s.core u).fbits) ∧
      (∀ u b, (∀ a ∈ accs, ∀ off, a.place = .spad u off → b < off ∨ off + 4 ≤ b) → bytesAt (t.core u).sram b = bytesAt (s.core u).sram b) ∧
      ∀ a ∈ accs,
        (∀ va, a.place = .global va → Queued s t a fun x => x.kind = .amo p.2 ∧ x.dst = some f.dst.toNat ∧ x.code = f.size.toNat ∧ x.data = ((s.curThread a.lane).reg f.dst.toNat).toNat ∧ x.performed = false) ∧
        ∀ u off, a.place = .spad u off → (∀ y ∈ accs, y.lane ≠ a.lane → ∀ o, y.place = .spad u o → o + 4 ≤ off ∨ off + 4 ≤ o) →
          let old : Word := BitVec.ofNat 32 (leNat (bytesGet (s.core u).sram off 4))
          bytesGet (t.core u).sram off 4 = leBytes 4 (amoValue p.2 (f.size == 5) old ((s.curThread a.lane).reg f.dst.toNat)).toNat ∧
            ∃ x ∈ (t.core s.curHome).outq, x.dst = some f.dst.toNat ∧ x.performed = true ∧ x.value = old.toNat) ∧
  (∀ (f : FmtM) (s : State), s.RegsReady f.hdr (f.addrRegs true) → ∃ t, exec (.pref f) s = .next t ∧ WordOver s t (fun _ x => x.advance f.hdr.b) ∧ MemSound s t ∧ SpadKept s t))

/-- LD, LDX and LDC whose checks pass: each active lane's destination registers become empty, its access enters the queue, with the bank's bytes as its value when the address is in a scratchpad, and nothing else changes; LD and LDX with a granule qualifier that finds F = 1 leave F as GQ says (R123, R236, R238, R241, R242, R243, R246). LDSX traps on none of the checks 3 to 7: a lane whose translation fails, or whose granule is poisoned, gets an access of value 0 with p6 false; a good lane of a scratchpad gets its bytes with p6 true (R245). LD.rem queues held loads and a promotion towards the core of its rank and waits; once the promotion is acknowledged it completes, and later loads of its lanes go home; a rank without a core raises SPACE "rank" (R244). Where the rules leave a point open the statement has the model's choice: logs 18, 23, 72 and 81. -/
def Obligations.LoadsQueueTheirAccesses : Prop :=
  (
  (∀ p ∈ loadWords, ∀ (f : FmtM) (s s1 s2 : State) (accs : List LaneAcc), Unhindered s f (f.addrRegs true ++ f.dataRegs) none → f.gq = 0 →
    let lanes := s.active f.hdr
    let acq := acqAt s f
    let s0 := s.acquireEffect (if acq = 2 then 2 else 0) lanes
    s0.resolve (s0.accReq f.bytes false 0 p.2.2 false) (fun a => !p.2.2 && (s0.lineHit acq f.bytes a).isSome) (lanesAt s f true (p.2.1 f)) = (s1, .ok accs) →
    s1.clearingBank f.bytes accs = none → s1.checkPoison acq f.bytes accs = (s2, .ok ()) →
    ∃ t, exec (p.1 f) s = .next t ∧ WordOver s t (keepAcquired t (laneAfter f.hdr fun x => f.dataRegs.foldl Thread.mark x)) ∧
      (acq = 3 → ∀ l ∈ lanes, (t.curThread l).acquired = true) ∧ MemKept s2 t ∧ SpadKept s t ∧
      ∀ a ∈ accs, Queued s t a fun x => x.kind = .load ∧ x.dst = some f.dst.toNat ∧ x.code = f.size.toNat ∧ x.size = f.bytes ∧
        ∀ u off, a.place = .spad u off → x.performed = true ∧ x.value = leNat (bytesGet (s.core u).sram off f.bytes)) ∧
  (∀ p ∈ loadWords, ∀ (f : FmtM) (s s1 : State) (a : LaneAcc) (l u off : Nat), p.2.2 = false → Unhindered s f (f.addrRegs true ++ f.dataRegs) none → f.gq ≠ 0 → s.active f.hdr = [l] → f.ord = 0 →
    s.resolve (s.accReq f.bytes false f.gq.toNat false false) (fun a => (s.lineHit 0 f.bytes a).isSome) (lanesAt s f true (p.2.1 f)) = (s1, .ok [a]) →
    a.place = .spad u off → s1.clearingBank f.bytes [a] = none → (s.core u).full (off / 16) = true → ((s.core u).readSram off f.bytes).2 = false →
    ∃ t, exec (p.1 f) s = .next t ∧ (t.core u).full (off / 16) = decide (f.gq = 1) ∧ (∀ g, g ≠ off / 16 → (t.core u).full g = (s.core u).full g) ∧ MemKept s1 t ∧
      (∀ v, (t.core v).sram = (s.core v).sram) ∧ (∀ l, l < 32 → t.curThread l = if s.cur.lanes.getLsbD l then laneAfter f.hdr (fun x => f.dataRegs.foldl Thread.mark x) (s.curThread l) else s.curThread l) ∧
      ∃ x ∈ (t.core s.curHome).outq, x.performed = true ∧ x.value = leNat (bytesGet (s.core u).sram off f.bytes) ∧ x.dst = some f.dst.toNat)) ∧
  (
  (
  ∀ (f : FmtM) (s : State) (accs : List LaneAcc), Unhindered s f (f.addrRegs true ++ f.dataRegs) none →
    s.checkPlaces (s.accReq f.bytes false 0 false false) (lanesAt s f true 1) = .ok accs → s.clearingBank f.bytes accs = none → accs.findSome? (s.ldsxHeld f) = none →
    ∃ t, exec (.ldsx f) s = .next t ∧ WordOver s t (fun _ => laneAfter f.hdr fun x => f.dataRegs.foldl Thread.mark x) ∧ SpadKept s t ∧
      (∀ a ∈ accs, ∃ x ∈ (t.core s.curHome).outq, x.kind = .load ∧ x.spec = true ∧ x.dst = some f.dst.toNat ∧ x.code = f.size.toNat ∧ x.pc = s.cur.pc.toNat ∧
        s.home s.cur.unit s.cur.stripe a.lane = (s.curHome, x.stripe, x.lane) ∧
        ∀ u off, a.place = .spad u off → x.performed = true ∧
          if ((s.core u).readSram off f.bytes).2 then x.good = false ∧ x.value = 0 else x.good = true ∧ x.value = leNat (bytesGet (s.core u).sram off f.bytes)) ∧
      (∀ a va s' e, accs = [a] → a.place = .global va → s.xlatLane (s.accReq f.bytes false 0 false false) a.lane va false = (s', .error e) →
        MemKept s t ∧ ∃ x ∈ (t.core s.curHome).outq, x.performed = true ∧ x.good = false ∧ x.value = 0)) ∧
  (
  (∀ (f : FmtM) (s s1 s2 : State) (accs : List LaneAcc) (low target : Nat), Unhindered s f (f.addrRegs false ++ [f.sb.toNat] ++ f.dataRegs) none → s.promotion = none →
    (s.active f.hdr).head? = some low → s.coreOfRank s.curPart (((s.curThread low).reg f.sb.toNat).toNat % 512) = some target → (s.core target).world = s.worldOf s.cur.unit s.cur.stripe low →
    s.resolve (s.accReq f.bytes false 0 false false) (fun _ => false) (lanesAt s f false 1) = (s1, .ok accs) → s1.clearingBank f.bytes accs = none → s1.checkPoison 3 f.bytes accs = (s2, .ok ()) →
    ∃ t, exec (.ldRem f) s = .next t ∧ t.curStripe.wait = some (.answer 0) ∧ MemKept s2 t ∧ SpadKept s t ∧
      (∃ p ∈ (t.core s.cur.unit).promos, p.stripe = s.cur.stripe ∧ p.home = s.curHome ∧ p.ids.length = accs.length ∧ p.acked = false ∧ p.target = if target = s.curHome then none else some target) ∧
      ∀ a ∈ accs, ∀ va, a.place = .global va → Queued s t a fun x => x.kind = .load ∧ x.held = true ∧ x.acq = 3 ∧ x.dst = some f.dst.toNat) ∧
  (∀ (f : FmtM) (s : State) (p : Promotion), s.active f.hdr ≠ [] → (∀ l ∈ s.active f.hdr, (s.curThread l).tx.depth = 0) → s.promotion = some p → p.acked = true →
    ∃ t, exec (.ldRem f) s = .next t ∧ (∀ l, l < 32 → t.curThread l = if s.cur.lanes.getLsbD l then
      { (s.curThread l).advance f.hdr.b with acquired := (s.curThread l).acquired || guardVal f.hdr (s.curThread l).preds } else s.curThread l) ∧ MemKept s t ∧ SpadKept s t) ∧
  (∀ (f : FmtM) (s : State) (low : Nat), s.promotion = none → (s.active f.hdr).head? = some low → s.RegsReady f.hdr (f.addrRegs false ++ [f.sb.toNat] ++ f.dataRegs) →
    s.coreOfRank s.curPart (((s.curThread low).reg f.sb.toNat).toNat % 512) = none →
    exec (.ldRem f) s = .next (s.stopWord noRunAhead (.trap { cause := 0x0C, dcode := 2, lane := low })))))

/-- FENCE, WAITC and WAITT complete when what they wait for is there and otherwise block their stripe; INVL1 empties the core's caches; none of them changes a byte (R140, R249, R253, R255, R256). GRANSET and GRANCLR set or clear the F bit of every granule of each active lane's range and change nothing else; a range that leaves its bank raises SPACE "offset" (R254). Where the rules leave a point open the statement has the model's choice: log 54. -/
def Obligations.FencesWaitsAndGranuleBits : Prop :=
  (
  (∀ (f : FmtM) (s : State), s.active f.hdr ≠ [] →
    let rel := decide (2 ≤ f.ord.toNat)
    let late := (s.active f.hdr).filter fun l => s.pending s.cur.unit s.cur.stripe l (rel && (s.curKind == .booth || decide (1 ≤ f.scp.toNat))) rel (f.scp == 3)
    (late = [] → ∃ t, exec (.fence f) s = .next t ∧ WordOver s t (keepAcquired t fun x => x.advance f.hdr.b) ∧ MemKept s t ∧ SpadKept s t ∧
      (acqAt s f = 3 → ∀ l ∈ s.active f.hdr, (t.curThread l).acquired = true)) ∧
    (late ≠ [] → ∃ t w, exec (.fence f) s = .next t ∧ t = s.blockWord w ∧ t.curStripe.wait = some w ∧ BytesKept s t)) ∧
  (∀ (f : FmtE) (s : State), s.curKind ≠ .booth → s.active f.hdr ≠ [] → (∀ l ∈ s.active f.hdr, (s.curThread l).deferred = none) →
    (Tab.get s.curStripe.counters (f.x.toNat % 8) 0 ≤ f.imm8.toNat % 64 → ∃ t, exec (.waitc f) s = .next t ∧ LaneEffect s t f.hdr.b fun _ x => x.advance f.hdr.b) ∧
    (f.imm8.toNat % 64 < Tab.get s.curStripe.counters (f.x.toNat % 8) 0 → exec (.waitc f) s = .next (s.blockWord (.counters (2 ^ (f.x.toNat % 8)) (f.imm8.toNat % 64))))) ∧
  (∀ (f : FmtE) (s : State), s.active f.hdr ≠ [] → s.RegsReady f.hdr [f.sa.toNat, f.sa.toNat + 1] →
    ((∀ l ∈ s.active f.hdr, ((s.curThread l).pair f.sa.toNat).toNat ≤ s.gtc) → ∃ t, exec (.waitt f) s = .next t ∧ LaneEffect s t f.hdr.b fun _ x => x.advance f.hdr.b) ∧
    (∀ l ∈ s.active f.hdr, s.gtc < ((s.curThread l).pair f.sa.toNat).toNat → (∀ k ∈ s.active f.hdr, ((s.curThread k).pair f.sa.toNat).toNat ≤ ((s.curThread l).pair f.sa.toNat).toNat) →
      exec (.waitt f) s = .next (s.blockWord (.time ((s.curThread l).pair f.sa.toNat).toNat)))) ∧
  (∀ (f : FmtR) (s : State), s.active f.hdr ≠ [] → ∃ t, exec (.invl1 f) s = .next t ∧ WordOver s t (fun _ x => x.advance f.hdr.b) ∧ BytesKept s t ∧
    (t.core s.cur.unit).lines = [] ∧ (t.core s.cur.unit).consts = [])) ∧
  (
  (∀ p ∈ [((Instr.granset : FmtE → Instr), true), (.granclr, false)], ∀ (f : FmtE) (s : State) (accs : List LaneAcc),
    let n (l : Nat) : Nat := ((s.curThread l).reg f.sb.toNat).toNat
    s.active f.hdr ≠ [] → s.RegsReady f.hdr [f.sa.toNat, f.sa.toNat + 1, f.sb.toNat] →
    s.checkPlaces { n := 16, need := .read, qual := true } ((s.active f.hdr).map fun l => (l, ((s.curThread l).pair f.sa.toNat).toNat)) = .ok accs →
    (∀ a ∈ accs, ∀ u off, a.place = .spad u off → n a.lane = 0 ∨ off / 65536 = (off + 16 * n a.lane - 1) / 65536) → (∀ a ∈ accs, n a.lane ≠ 0 → s.clearingBank (16 * n a.lane) [a] = none) →
    ∃ t, exec (p.1 f) s = .next t ∧ WordOver s t (fun _ x => x.advance f.hdr.b) ∧ BytesKept s t ∧ (∀ u, (t.core u).pbits = (s.core u).pbits) ∧
      ∀ u g, ((∃ a ∈ accs, ∃ off, a.place = .spad u off ∧ off / 16 ≤ g ∧ g < off / 16 + n a.lane) → (t.core u).full g = p.2) ∧
        ((∀ a ∈ accs, ∀ off, a.place = .spad u off → g < off / 16 ∨ off / 16 + n a.lane ≤ g) → (t.core u).full g = (s.core u).full g)) ∧
  (∀ i ∈ [(Instr.granset : FmtE → Instr), .granclr], ∀ (f : FmtE) (s : State) (l u off ptr : Nat), s.active f.hdr = [l] → s.RegsReady f.hdr [f.sa.toNat, f.sa.toNat + 1, f.sb.toNat] →
    ((s.curThread l).pair f.sa.toNat).toNat = ptr → s.spaceOf { n := 16, need := .read, qual := true } l ptr = .ok (.spad u off) → ptr % 16 = 0 →
    ((s.curThread l).reg f.sb.toNat).toNat ≠ 0 → off / 65536 ≠ (off + 16 * ((s.curThread l).reg f.sb.toNat).toNat - 1) / 65536 →
    exec (i f) s = .next (s.stopWord noRunAhead (.trap { cause := 0x0C, dcode := 3, lane := l, addr := ptr }))))

namespace Sys2Proof.Slice0
open Sys2Proof.Machine

/-- The stage commands with their operation (R260). -/
def stageWords : List ((FmtE → Instr) × Nat) := [(.sload, 0), (.sstore, 1), (.sgather, 2), (.sscatter, 3), (.spref, 4)]
/-- BCOPY and BFILL (R262). -/
def barrowWords : List ((FmtE → Instr) × Bool) := [(.bcopy, false), (.bfill, true)]

/-- An engine command may issue: no active lane is in a transaction and one is active (R259, R319). -/
def MayCommand (s : State) (h : Hdr) : Prop := s.active h ≠ [] ∧ ∀ l ∈ s.active h, (s.curThread l).tx.depth = 0

/-- The role of the stripe admits the command (R143). -/
def RoleIs (s : State) (n : Nat) : Prop := s.curPriv ≠ .u ∨ s.curStripe.role.toNat = n

/-- The destination of a stage command: none for SPREF (R260). -/
def stageDst (op : Nat) (f : FmtE) : List Nat := if op = 4 then [] else [f.dst.toNat]

/-- The operation of a barrow command in a lane (R262). -/
def barrowOp (s : State) (fill : Bool) (l : Nat) (b : List Byte) : BarrowOp :=
  let o : BarrowOp :=
    { tag := 0, fill := fill, unit := s.cur.unit, stripe := s.cur.stripe, lane := l, pc := s.cur.pc.toNat, priv := s.curPriv, world := s.worldOf s.cur.unit s.cur.stripe l,
      ctx := (s.ctxOf s.cur.unit s.cur.stripe l).toNat, ptb := s.ptbOf s.cur.unit s.cur.stripe l, block := b }
  if o.ctl.testBit 12 then { o with ring := some (bits o.ctl 7 4, bits o.ctl 11 8) } else o

end Sys2Proof.Slice0

open Sys2Proof Sys2Proof.Machine Sys2Proof.Slice0

/-- A stage command whose checks pass becomes one operation per active lane at the end of the engine's queue, under a fresh tag that gD takes; the S counter rises by as many, a load's footprint becomes empty, and nothing else changes. A stripe of another role at U raises ROLE (R95, R103, R115, R143, R258, R260, R261). BCOPY and BFILL, on SIMT and host cores: each active lane's block becomes one operation of the engine e of the slice, under a fresh tag that gD takes, in the order of issue; the B counter rises by as many and nothing else changes; a block that R110 refuses traps before any operation is accepted (R107, R110, R115, R258, R262). Where the rules leave a point open the statement has the model's choice: logs 10, 33, 34 and 38. -/
def Obligations.EngineCommandsAreAccepted : Prop :=
  (
  (∀ p ∈ stageWords, ∀ (f : FmtE) (s s1 : State) (bs : List (Nat × List Byte)), s.curKind = .simt → MayCommand s f.hdr → RoleIs s 1 →
    (∀ o ∈ (s.core s.cur.unit).stageWait, o.stripe ≠ s.cur.stripe) →
    s.RegsReady f.hdr ([f.sa.toNat, f.sa.toNat + 1] ++ (if p.2 = 4 then [] else [f.sb.toNat, f.sb.toNat + 1]) ++ [f.sc.toNat, f.sc.toNat + 1] ++ stageDst p.2 f) →
    s.readBlocks 4 (stageDst p.2 f) ((s.active f.hdr).map fun l => (l, ((s.curThread l).pair f.sa.toNat).toNat)) = .ok (s1, bs) →
    let ops := bs.map fun x => s1.stageOp p.2 f x.1 x.2
    (∀ o ∈ ops, o.badRecord = false ∧ s1.stageSpad f o = none ∧ (o.listed = true → ((s.curThread o.lane).reg (f.sc.toNat + 1)).getLsbD 31 = false)) →
    Tab.get s.curStripe.counters 0 0 + ops.length ≤ 63 → (s.core s.cur.unit).stage.length + ops.length ≤ 64 →
    ∃ (t : State) (new : List StageOp), exec (p.1 f) s = .next t ∧ (t.core s.cur.unit).stage = (s.core s.cur.unit).stage ++ new ∧
      new.map (fun o => { o with tag := 0, complete := false }) = ops ∧ ((new.map StageOp.tag).Nodup ∧ ∀ o ∈ new, ∀ x ∈ (s.core s.cur.unit).stage, x.tag ≠ o.tag) ∧
      Tab.get t.curStripe.counters 0 0 = Tab.get s.curStripe.counters 0 0 + ops.length ∧
      (∀ o ∈ new, (p.2 ≠ 4 → (t.curThread o.lane).reg f.dst.toNat = BitVec.ofNat 32 o.tag) ∧
        (p.2 = 0 ∨ p.2 = 2 → ∀ k, k < o.footprint / 16 → (t.core s.cur.unit).full (o.spad / 16 + k) = false)) ∧
      MemKept s1 t ∧ (∀ u, (t.core u).sram = (s.core u).sram) ∧ (∀ u i l, u ≠ s.cur.unit ∨ i ≠ s.cur.stripe → t.thread u i l = s.thread u i l) ∧
      ∀ l, l < 32 → t.curThread l = if s.cur.lanes.getLsbD l then
        laneAfter f.hdr (fun x => if p.2 = 4 then x else x.setReg f.dst.toNat ((t.curThread l).reg f.dst.toNat)) (s.curThread l) else s.curThread l) ∧
  (∀ p ∈ stageWords, ∀ (f : FmtE) (s : State), s.curKind = .simt → s.cur.lanes ≠ 0 → (∀ l ∈ s.active f.hdr, (s.curThread l).tx.depth = 0) → ¬ RoleIs s 1 →
    exec (p.1 f) s = .next (s.stopWord noRunAhead (.trap { cause := 0x04, lane := s.lowLane }))) ∧
  (∀ p ∈ stageWords, ∀ (f : FmtE) (s : State), s.curKind = .host ∨ s.curKind = .func → exec (p.1 f) s = .next s.illegal) ∧
  (∀ p ∈ stageWords, ∀ (f : FmtE) (s : State), s.curKind = .booth → exec (p.1 f) s = .next s.goHome)) ∧
  (
  (∀ p ∈ barrowWords, ∀ (f : FmtE) (s s1 : State) (bs : List (Nat × List Byte)), s.curKind = .host ∨ s.curKind = .simt ∧ RoleIs s 1 → MayCommand s f.hdr →
    (∀ o ∈ (s.core s.cur.unit).barrowWait, o.stripe ≠ s.cur.stripe) → s.RegsReady f.hdr [f.sa.toNat, f.sa.toNat + 1, f.dst.toNat] →
    (∀ l ∈ s.active f.hdr, ptrSpace ((s.curThread l).pair f.sa.toNat).toNat = 0) →
    s.readBlocks 4 [f.dst.toNat] ((s.active f.hdr).map fun l => (l, ((s.curThread l).pair f.sa.toNat).toNat)) = .ok (s1, bs) →
    let e := f.imm8.toNat % 2
    let sl := sliceOf s.cur.unit
    let ops := bs.map fun x => barrowOp s1 p.2 x.1 x.2
    s1.barrowCheck ops (fun l => ((s.curThread l).pair f.sa.toNat).toNat) = none →
    Tab.get s.curStripe.counters 3 0 + ops.length ≤ 63 → (s.barrow sl e).ops.length + ops.length ≤ 256 →
    ∃ (t : State) (new : List BarrowOp), exec (p.1 f) s = .next t ∧ (t.barrow sl e).ops = (s.barrow sl e).ops ++ new ∧
      new.map (fun o => { o with tag := 0, issue := 0 }) = ops.map (fun o => { o with issue := 0 }) ∧ new.Pairwise (fun x y => x.issue < y.issue) ∧
      ((new.map BarrowOp.tag).Nodup ∧ ∀ o ∈ new, ∀ x ∈ (s.barrow sl e).ops, x.tag ≠ o.tag) ∧
      Tab.get t.curStripe.counters 3 0 = Tab.get s.curStripe.counters 3 0 + ops.length ∧ (∀ o ∈ new, (t.curThread o.lane).reg f.dst.toNat = BitVec.ofNat 32 o.tag) ∧
      MemKept s1 t ∧ SpadKept s t ∧ WordOver s t fun l => laneAfter f.hdr fun x => x.setReg f.dst.toNat ((t.curThread l).reg f.dst.toNat)) ∧
  (∀ p ∈ barrowWords, ∀ (f : FmtE) (s s1 : State) (bs : List (Nat × List Byte)) (tr : Trap), s.curKind = .host ∨ s.curKind = .simt ∧ RoleIs s 1 → MayCommand s f.hdr →
    (∀ o ∈ (s.core s.cur.unit).barrowWait, o.stripe ≠ s.cur.stripe) → s.RegsReady f.hdr [f.sa.toNat, f.sa.toNat + 1, f.dst.toNat] →
    (∀ l ∈ s.active f.hdr, ptrSpace ((s.curThread l).pair f.sa.toNat).toNat = 0) →
    s.readBlocks 4 [f.dst.toNat] ((s.active f.hdr).map fun l => (l, ((s.curThread l).pair f.sa.toNat).toNat)) = .ok (s1, bs) →
    s1.barrowCheck (bs.map fun x => barrowOp s1 p.2 x.1 x.2) (fun l => ((s.curThread l).pair f.sa.toNat).toNat) = some tr →
    exec (p.1 f) s = .next (s1.stopWord noRunAhead (.trap tr))))

namespace Sys2Proof.Slice0
open Sys2Proof.Machine

/-- The source registers of CHSEND (R263, R264). -/
def sendRegs (f : FmtE) : List Nat := if f.x.getLsbD 8 then [f.sa.toNat, f.sa.toNat + 1] else chanRegs f.sa f
/-- The registers of CHRECV (R263, R265). -/
def recvRegs (f : FmtE) : List Nat := (if f.x.getLsbD 8 then [f.sa.toNat, f.sa.toNat + 1] else []) ++ chanRegs f.dst f
/-- The scratchpad offset that the pointer of a lane names. -/
def spadPtr (f : FmtE) (s : State) (l : Nat) : Nat := ptrOff ((s.curThread l).pair f.sa.toNat).toNat

/-- A channel word of one lane whose checks pass (R263). -/
structure ChanReady (s : State) (f : FmtE) (l : Nat) (ch : Channel) (regs : List Nat) : Prop where
  kind  : s.curKind = .simt
  one   : s.active f.hdr = [l]
  plain : (s.curThread l).tx.depth = 0
  fresh : (s.curThread l).done = false
  regs  : s.RegsReady f.hdr regs
  check : s.chanCheck f [l] = .ok ch

end Sys2Proof.Slice0

open Sys2Proof Sys2Proof.Machine Sys2Proof.Slice0

/-- CHSEND takes a credit, sends its message of registers or of scratchpad bytes to the next slot of the receiver and raises the X counter; to a receiver that is gone it only moves on; without a credit it blocks (R128, R129, R263, R264). CHRECV takes the message of the head slot into its registers, or to its scratchpad pointer with every granule full, empties the slot's granules, moves to the next slot and returns a credit; a slot that is not full blocks it, on a closed channel it raises CHAN; CHPOLL writes the status word (R128, R129, R263, R265, R266). Where the rules leave a point open the statement has the model's choice: log 36. -/
def Obligations.ChannelsMoveMessages : Prop :=
  (
  ∀ i ∈ [(Instr.chsend : FmtE → Instr), .chsendS], ∀ (f : FmtE) (s : State) (l : Nat) (ch : Channel), ChanReady s f l ch (sendRegs f) →
    (f.x.getLsbD 8 = true → ((s.core s.cur.unit).readSram (spadPtr f s l) ch.slotBytes).2 = false) →
    let k := f.imm8.toNat % 16
    (ch.peerGone = false → 0 < ch.credits → Tab.get s.curStripe.counters 4 0 < 63 →
      ∃ t, exec (i f) s = .next t ∧ (∀ u i j, u ≠ s.cur.unit ∨ i ≠ s.cur.stripe → t.thread u i j = s.thread u i j) ∧
        (∀ u, { (t.core u).still with chans := [] } = { (s.core u).still with chans := [] }) ∧
        (∀ j, j < 32 → t.curThread j = if s.cur.lanes.getLsbD j then (s.curThread j).advance f.hdr.b else s.curThread j) ∧ MemKept s t ∧ SpadKept s t ∧
        Tab.get t.curStripe.counters 4 0 = Tab.get s.curStripe.counters 4 0 + 1 ∧
        (∃ c, Tab.find (t.core s.cur.unit).chans k = some c ∧ c.credits + 1 = ch.credits ∧ c.si = (ch.si + 1) % (ch.nsl + 1)) ∧
        ∀ r, Tab.find (s.core ch.toUnit).chans k = some r → ∃ c, Tab.find (t.core ch.toUnit).chans k = some c ∧
          c.flight = r.flight ++ [{ stripe := s.cur.stripe, slot := ch.si, bytes := s.chanBytes f ch l }]) ∧
    (ch.peerGone = true → ∃ t, exec (i f) s = .next t ∧ LaneEffect s t f.hdr.b fun _ x => x.advance f.hdr.b) ∧
    (ch.peerGone = false → ch.credits = 0 → exec (i f) s = .next (s.blockWord (.credit k)))) ∧
  (
  (∀ i ∈ [(Instr.chrecv : FmtE → Instr), .chrecvS], ∀ (f : FmtE) (s : State) (l : Nat) (ch : Channel), ChanReady s f l ch (recvRegs f) →
    let k := f.imm8.toNat % 16
    let c := s.core s.cur.unit
    let off := ch.slotOff ch.hi
    c.clearing.contains ch.bank = false →
    (c.slotFull ch ch.hi = true → (c.readSram off ch.slotBytes).2 = false →
      ∃ t, exec (i f) s = .next t ∧ MemKept s t ∧ (∀ u i j, u ≠ s.cur.unit ∨ i ≠ s.cur.stripe → t.thread u i j = s.thread u i j) ∧
        (∀ u, { (t.core u).still with chans := [] } = { (s.core u).still with chans := [] }) ∧
        (∃ x, Tab.find (t.core s.cur.unit).chans k = some x ∧ x.hi = (ch.hi + 1) % (ch.nsl + 1)) ∧
        (ch.senderGone = false → ∀ r, Tab.find (s.core ch.fromUnit).chans k = some r → ∃ x, Tab.find (t.core ch.fromUnit).chans k = some x ∧ x.returns = r.returns + 1) ∧
        (f.x.getLsbD 8 = false → SpadKept { s with cores := Tab.set s.cores s.cur.unit { c with fbits := (t.core s.cur.unit).fbits } } t ∧ (∀ g ∈ granRange off ch.slotBytes, (t.core s.cur.unit).full g = false) ∧
          ∀ j, j < 32 → t.curThread j = if s.cur.lanes.getLsbD j then
            laneAfter f.hdr (fun x => x.setRegs f.dst.toNat ((List.range (f.x.toNat % 16 + 1)).map fun n => BitVec.ofNat 32 (field (bytesGet c.sram off ch.slotBytes) (4 * n) 4))) (s.curThread j) else s.curThread j) ∧
        (f.x.getLsbD 8 = true → bytesGet (t.core s.cur.unit).sram (spadPtr f s l) ch.slotBytes = bytesGet c.sram off ch.slotBytes ∧
          (∀ b, b < spadPtr f s l ∨ spadPtr f s l + ch.slotBytes ≤ b → bytesAt (t.core s.cur.unit).sram b = bytesAt c.sram b) ∧
          (∀ g ∈ granRange (spadPtr f s l) ch.slotBytes, (t.core s.cur.unit).full g = true) ∧
          ∀ j, j < 32 → t.curThread j = if s.cur.lanes.getLsbD j then (s.curThread j).advance f.hdr.b else s.curThread j)) ∧
    (c.slotFull ch ch.hi = false → ch.closed = false → exec (i f) s = .next (s.blockWord (.slot k))) ∧
    (c.slotFull ch ch.hi = false → ch.closed = true → exec (i f) s = .next (s.stopWord noRunAhead (.trap { cause := 0x16, dcode := 0x1F, lane := l })))) ∧
  (∀ (f : FmtE) (s : State) (ch : Channel), s.curKind = .simt → s.active f.hdr ≠ [] → s.RegsReady f.hdr [f.dst.toNat] → Tab.find (s.core s.cur.unit).chans (f.imm8.toNat % 16) = some ch →
    s.Did (.chpoll f) f.hdr fun t => t.setReg f.dst.toNat ((s.core s.cur.unit).chanStatus ch)) ∧
  (∀ (f : FmtE) (s : State) (low : Nat), s.curKind = .simt → (s.active f.hdr).head? = some low → s.RegsReady f.hdr [f.dst.toNat] → Tab.find (s.core s.cur.unit).chans (f.imm8.toNat % 16) = none →
    exec (.chpoll f) s = .next (s.stopWord noRunAhead (.trap { cause := 0x16, dcode := 0x1D, lane := low }))))

namespace Sys2Proof.Slice0
open Sys2Proof.Machine

/-- What a gang word brings to its rendezvous: its key, the registers it names, the register of its mask, its operands, and whether it holds its lanes. -/
structure GangRow where
  word  : FmtE → Instr
  key   : FmtE → Nat
  regs  : FmtE → List Nat
  mreg  : FmtE → Option Nat := fun f => if f.x.getLsbD 8 then some f.sc.toNat else none
  dsts  : FmtE → List Nat := fun _ => []
  a     : FmtE → Thread → Nat := fun _ _ => 0
  b     : FmtE → Thread → Nat := fun _ _ => 0
  dst   : FmtE → Nat := fun _ => 128
  pd    : FmtE → Nat := fun _ => 7
  holds : Bool := true
  /-- What else the word checks (R132, R179, R180, R303, R320). -/
  pre   : State → FmtE → Prop := fun _ _ => True

/-- The mask that a lane names (R147). -/
def GangRow.maskOf (w : GangRow) (f : FmtE) (t : Thread) : LaneMask :=
  match w.mreg f with
  | some r => t.reg r
  | none => 0xFFFFFFFF

/-- The arrival of a lane (R149). -/
def GangRow.arrival (w : GangRow) (f : FmtE) (s : State) (l : Nat) : Arrival :=
  { stripe := s.cur.stripe, lane := l, a := w.a f (s.curThread l), b := w.b f (s.curThread l), dst := w.dst f, pd := w.pd f }

/-- The checks of a matrix command before its operands (R180, R303). -/
def MatrixMayIssue (claim : Bool) (s : State) (h : Hdr) : Prop :=
  MayCommand s h ∧ RoleIs s 2 ∧ ∀ l ∈ s.active h, (s.curThread l).deferred = none ∧ (claim = true → s.claimOk l = true)

/-- The key of a TAKE or GIVE: its opcode and .try (R148, R267). -/
def takeKey (opc : Nat) (f : FmtE) : Nat := 2 * opc + if f.x.getLsbD 7 then 1 else 0
/-- The predicate of a .try form (R267). -/
def takePd (f : FmtE) : Nat := if f.x.getLsbD 7 then bits f.x.toNat 6 4 else 7
/-- A till access of every active lane passes the owner test (R132). -/
def TillOk (s : State) (f : FmtE) : Prop := ∀ l ∈ s.active f.hdr, s.tillOk s.cur.unit s.cur.stripe l = true

/-- The gang words (R146, R149, R267, R307, R309, R320, R335 to R338). -/
def gangRows : List GangRow :=
  [{ word := .takeR, key := takeKey 0x198, regs := fun f => [f.sb.toNat], a := fun f t => (t.reg f.sb.toNat).toNat, pd := takePd },
   { word := .takeS, key := takeKey 0x199, regs := fun f => [f.dst.toNat], dst := fun f => f.dst.toNat, pd := takePd },
   { word := .takeK, key := takeKey 0x19A, regs := fun f => [f.sb.toNat, f.dst.toNat], a := fun f t => (t.reg f.sb.toNat).toNat, dst := fun f => f.dst.toNat, pd := takePd, pre := TillOk },
   { word := .giveR, key := takeKey 0x19C, regs := fun f => [f.sb.toNat], a := fun f t => (t.reg f.sb.toNat).toNat, pd := takePd },
   { word := .giveS, key := takeKey 0x19D, regs := fun f => [f.sb.toNat], a := fun f t => (t.reg f.sb.toNat).toNat, pd := takePd },
   { word := .giveK, key := takeKey 0x19E, regs := fun f => [f.sb.toNat], a := fun f t => (t.reg f.sb.toNat).toNat, pd := takePd, pre := TillOk },
   { word := .mxclaim, key := fun _ => 0x200, regs := fun _ => [], pd := fun f => bits f.x.toNat 6 4, pre := fun s f => MatrixMayIssue false s f.hdr },
   { word := .mxfree, key := fun _ => 0x201, regs := fun _ => [], pre := fun s f => MatrixMayIssue false s f.hdr },
   { word := .mxmul, key := fun f => if f.x.getLsbD 8 then 0x603 else 0x203, regs := fun f => [f.sa.toNat, f.sa.toNat + 1, f.sb.toNat, f.sb.toNat + 1, f.sc.toNat, f.sc.toNat + 1],
     mreg := fun f => if f.x.getLsbD 8 then some f.dst.toNat else none, a := fun f t => (t.pair f.sa.toNat).toNat,
     b := fun f t => (t.pair f.sb.toNat).toNat + 2 ^ 64 * (t.pair f.sc.toNat).toNat, pre := fun s f => MatrixMayIssue true s f.hdr ∧ TillOk s f },
   { word := .txendG, key := fun _ => 0x211, regs := fun _ => [], pre := fun s f => ∀ l ∈ s.active f.hdr, (s.curThread l).tx.depth ≤ 1 },
   { word := .gvote, key := gangKey 0x302, regs := fun f => [f.dst.toNat], dsts := fun f => [f.dst.toNat], a := fun f t => if t.pred (f.sa.toNat % 8) then 1 else 0,
     dst := fun f => f.dst.toNat, pd := fun f => if bits f.x.toNat 6 4 = 0 then 7 else bits f.x.toNat 6 4, holds := false },
   { word := .gshfl, key := gangKey 0x303, regs := fun f => [f.sa.toNat, f.sb.toNat, f.dst.toNat], dsts := fun f => [f.dst.toNat], a := fun f t => (t.reg f.sa.toNat).toNat,
     b := fun f t => (t.reg f.sb.toNat).toNat, dst := fun f => f.dst.toNat, holds := false },
   { word := .gred, key := gangKey 0x304, regs := fun f => [f.sa.toNat, f.dst.toNat], dsts := fun f => [f.dst.toNat], a := fun f t => (t.reg f.sa.toNat).toNat, dst := fun f => f.dst.toNat, holds := false },
   { word := .gelect, key := gangKey 0x305, regs := fun f => [f.dst.toNat], dsts := fun f => [f.dst.toNat], dst := fun f => f.dst.toNat, pd := fun f => bits f.x.toNat 6 4, holds := false }]

/-- A gang word whose checks pass: on a SIMT core, its lanes alive members of the gang whose masks agree and hold them (R146 to R148). -/
structure MayArrive (w : GangRow) (f : FmtE) (s : State) (m : LaneMask) : Prop where
  kind    : s.curKind = .simt
  stripe  : s.cur.stripe < 16
  some    : s.active f.hdr ≠ []
  regs    : s.RegsReady f.hdr (w.regs f ++ (w.mreg f).toList)
  masks   : ∀ l ∈ s.active f.hdr, w.maskOf f (s.curThread l) = m ∧ m.getLsbD l = true
  members : ∀ l ∈ s.active f.hdr, (s.curThread l).alive = true ∧ (s.curThread l).gangs.getLsbD (f.imm8.toNat % 32) = true
  pre     : w.pre s f

/-- What an arrived lane looks like: held, or on its way with an empty destination (R149). -/
def arrived (w : GangRow) (f : FmtE) (x : Thread) : Thread :=
  if w.holds then { x with status := .waiting (.gang (f.imm8.toNat % 32)) } else (w.dsts f).foldl Thread.mark x

end Sys2Proof.Slice0

open Sys2Proof Sys2Proof.Machine Sys2Proof.Slice0

/-- A gang word opens the gang's rendezvous, with the members its mask selects as participants, or joins the open one: every active lane arrives with its operands and is held, or goes on with its destination empty. A lane that is no member, or that its mask leaves out, traps and none arrives (R146, R147, R149, R155, R267, R307, R309, R320, R335). GJOIN and GLEAVE set and clear the membership bit of every active lane; leaving a gang that a lane is no member of raises GANG "member" (R145, R336). Where the rules leave a point open the statement has the model's choice: log 39. -/
def Obligations.GangWordsArriveAndMembershipChanges : Prop :=
  (
  (∀ w ∈ gangRows, ∀ (f : FmtE) (s : State) (m : LaneMask), MayArrive w f s m → Tab.find (s.core s.cur.unit).gangs (f.imm8.toNat % 32) = none →
    ∃ (t : State) (r : Rendezvous), exec (w.word f) s = .next t ∧ Tab.find (t.core s.cur.unit).gangs (f.imm8.toNat % 32) = some r ∧
      r.word = w.key f ∧ r.mask = m ∧ r.arrivals = (s.active f.hdr).map (w.arrival f s) ∧
      (∀ j k, (j, k) ∈ r.parts ↔ j < 16 ∧ k < 32 ∧ (s.thread s.cur.unit j k).alive = true ∧ (s.thread s.cur.unit j k).gangs.getLsbD (f.imm8.toNat % 32) = true ∧ m.getLsbD k = true ∧
        ¬ (j = s.cur.stripe ∧ s.cur.lanes.getLsbD k = true ∧ k ∉ s.active f.hdr)) ∧
      (∀ l, l < 32 → t.curThread l = if s.cur.lanes.getLsbD l then laneAfter f.hdr (arrived w f) (s.curThread l) else s.curThread l) ∧
      (∀ u i l, u ≠ s.cur.unit ∨ i ≠ s.cur.stripe → t.thread u i l = s.thread u i l) ∧ BytesKept s t) ∧
  (∀ w ∈ gangRows, ∀ (f : FmtE) (s : State) (m : LaneMask) (r0 : Rendezvous), MayArrive w f s m → Tab.find (s.core s.cur.unit).gangs (f.imm8.toNat % 32) = some r0 →
    r0.word = w.key f → r0.mask = m → (∀ l ∈ s.active f.hdr, r0.awaits s.cur.stripe l = true) →
    ∃ (t : State) (r : Rendezvous), exec (w.word f) s = .next t ∧ Tab.find (t.core s.cur.unit).gangs (f.imm8.toNat % 32) = some r ∧
      r.word = r0.word ∧ r.mask = m ∧ r.arrivals = r0.arrivals ++ (s.active f.hdr).map (w.arrival f s) ∧ (∀ p ∈ r.parts, p ∈ r0.parts) ∧
      (∀ l, l < 32 → t.curThread l = if s.cur.lanes.getLsbD l then laneAfter f.hdr (arrived w f) (s.curThread l) else s.curThread l) ∧
      (∀ u i l, u ≠ s.cur.unit ∨ i ≠ s.cur.stripe → t.thread u i l = s.thread u i l) ∧ BytesKept s t) ∧
  (∀ w ∈ gangRows, ∀ (f : FmtE) (s : State) (l : Nat), s.curKind = .simt → s.active f.hdr = [l] → s.RegsReady f.hdr (w.regs f ++ (w.mreg f).toList) → w.pre s f →
    ((w.maskOf f (s.curThread l)).getLsbD l = false → ∃ r : State, exec (w.word f) s = .next (r.stopWord noRunAhead (.trap { cause := 0x08, lane := l })) ∧ r.mem = s.mem ∧ ∀ u i j, r.thread u i j = s.thread u i j) ∧
    ((w.maskOf f (s.curThread l)).getLsbD l = true → (s.curThread l).gangs.getLsbD (f.imm8.toNat % 32) = false →
      ∃ r : State, exec (w.word f) s = .next (r.stopWord noRunAhead (.trap { cause := 0x15, dcode := 0x21, lane := l })) ∧ r.mem = s.mem ∧ ∀ u i j, r.thread u i j = s.thread u i j))) ∧
  (
  (∀ (f : FmtE) (s : State), s.curKind = .simt → s.Did (.gjoin f) f.hdr fun t => { t with gangs := setBit t.gangs (f.imm8.toNat % 32) true }) ∧
  (∀ (f : FmtE) (s : State), s.curKind = .simt → (∀ l ∈ s.active f.hdr, (s.curThread l).gangs.getLsbD (f.imm8.toNat % 32) = true) →
    ∃ t, exec (.gleave f) s = .next t ∧ BytesKept s t ∧ (∀ u i l, u ≠ s.cur.unit ∨ i ≠ s.cur.stripe → t.thread u i l = s.thread u i l) ∧
      (∀ l, l < 32 → t.curThread l = if s.cur.lanes.getLsbD l then laneAfter f.hdr (fun x => { x with gangs := setBit x.gangs (f.imm8.toNat % 32) false }) (s.curThread l) else s.curThread l) ∧
      ∀ r, Tab.find (t.core s.cur.unit).gangs (f.imm8.toNat % 32) = some r → ∀ l ∈ s.active f.hdr, r.awaits s.cur.stripe l = false) ∧
  (∀ (f : FmtE) (s : State) (l : Nat), s.curKind = .simt → (s.active f.hdr).find? (fun l => !(s.curThread l).gangs.getLsbD (f.imm8.toNat % 32)) = some l →
    exec (.gleave f) s = .next (s.stopWord noRunAhead (.trap { cause := 0x15, dcode := 0x21, lane := l }))))

namespace Sys2Proof.Slice0
open Sys2Proof.Machine

/-- Each lane l of the issuing group is f l of what it was; no other thread has changed. -/
def ThreadsTo (s t : State) (f : Nat → Thread → Thread) : Prop :=
  (∀ l, l < 32 → t.curThread l = if s.cur.lanes.getLsbD l then f l (s.curThread l) else s.curThread l) ∧
  ∀ u i l, u ≠ s.cur.unit ∨ i ≠ s.cur.stripe → t.thread u i l = s.thread u i l

/-- The status of a thread that waits in RGET on ring q. -/
def onRing (q : Nat) : Status → Bool
  | .waiting (.ring k _ _) => k == q
  | _ => false

/-- The barrier words that arrive: destinations, drop, hold (R340, R341). -/
def arriveWords : List ((FmtE → Instr) × (FmtE → List Nat) × Bool × Bool) :=
  [(.bararr, fun f => [f.dst.toNat], false, false), (.barsync, fun _ => [], false, true), (.bardrop, fun _ => [], true, false)]

/-- A barrier word that may act: on a SIMT core, with an active lane, on a barrier of the team (R340). -/
def BarrierAt (s : State) (f : FmtE) (b : Bool × Nat) : Prop := s.curKind = .simt ∧ s.active f.hdr ≠ [] ∧ s.barrierOf s.cur.unit f.imm8.toNat = some b

/-- A transaction gone back to its start (R325, R326). -/
def TxAborted (x y : Thread) (cause : BitVec 32) : Prop :=
  y.tx.depth = 0 ∧ y.txcause = cause ∧ y.pc = x.tx.target ∧ y.preds = x.tx.check.preds ∧ y.run = 0 ∧
    (x.tx.check.g.length = 32 → ∀ r, r < 32 → y.reg r = x.tx.check.g.getD r 0 ∧ y.empty.getLsbD r = false) ∧ ∀ r, 32 ≤ r → x.tx.check.g.length = 32 → y.reg r = x.reg r

end Sys2Proof.Slice0

open Sys2Proof Sys2Proof.Machine Sys2Proof.Slice0

/-- One arrival raises ARR, and with BARDROP the drop count; when ARR reaches EXP the phase completes: PH rises, EXP loses the drops and the counts return to zero. BARARR writes the phase in which each lane arrived, BARSYNC holds the lanes whose phase is still open; an over-arrival raises BAROVER and no lane arrives (R341, R343, R345). -/
def Obligations.BarrierArrivalsCount : Prop :=
  (∀ w ∈ arriveWords, ∀ (f : FmtE) (s : State) (b : Bool × Nat) (l : Nat), BarrierAt s f b → s.active f.hdr = [l] → s.RegsReady f.hdr (w.2.1 f) →
    s.pending s.cur.unit s.cur.stripe l b.1 false false = false →
    let x := s.barrier s.cur.unit b
    x.exp ≠ 0 → (s.cur.unit, s.cur.stripe, l) ∉ x.who →
    ∃ t, exec (w.1 f) s = .next t ∧ MemKept s t ∧ SpadKept s t ∧
      let drop := x.drop + if w.2.2.1 then 1 else 0
      (x.arr + 1 ≠ x.exp → t.barrier s.cur.unit b = { x with arr := x.arr + 1, drop := drop, who := x.who ++ [(s.cur.unit, s.cur.stripe, l)] } ∧
        ThreadsTo s t fun _ => laneAfter f.hdr fun y => { (w.2.1 f).foldl (fun y r => y.setReg r x.ph) y with status := if w.2.2.2 then .waiting (.barrier b.1 b.2 x.ph) else y.status }) ∧
      (x.arr + 1 = x.exp → t.barrier s.cur.unit b = { ph := x.ph + 1, exp := x.exp - drop, arr := 0, drop := 0, who := [] } ∧
        ThreadsTo s t fun _ => laneAfter f.hdr fun y => (w.2.1 f).foldl (fun y r => y.setReg r x.ph) y)) ∧
  (∀ w ∈ arriveWords, ∀ (f : FmtE) (s : State) (b : Bool × Nat) (x : Barrier) (ps : List (Nat × BitVec 32)), BarrierAt s f b → s.RegsReady f.hdr (w.2.1 f) →
    (∀ l ∈ s.active f.hdr, s.pending s.cur.unit s.cur.stripe l b.1 false false = false) →
    (s.barrier s.cur.unit b).arriveAll s.cur.unit s.cur.stripe w.2.2.1 (s.active f.hdr) = .ok (x, ps) →
    ∃ t, exec (w.1 f) s = .next t ∧ MemKept s t ∧ SpadKept s t ∧ t.barrier s.cur.unit b = x ∧ ps.map (·.1) = s.active f.hdr ∧
      ∀ p ∈ ps, (∀ r ∈ w.2.1 f, (t.curThread p.1).reg r = p.2) ∧ (t.curThread p.1).pc = (s.curThread p.1).pc + 8 ∧
        (t.curThread p.1).status = if w.2.2.2 = true ∧ p.2 = x.ph then .waiting (.barrier b.1 b.2 p.2) else (s.curThread p.1).status) ∧
  (∀ w ∈ arriveWords, ∀ (f : FmtE) (s : State) (b : Bool × Nat) (l : Nat), BarrierAt s f b → s.RegsReady f.hdr (w.2.1 f) →
    (∀ l ∈ s.active f.hdr, s.pending s.cur.unit s.cur.stripe l b.1 false false = false) →
    let x := s.barrier s.cur.unit b
    x.arriveAll s.cur.unit s.cur.stripe w.2.2.1 (s.active f.hdr) = .error l →
    exec (w.1 f) s = .next (s.stopWord noRunAhead (.trap { cause := 0x14, lane := l, det := [BitVec.ofNat 32 (f.imm8.toNat % 64 + x.exp % 2 ^ 13 * 2 ^ 6 + x.arr % 2 ^ 13 * 2 ^ 19), x.ph] })))

/-- BARINIT sets EXP and clears DROP, completing the phase when ARR has reached it, or raises XREG "barrier" on a count out of range; BARWAIT lets a lane pass exactly when the phase of its token has completed (R340, R342, R344). RINGINIT sets up a ring that has slots and raises XREG "ring" on one that has none, RFREE closes a ring, and a thread that waits on it in RGET wakes to the XREG trap of its word; RPUT flips one phase bit, RGET passes when the bit has its value and waits otherwise; a slot that the ring has not raises XREG "ring" (R159, R160, R161, R346). Where the rules leave a point open the statement has the model's choice: log 45. -/
def Obligations.BarriersAndRingsWait : Prop :=
  (
  (∀ (f : FmtE) (s : State) (b : Bool × Nat) (low : Nat), BarrierAt s f b → (s.active f.hdr).head? = some low → s.LanesReady [low] [f.sb.toNat] →
    let n := ((s.curThread low).reg f.sb.toNat).toNat
    let x := s.barrier s.cur.unit b
    (0 < n → n ≤ (if b.1 then 4096 else 512) → ∃ t, exec (.barinit f) s = .next t ∧ BytesKept s t ∧ ThreadsTo s t (fun _ y => y.advance f.hdr.b) ∧
      t.barrier s.cur.unit b = if n ≤ x.arr then { ph := x.ph + 1, exp := n, arr := 0, drop := 0, who := [] } else { x with exp := n, drop := 0 }) ∧
    (n = 0 ∨ (if b.1 then 4096 else 512) < n → exec (.barinit f) s = .next (s.stopWord noRunAhead (.trap { cause := 0x05, dcode := 0x25, lane := low })))) ∧
  (∀ (f : FmtE) (s : State) (b : Bool × Nat), BarrierAt s f b → s.RegsReady f.hdr [f.sb.toNat] →
    let past (l : Nat) : Prop := 0 < ((s.barrier s.cur.unit b).ph - (s.curThread l).reg f.sb.toNat).toNat ∧ ((s.barrier s.cur.unit b).ph - (s.curThread l).reg f.sb.toNat).toNat < 2 ^ 31
    ((∀ l ∈ s.active f.hdr, past l) → ∃ t, exec (.barwait f) s = .next t ∧ BytesKept s t ∧ t.barrier s.cur.unit b = s.barrier s.cur.unit b ∧ ThreadsTo s t fun _ y => y.advance f.hdr.b) ∧
    ((∀ l ∈ s.active f.hdr, ¬ past l) → ∃ t, exec (.barwait f) s = .next t ∧ BytesKept s t ∧ t.barrier s.cur.unit b = s.barrier s.cur.unit b ∧
      ∀ l ∈ s.active f.hdr, t.curThread l = { s.curThread l with status := .waiting (.barrier b.1 b.2 ((s.curThread l).reg f.sb.toNat)) })) ∧
  (∀ i ∈ [(Instr.barinit : FmtE → Instr), .bararr, .barwait, .barsync, .bardrop], ∀ (f : FmtE) (s : State) (low : Nat), s.curKind = .simt → (s.active f.hdr).head? = some low →
    s.RegsReady f.hdr [f.sb.toNat, f.dst.toNat] → s.barrierOf s.cur.unit f.imm8.toNat = none → exec (i f) s = .next (s.stopWord noRunAhead (.trap { cause := 0x05, dcode := 0x25, lane := low })))) ∧
  (
  (∀ p ∈ [((Instr.ringinit : FmtE → Instr), true), (.rfree, false)], ∀ (f : FmtE) (s : State), s.curKind = .simt → s.active f.hdr ≠ [] →
    let q := f.imm8.toNat % 16
    (p.2 = true → ((s.core s.cur.unit).ring q).ns ≠ 0) →
    let woken (y : Thread) : Thread := if onRing q y.status then { y with status := .ready, done := true } else y
    ∃ t, exec (p.1 f) s = .next t ∧ BytesKept s t ∧
      (∀ l, l < 32 → t.curThread l = if s.cur.lanes.getLsbD l then (woken (s.curThread l)).advance f.hdr.b else woken (s.curThread l)) ∧
      (∀ u i l, u ≠ s.cur.unit ∨ i ≠ s.cur.stripe → t.thread u i l = if u = s.cur.unit then woken (s.thread u i l) else s.thread u i l) ∧
      ∀ k, (t.core s.cur.unit).ring k = if k = q then { ns := if p.2 then f.imm8.toNat / 16 + 1 else 0, ph := 0 } else (s.core s.cur.unit).ring k) ∧
  (∀ (f : FmtE) (s : State) (r : Ring), s.curKind = .simt → s.active f.hdr ≠ [] → Tab.find (s.core s.cur.unit).rings (f.imm8.toNat % 16) = some r → f.imm8.toNat / 16 < r.ns →
    (∀ l ∈ s.active f.hdr, s.pending s.cur.unit s.cur.stripe l false false false = false) →
    ∃ t r', exec (.rput f) s = .next t ∧ BytesKept s t ∧ ThreadsTo s t (fun _ y => y.advance f.hdr.b) ∧ Tab.find (t.core s.cur.unit).rings (f.imm8.toNat % 16) = some r' ∧ r'.ns = r.ns ∧
      ∀ k, k < 16 → r'.ph.getLsbD k = (r.ph.getLsbD k != decide (k = f.imm8.toNat / 16))) ∧
  (∀ (f : FmtE) (s : State), s.curKind = .simt → s.active f.hdr ≠ [] →
    let r := (s.core s.cur.unit).ring (f.imm8.toNat % 16)
    let kept : Prop := ∀ l ∈ s.active f.hdr, (s.curThread l).done = false
    (kept → f.imm8.toNat / 16 < r.ns → r.ph.getLsbD (f.imm8.toNat / 16) = f.x.getLsbD 0 → ∃ t, exec (.rget f) s = .next t ∧ LaneEffect s t f.hdr.b fun _ y => y.advance f.hdr.b) ∧
    (kept → f.imm8.toNat / 16 < r.ns → r.ph.getLsbD (f.imm8.toNat / 16) ≠ f.x.getLsbD 0 → exec (.rget f) s = .next (s.blockWord (.ring (f.imm8.toNat % 16) (f.imm8.toNat / 16) (f.x.getLsbD 0)))) ∧
    (∀ low, (s.active f.hdr).head? = some low → (∃ l ∈ s.active f.hdr, (s.curThread l).done = true) → exec (.rget f) s = .next (s.stopWord noRunAhead (.trap { cause := 0x05, dcode := 0x26, lane := low }))) ∧
    (∀ low, (s.active f.hdr).head? = some low → r.ns = 0 → exec (.ringinit f) s = .next (s.stopWord noRunAhead (.trap { cause := 0x05, dcode := 0x26, lane := low }))) ∧
    (∀ i ∈ [(Instr.rput : FmtE → Instr), .rget], ∀ low, (s.active f.hdr).head? = some low → r.ns ≤ f.imm8.toNat / 16 →
      exec (i f) s = .next (s.stopWord noRunAhead (.trap { cause := 0x05, dcode := 0x26, lane := low })))))

/-- TXBEGIN opens a transaction with its checkpoint at depth 0, deepens an open one and aborts one at depth 8; TXABORT returns its lanes to the checkpoint and the abort target with sr.txcause; TXEND lowers an inner level, ends an empty transaction with success and hands a log to the commit units (R315, R316, R320, R322, R325, R326, R327). Where the rules leave a point open the statement has the model's choice: logs 37 and 78. -/
def Obligations.TransactionsBeginEndAndAbort : Prop :=
  (∀ (f : FmtE) (s : State), s.curKind = .simt ∨ s.curKind = .booth → s.active f.hdr ≠ [] →
    s.RegsReady f.hdr [f.sa.toNat, f.sa.toNat + 1, f.sb.toNat, f.sc.toNat, f.sc.toNat + 1] → s.txCheck f ((s.active f.hdr).filter fun l => (s.curThread l).tx.depth == 0) = none →
    ((∀ l ∈ s.active f.hdr, (s.curThread l).tx.depth ≠ 8) → s.Did (.txbegin f) f.hdr fun x =>
      { x with tx := if x.tx.depth = 0 then
          { depth := 1, log := ptrOff (x.pair f.sa.toNat).toNat, cap := (x.reg f.sb.toNat).toNat, count := 0, target := BitVec.ofNat 52 (x.pair f.sc.toNat).toNat,
            check := { g := (List.range 32).map x.reg, preds := x.preds, pc := x.pc } }
        else { x.tx with depth := x.tx.depth + 1 } }) ∧
    ∀ l ∈ s.active f.hdr, (s.curThread l).tx.depth = 8 → ∃ t, exec (.txbegin f) s = .next t ∧ TxAborted (s.curThread l) (t.curThread l) 6) ∧
  (∀ (f : FmtE) (s : State), s.curKind = .simt ∨ s.curKind = .booth → s.active f.hdr ≠ [] →
    ∃ t, exec (.txabort f) s = .next t ∧ BytesKept s t ∧
      ∀ l, l < 32 → (l ∈ s.active f.hdr → (s.curThread l).tx.depth ≠ 0 → TxAborted (s.curThread l) (t.curThread l) (BitVec.ofNat 32 (f.imm8.toNat * 2 ^ 16 + 4))) ∧
        ((l ∈ s.active f.hdr → (s.curThread l).tx.depth = 0) → t.curThread l = if s.cur.lanes.getLsbD l then (s.curThread l).advance f.hdr.b else s.curThread l)) ∧
  (∀ (f : FmtE) (s : State), s.curKind = .simt ∨ s.curKind = .booth → s.active f.hdr ≠ [] → (∀ c ∈ s.commits, c.unit ≠ s.cur.unit ∨ c.stripe ≠ s.cur.stripe) →
    ((∀ l ∈ s.active f.hdr, (s.curThread l).tx.depth ≠ 1) → s.Did (.txend f) f.hdr fun x => { x with tx := if 1 < x.tx.depth then { x.tx with depth := x.tx.depth - 1 } else x.tx }) ∧
    (∀ l, s.active f.hdr = [l] → (s.curThread l).tx.depth = 1 → (s.curThread l).tx.count = 0 → (s.curThread l).pc = s.cur.pc → s.pending s.cur.unit s.cur.stripe l true false false = false →
      s.txHeld (s.member s.cur.unit s.cur.stripe l) = none → s.Did (.txend f) f.hdr fun x => { x with tx := {}, txcause := 0 }) ∧
    (∀ l s1 es, s.active f.hdr = [l] → (s.curThread l).tx.depth = 1 → (s.curThread l).tx.count ≠ 0 → (s.curThread l).pc = s.cur.pc → s.pending s.cur.unit s.cur.stripe l true false false = false →
      s.txHeld (s.member s.cur.unit s.cur.stripe l) = none → (s.finishPlain f.hdr.b).txTranslateAll (s.member s.cur.unit s.cur.stripe l) (s.member s.cur.unit s.cur.stripe l).log = (s1, .ok es) →
      ∃ t c, exec (.txend f) s = .next t ∧ c ∈ t.commits ∧ c.unit = s.cur.unit ∧ c.stripe = s.cur.stripe ∧ c.lane = l ∧ c.count = (s.curThread l).tx.count ∧
        (∀ e, e ∈ es ↔ ∃ p ∈ c.entries, e ∈ p.2) ∧ t.curStripe.wait = some .commit ∧ SpadKept s t ∧
        -- The D bits of the pages that the log writes are set when the commit starts.
        MemKept (es.foldl (fun s2 e => if e.wmask = 0 then s2 else (s2.txLeaf (s.member s.cur.unit s.cur.stripe l) e).1) s1) t))

namespace Sys2Proof.Slice0
open Sys2Proof.Machine

/-- The engine has accepted the operation o (R182, R305): it stands last in its queue under its tag, its counter has risen, and the other queue is as before. -/
def Accepted (s t : State) (o : MatOp) (tag : Nat) : Prop :=
  let m := (s.core s.cur.unit).matrix
  let m' := (t.core s.cur.unit).matrix
  m'.queue = (if o.op = 7 then m.queue else m.queue ++ [{ o with tag := tag }]) ∧ m'.drain = (if o.op = 7 then m.drain ++ [{ o with tag := tag }] else m.drain) ∧
    m'.claim = m.claim ∧ m'.slots = m.slots ∧
    Tab.get t.curStripe.counters (if o.op = 7 then 2 else 1) 0 = Tab.get s.curStripe.counters (if o.op = 7 then 2 else 1) 0 + 1 ∧
    (o.op = 3 ∨ o.op = 4 ∨ o.op = 7 → (m.queue ++ m.drain).length < 256 → ∀ x ∈ m.queue ++ m.drain, x.op = 3 ∨ x.op = 4 ∨ x.op = 7 → x.tag ≠ tag)

/-- A word command of the matrix engine that issues at once: its lowest active lane's registers are ready, no stop is pending, and its queue and counter have room (R302, R303). -/
structure MatrixReady (s : State) (h : Hdr) (low : Nat) (regs : List Nat) (drain : Bool) : Prop where
  kind : s.curKind = .simt
  may  : MatrixMayIssue true s h
  head : (s.active h).head? = some low
  regs : s.LanesReady [low] regs
  room : s.matWait s.cur.unit s.cur.stripe drain = none
  stop : (s.core s.cur.unit).matrix.stop = none

/-- The pointer of a lane in the pair of SA. -/
def ptrOf (f : FmtE) (s : State) (l : Nat) : Nat := ((s.curThread l).pair f.sa.toNat).toNat

/-- The word of SB in a lane. -/
def sbOf (f : FmtE) (s : State) (l : Nat) : Word := (s.curThread l).reg f.sb.toNat

/-- The till's owner test of the lowest lane, from which privilege K frees MXZERO, MXSAVE and MXREST (R132, R303). -/
def TillOrK (s : State) (l : Nat) : Prop := s.curPriv.atK = true ∨ s.tillOk s.cur.unit s.cur.stripe l = true

/-- MXSAVE and MXREST with their operation. -/
def areaWords : List ((FmtE → Instr) × Nat) := [(.mxsave, 3), (.mxrest, 4)]

end Sys2Proof.Slice0

open Sys2Proof Sys2Proof.Machine Sys2Proof.Slice0

/-- MXLDB, MXDRAIN, MXZERO, MXSAVE and MXREST whose checks pass put one operation of the word into the engine's queue, with the block or the tiles they name; MXDRAIN, MXSAVE and MXREST write its tag into gD of the lowest active lane; no byte and no other register changes. Without the claim, or in another role, the word traps and queues nothing (R143, R180, R182, R302 to R305, R308, R310, R311, R312). MXRD queues the read of a row run, each active lane's registers empty until it is performed; MXWR queues the values of its source run; a row past 31 raises XREG "tile" (R152, R302, R304, R313). Where the rules leave a point open the statement has the model's choice: log 35. -/
def Obligations.MatrixWordsAreQueued : Prop :=
  (
  (∀ (f : FmtE) (s : State) (low : Nat) (bs : List Byte), MatrixReady s f.hdr low [f.sa.toNat, f.sa.toNat + 1] false →
    s.ownSpad s.cur.unit s.curPart (ptrOf f s low) 64 = none → ptrOf f s low % 16 = 0 → s.ownBlock s.cur.unit (ptrOf f s low) 64 = .ok bs →
    let o : MatOp := { s.matOp 0 (s.active f.hdr) with ptr := ptrOf f s low, block := bs, args := [f.imm8.toNat % 2] }
    s.ldbCheck o = none →
    ∃ t tag, exec (.mxldb f) s = .next t ∧ BytesKept s t ∧ Accepted s t o tag ∧ ThreadsTo s t fun _ x => x.advance f.hdr.b) ∧
  (∀ (f : FmtE) (s : State) (low : Nat) (bs : List Byte), MatrixReady s f.hdr low [f.sa.toNat, f.sa.toNat + 1, f.dst.toNat] true → s.tillOk s.cur.unit s.cur.stripe low = true →
    s.ownSpad s.cur.unit s.curPart (ptrOf f s low) 128 = none → ptrOf f s low % 128 = 0 → s.ownBlock s.cur.unit (ptrOf f s low) 128 = .ok bs →
    let o : MatOp := { s.matOp 7 (s.active f.hdr) with ptr := ptrOf f s low, block := bs }
    s.drainCheck o = none →
    ∃ t tag, exec (.mxdrain f) s = .next t ∧ BytesKept s t ∧ Accepted s t o tag ∧
      ThreadsTo s t fun l x => (if l = low then x.setReg f.dst.toNat (BitVec.ofNat 32 tag) else x).advance f.hdr.b) ∧
  (∀ (f : FmtE) (s : State) (low : Nat), MatrixReady s f.hdr low [f.sb.toNat] false → TillOrK s low → s.tileWordCheck low (sbOf f s low) = none →
    ∃ t tag, exec (.mxzero f) s = .next t ∧ BytesKept s t ∧
      Accepted s t { s.matOp 2 (s.active f.hdr) with ptr := ptrOf f s low, args := [bits (sbOf f s low).toNat 9 0, bits (sbOf f s low).toNat 21 16] } tag ∧ ThreadsTo s t fun _ x => x.advance f.hdr.b) ∧
  (∀ p ∈ areaWords, ∀ (f : FmtE) (s : State) (low : Nat), MatrixReady s f.hdr low [f.sa.toNat, f.sa.toNat + 1, f.sb.toNat, f.dst.toNat] false → TillOrK s low →
    s.tileWordCheck low (sbOf f s low) = none → ptrOf f s low % 128 = 0 →
    (ptrSpace (ptrOf f s low) = 0 ∧ ptrRank (ptrOf f s low) = 0 ∨ ptrSpace (ptrOf f s low) = 1 ∧ s.ownSpad s.cur.unit s.curPart (ptrOf f s low) (4096 * bits (sbOf f s low).toNat 21 16) = none) →
    ∃ t tag, exec (p.1 f) s = .next t ∧ BytesKept s t ∧
      Accepted s t { s.matOp p.2 (s.active f.hdr) with ptr := ptrOf f s low, args := [bits (sbOf f s low).toNat 9 0, bits (sbOf f s low).toNat 21 16] } tag ∧
      ThreadsTo s t fun l x => (if l = low then x.setReg f.dst.toNat (BitVec.ofNat 32 tag) else x).advance f.hdr.b) ∧
  (∀ i ∈ [(Instr.mxldb : FmtE → Instr), .mxdrain, .mxzero, .mxsave, .mxrest, .mxrd, .mxwr], ∀ (f : FmtE) (s : State), s.curKind = .simt → MayCommand s f.hdr →
    (∀ l ∈ s.active f.hdr, (s.curThread l).deferred = none) →
    (¬ RoleIs s 2 → exec (i f) s = .next (s.stopWord noRunAhead (.trap { cause := 0x04, lane := s.lowLane }))) ∧
    (RoleIs s 2 → ∀ l, (s.active f.hdr).find? (fun l => !s.claimOk l) = some l → exec (i f) s = .next (s.stopWord noRunAhead (.trap { cause := 0x15, dcode := 0x20, lane := l }))))) ∧
  (
  (∀ p ∈ [((Instr.mxrd : FmtE → Instr), true), (.mxwr, false)], ∀ (f : FmtE) (s : State) (low : Nat),
    let m := f.x.toNat % 32 + 1
    let first := if p.2 then f.dst.toNat else f.sa.toNat
    let run := (List.range m).map (first + ·)
    let tile := bits (sbOf f s low).toNat 9 0
    let row := bits (sbOf f s low).toNat 14 10
    MatrixReady s f.hdr low [f.sb.toNat] false → s.RegsReady f.hdr run → s.tillOk s.cur.unit s.cur.stripe low = true →
    (row + m ≤ 32 → (s.curPriv = .u → s.badTiles [tile] = false) →
      ∃ t tag, exec (p.1 f) s = .next t ∧ BytesKept s t ∧
        Accepted s t { s.matOp (if p.2 then 5 else 6) (s.active f.hdr) with args := [tile, row, m, first], data := if p.2 then [] else (s.active f.hdr).map fun l => run.map (s.curThread l).reg } tag ∧
        ThreadsTo s t fun _ => laneAfter f.hdr fun x => if p.2 then run.foldl Thread.mark x else x) ∧
    (32 < row + m → exec (p.1 f) s = .next (s.stopWord noRunAhead (.trap { cause := 0x05, dcode := 0x23, lane := low })))))

namespace Sys2Proof.Slice0
open Sys2Proof.Machine

/-- LAUNCH and LAUNCH.pod. -/
def launchWords : List ((FmtE → Instr) × Bool) := [(.launch, false), (.launchPod, true)]

/-- A launch word of one lane on a SIMT or host core. -/
structure LaunchReady (s : State) (f : FmtE) (l : Nat) (regs : List Nat) : Prop where
  kind  : s.curKind = .simt ∨ s.curKind = .host
  one   : s.active f.hdr = [l]
  plain : (s.curThread l).tx.depth = 0
  regs  : s.RegsReady f.hdr regs

/-- The three words of SRC and STAMP of a launch record (R347). -/
def stampWords (p l : Nat) : List (Nat × Nat) := [(l, p + 0xF4), (l, p + 0xF8), (l, p + 0xFC)]

end Sys2Proof.Slice0

open Sys2Proof Sys2Proof.Machine Sys2Proof.Slice0

/-- LAUNCH and LAUNCH.pod on SIMT and host cores: a status other than 0 goes to gD and enqueues nothing; otherwise a notify with the record goes to the function and the thread is held; once its status is there the word completes. On a function core they raise ILLEGAL (R349). Where the rules leave a point open the statement has the model's choice: log 42. -/
def Obligations.LaunchSendsItsNotify : Prop :=
  (∀ p ∈ launchWords, ∀ (f : FmtE) (s s1 s2 : State) (l : Nat) (b : List Byte) (accs : List LaneAcc), LaunchReady s f l [f.sa.toNat, f.sa.toNat + 1, f.sb.toNat, f.dst.toNat] →
    (s.curThread l).done = false → s.pending s.cur.unit s.cur.stripe l true false p.2 = false → recordTrap 64 [(l, ptrOf f s l)] = none →
    s.readBlocks 16 [f.dst.toNat] [(l, ptrOf f s l)] = .ok (s1, [(l, b)]) →
    s1.resolve (s1.accReq 4 true 0 false false) (fun _ => false) (stampWords (ptrOf f s l) l) = (s2, .ok accs) →
    (∀ k ∈ s.funcs, ∀ n ∈ k.2.notifies, n.unit ≠ s.cur.unit ∨ n.stripe ≠ s.cur.stripe) →
    (s2.launchStatus l (sbOf f s l).toNat b p.2 ≠ 0 → ∃ t, exec (p.1 f) s = .next t ∧ t.funcs = s2.funcs ∧ MemKept s2 t ∧ SpadKept s t ∧
      ThreadsTo s t fun _ => laneAfter f.hdr fun x => x.setReg f.dst.toNat (BitVec.ofNat 32 (s2.launchStatus l (sbOf f s l).toNat b p.2))) ∧
    (s2.launchStatus l (sbOf f s l).toNat b p.2 = 0 → ∃ t n, exec (p.1 f) s = .next t ∧ MemKept s2 t ∧ SpadKept s t ∧ t.curStripe.wait = some (.answer 1) ∧
      (t.func (bits (sbOf f s l).toNat 9 6)).notifies = (s2.func (bits (sbOf f s l).toNat 9 6)).notifies ++ [n] ∧ n.queue = (sbOf f s l).toNat % 64 ∧ n.unit = s.cur.unit ∧ n.stripe = s.cur.stripe ∧
      n.lane = l ∧ n.dst = f.dst.toNat ∧ n.va = ptrOf f s l + 0xF4 ∧ (p.2 = false → n.rcd.bytes = b) ∧ ∀ j, j < 32 → t.curThread j = s.curThread j)) ∧
  (∀ p ∈ launchWords, ∀ (f : FmtE) (s : State) (l : Nat), LaunchReady s f l [] → (s.curThread l).done = true →
    (∀ k ∈ s.funcs, ∀ n ∈ k.2.notifies, n.unit ≠ s.cur.unit ∨ n.stripe ≠ s.cur.stripe) →
    ∃ t, exec (p.1 f) s = .next t ∧ LaneEffect s t f.hdr.b fun _ x => x.advance f.hdr.b) ∧
  (∀ p ∈ launchWords, ∀ (f : FmtE) (s : State), s.curKind = .func → exec (p.1 f) s = .next s.illegal)

/-- FETCHT gives every active lane the dispenser's answer: the coordinates of the index, dimension 0 fastest, with a true predicate, or status 1 or 2 with a false one; it waits while there is none (R350). CANCEL answers 0 and sets the cancel time of the active launch its record names, else 1; NODESIG answers 7 for a function of another partition, 1 for a count of zero, else lowers the node and answers 0 (R351, R352). Where the rules leave a point open the statement has the model's choice: log 42. -/
def Obligations.FetchtCancelAndNodesigAnswer : Prop :=
  (
  (∀ (f : FmtE) (s : State) (team : Team) (st i : Nat), s.curKind = .simt → s.active f.hdr ≠ [] → (s.core s.cur.unit).team = some team → s.RegsReady f.hdr ((List.range 4).map (f.dst.toNat + ·)) →
    s.fetchAnswer s.cur.unit = some (st, i) →
    let b := ((s.launch team.launch).map fun x => x.rcd.bytes).getD []
    0 < field b 0x10 4 → 0 < field b 0x14 4 →
    ∃ (t : State) (x y z : Nat), exec (.fetcht f) s = .next t ∧ (st = 0 → x < field b 0x10 4 ∧ y < field b 0x14 4 ∧ i = x + field b 0x10 4 * (y + field b 0x14 4 * z)) ∧
      (st ≠ 0 → x = 0 ∧ y = 0 ∧ z = 0) ∧ BytesKept s t ∧
      ThreadsTo s t fun _ => laneAfter f.hdr fun h => (h.setRegs f.dst.toNat [BitVec.ofNat 32 x, BitVec.ofNat 32 y, BitVec.ofNat 32 z, BitVec.ofNat 32 st]).setPred (bits f.x.toNat 6 4) (decide (st = 0))) ∧
  (∀ (f : FmtE) (s : State), s.curKind = .simt → s.active f.hdr ≠ [] → (s.core s.cur.unit).team.isSome = true → s.RegsReady f.hdr ((List.range 4).map (f.dst.toNat + ·)) →
    s.fetchAnswer s.cur.unit = none → exec (.fetcht f) s = .next (s.blockWord (.answer 2)))) ∧
  (
  (∀ (f : FmtE) (s s1 : State) (l : Nat) (b : List Byte), LaunchReady s f l [f.sa.toNat, f.sa.toNat + 1, f.sb.toNat, f.sb.toNat + 1, f.dst.toNat] → recordTrap 8 [(l, ptrOf f s l)] = none →
    s.readPieces 4 [f.dst.toNat] (stampWords (ptrOf f s l) l) = .ok (s1, [(l, b)]) →
    let mine (x : Launch) : Prop := x.part = s.curPart ∧ x.rcd.src = field b 0 3 ∧ x.rcd.stamp = field b 4 8 ∧ x.rcd.pod = none ∧
      (s.curPriv = .u → x.rcd.world = (s.worldOf s.cur.unit s.cur.stripe l).toNat)
    let at_ := max ((s.curThread l).pair f.sb.toNat).toNat s.gtc
    (∀ k x, (k, x) ∈ s1.launches → mine x → (∀ e ∈ s1.launches, mine e.2 → e.1 = k) → s1.launches.map Prod.fst = (s1.launches.map Prod.fst).eraseDups →
      ∃ t, exec (.cancel f) s = .next t ∧ MemKept s1 t ∧ SpadKept s t ∧ (ThreadsTo s t fun _ => laneAfter f.hdr fun h => h.setReg f.dst.toNat 0) ∧
        (k, { x with cancelAt := some (min (x.cancelAt.getD (2 ^ 64)) at_) }) ∈ t.launches ∧ ∀ e ∈ s1.launches, e.1 ≠ k → e ∈ t.launches) ∧
    ((∀ e ∈ s1.launches, ¬ mine e.2) → s1.pod.launches = [] →
      ∃ t, exec (.cancel f) s = .next t ∧ MemKept s1 t ∧ SpadKept s t ∧ t.launches = s1.launches ∧ ThreadsTo s t fun _ => laneAfter f.hdr fun h => h.setReg f.dst.toNat 1)) ∧
  (∀ (f : FmtE) (s : State) (l : Nat), LaunchReady s f l [f.sa.toNat, f.dst.toNat] →
    let v := ((s.curThread l).reg f.sa.toNat).toNat
    let fn := bits v 15 12
    let n := bits v 11 0
    ∃ t, exec (.nodesig f) s = .next t ∧ BytesKept s t ∧
      (s.assigned s.curPart fn = false → ThreadsTo s t fun _ => laneAfter f.hdr fun h => h.setReg f.dst.toNat 7) ∧
      (s.assigned s.curPart fn = true → Tab.get (s.func fn).nodes n 0 = 0 → t.funcs = s.funcs ∧ ThreadsTo s t fun _ => laneAfter f.hdr fun h => h.setReg f.dst.toNat 1) ∧
      (s.assigned s.curPart fn = true → 0 < Tab.get (s.func fn).nodes n 0 → Tab.get (t.func fn).nodes n 0 + 1 = Tab.get (s.func fn).nodes n 0 ∧
        ThreadsTo s t fun _ => laneAfter f.hdr fun h => h.setReg f.dst.toNat 0)))

namespace Sys2Proof.Slice0
open Sys2Proof.Machine

/-! ## Events -/

/-- Of the cores only u changes, and nothing outside the cores does. -/
structure CoreOnly (s t : State) (u : Nat) : Prop where
  rest  : { t with cores := s.cores } = s
  cores : ∀ v, v ≠ u → t.core v = s.core v

/-- Of core u only stripe i changes. -/
structure StripeOnly (s t : State) (u i : Nat) : Prop where
  only    : CoreOnly s t u
  core    : { t.core u with stripes := [] } = { s.core u with stripes := [] }
  stripes : ∀ j, j ≠ i → t.stripe u j = s.stripe u j

/-- Of stripe i only the thread of lane l changes, to x. -/
structure ThreadOnly (s t : State) (u i l : Nat) (x : Thread) : Prop where
  only   : StripeOnly s t u i
  stripe : { t.stripe u i with lanes := [] } = { s.stripe u i with lanes := [] }
  thread : t.thread u i l = x
  lanes  : ∀ k, k ≠ l → t.thread u i k = s.thread u i k

/-- The turn r of stripe i holds what the vote selects (R139, R382): group A the ready lanes at the lowest PC, one lane in serial mode; group B those at the next. -/
structure Voted (s : State) (u i : Nat) (r : Turn) : Prop where
  stripe : r.stripe = i
  lowest : ∀ l k, r.a.getLsbD l = true → k < 32 → s.laneReady u i k = true → (s.thread u i l).pc.toNat ≤ (s.thread u i k).pc.toNat
  ready  : ∀ l, (r.a ||| r.b).getLsbD l = true → l < 32 ∧ s.laneReady u i l = true
  someA  : r.a ≠ 0
  -- Lanes of a word that waits part-way go on apart from those that reach it later.
  every  : (s.stripe u i).serial = false → ∀ l k, r.a.getLsbD l = true → k < 32 → s.laneReady u i k = true →
    (r.a.getLsbD k = true ↔ (s.thread u i k).pc = (s.thread u i l).pc ∧ (s.thread u i k).begun = (s.thread u i l).begun)
  begun  : ∀ l k, r.a.getLsbD l = true → k < 32 → s.laneReady u i k = true → (s.thread u i k).pc = (s.thread u i l).pc → (s.thread u i k).begun = true → (s.thread u i l).begun = true
  single : (s.stripe u i).serial = true → r.b = 0 ∧ ∀ l k, r.a.getLsbD l = true → k < 32 → s.laneReady u i k = true →
    (s.thread u i k).pc = (s.thread u i l).pc → (s.thread u i k).begun = (s.thread u i l).begun → l ≤ k
  next   : (s.stripe u i).serial = false → ∀ l k, r.a.getLsbD l = true → k < 32 → s.laneReady u i k = true → (r.b.getLsbD k = true ↔ (s.thread u i k).pc ≠ (s.thread u i l).pc ∧
    (∀ j, j < 32 → s.laneReady u i j = true → (s.thread u i j).pc ≠ (s.thread u i l).pc → (s.thread u i k).pc.toNat ≤ (s.thread u i j).pc.toNat) ∧
    ∀ j, j < 32 → s.laneReady u i j = true → (s.thread u i j).pc = (s.thread u i k).pc → (s.thread u i j).begun = true → (s.thread u i k).begun = true)

/-- A thread of a host core may be interrupted (R424): IE is set, no handler runs, and it is at U or K. -/
def MayInterrupt (s : State) (u k : Nat) : Prop := kindOf u = .host ∧ (s.thread u k 0).ie = true ∧ (s.stripe u k).xin = false ∧ ((s.thread u k 0).priv = .u ∨ (s.thread u k 0).priv = .k)

/-- A thread of a host core has entered its interrupt handler (R424): level K, cause 0, and nothing else has changed. -/
def Interrupted (s t : State) (u k : Nat) : Prop :=
  let x := s.thread u k 0
  StripeOnly s t u k ∧ (t.stripe u k).xin = true ∧ (∀ l, l ≠ 0 → t.thread u k l = s.thread u k l) ∧
    t.thread u k 0 = { x with status := .ready, xpc := x.pc, pPriv := x.priv, cause := 0, dcode := 0, priv := .k, pc := BitVec.ofNat 52 (bits ((s.core u).cbaseAt .k).toNat 51 12 * 4096) }

end Sys2Proof.Slice0

open Sys2Proof Sys2Proof.Machine Sys2Proof.Slice0

/-- TURN_GRANT gives an idle quadrant's slot to the next stripe in rotation with a ready lane, whose groups are those of the vote; WAITT_WAKE frees a stripe at its time; HALT_WAKE wakes a halted thread with a pending interrupt, which it takes at once where it may; INTERRUPT_TAKE enters the handler of level K with cause 0 and nothing else changes (R139, R141, R256, R358, R382, R424). Where the rules leave a point open the statement has the model's choice: log 44. -/
def Obligations.TurnsWakeUpsAndInterrupts : Prop :=
  (∀ (s : State) (u q k i : Nat), let x := Tab.get (s.core u).quads q {}
    x.turn = none → kindOf u ≠ .booth → k < 16 → i = (x.last + 1 + k) % 16 → quadOf u i = q → s.stripeReady u i = true →
    (∀ j, j < k → quadOf u ((x.last + 1 + j) % 16) = q → s.stripeReady u ((x.last + 1 + j) % 16) = false) →
    ∃ (t : State) (r : Turn), exec (.turnGrant u q) s = .next t ∧ Tab.get (t.core u).quads q {} = { turn := some r, last := i } ∧ Voted s u i r ∧ CoreOnly s t u ∧
      (∀ p, p ≠ q → Tab.get (t.core u).quads p {} = Tab.get (s.core u).quads p {}) ∧ (∀ j, j ≠ i → t.stripe u j = s.stripe u j) ∧
      (∀ l, l < 32 → t.thread u i l = if (r.a ||| r.b).getLsbD l then { s.thread u i l with status := .ready } else s.thread u i l) ∧ SpadKept s t ∧ (t.core u).still = (s.core u).still) ∧
  (∀ (s : State) (u i at_ : Nat), (s.stripe u i).wait = some (.time at_) →
    ∃ t, exec (.waittWake u i) s = .next t ∧ (s.gtc < at_ → t = s) ∧ (at_ ≤ s.gtc → StripeOnly s t u i ∧ t.stripe u i = { s.stripe u i with wait := none })) ∧
  -- A halted thread that may be interrupted takes the interrupt at its next word, whatever its run count.
  (∀ (s : State) (u k : Nat), (s.thread u k 0).status = .halted → s.interruptPending u k = true →
    ∃ t, exec (.haltWake u k) s = .next t ∧ (MayInterrupt s u k → Interrupted s t u k) ∧ (¬ MayInterrupt s u k → ThreadOnly s t u k 0 { s.thread u k 0 with status := .ready })) ∧
  (∀ (s : State) (u k : Nat), let x := s.thread u k 0
    s.interruptPending u k = true → MayInterrupt s u k → x.status = .ready → x.run = 0 → (s.stripe u k).wait = none → (s.stripe u k).parked = false → (Tab.get (s.core u).quads k {}).turn = none →
    ∃ t, exec (.interruptTake u k) s = .next t ∧ Interrupted s t u k)

namespace Sys2Proof.Slice0
open Sys2Proof.Machine

/-- An access that its bank may take: it stands in the queue, at home in a bank that works and a frame that is neither withdrawn nor lost, its key checks hold, nothing holds it, and its core's slice is not in drain (R39, R83, R93, R323). -/
structure AtItsBank (s : State) (u id : Nat) (a : Access) (sl loc : Nat) : Prop where
  access : s.access u id = some a
  home   : s.homeOf ((s.partOf u).getD 0) a.pa = some (sl, loc)
  may    : s.mayPerform u a (bankOf sl loc) = true
  alive  : (s.frame (frameKey sl loc)).dead = false
  works  : (s.bank (bankOf sl loc)).failed = false
  key    : s.keyOk (a.keyReq ((s.partOf u).getD 0)) sl loc = true
  open_  : s.inDrain u = false

/-- The bytes of memory at an access's home. -/
def homeVal (s : State) (sl loc n : Nat) : Nat := leNat (bytesGet s.mem (memKey sl loc) n)

/-- The value that an accepted read finds (R83): the bytes of its home, or those it was accepted with, before poison reached them (log 23). -/
def foundVal (s : State) (sl loc : Nat) (a : Access) : Nat := a.sound.getD (homeVal s sl loc a.size)

/-- Memory is as before outside n bytes of a home. -/
def MemOutside (s t : State) (sl loc n : Nat) : Prop := ∀ b, b < memKey sl loc ∨ memKey sl loc + n ≤ b → bytesAt t.mem b = bytesAt s.mem b

end Sys2Proof.Slice0

open Sys2Proof Sys2Proof.Machine Sys2Proof.Slice0

/-- ACCESS_PERFORMED on a resident line reads the load's bytes, writes the store's or leaves the AMO's new value and its old one; FILL_ARRIVAL makes the line resident and frees its miss register; BYPASSED_READ reads past the bank; LOAD_DATA_RETURN writes the registers and leaves them full; GRANULE_ACCESS acts at its bank port and leaves F as the qualifier says (R83, R84, R85, R123, R124, R152, R238, R245, R250). Where the rules leave a point open the statement has the model's choice: logs 13, 14, 23 and 72. -/
def Obligations.AccessesArePerformedAndReturned : Prop :=
  (∀ (s : State) (u id sl loc : Nat) (a : Access), AtItsBank s u id a sl loc → a.missed = false → ((s.bank (bankOf sl loc)).lines.any fun x => x.line == loc / 128) = true →
    ∃ t, exec (.accessPerformed u id) s = .next t ∧ SpadKept s t ∧
      (a.kind = .load → MemKept s t ∧ ∃ b, t.access u id = some b ∧ b.performed = true ∧ b.value = foundVal s sl loc a ∧ b.dst = a.dst) ∧
      (a.kind = .store → t.access u id = none ∧ MemOutside s t sl loc a.size ∧ bytesGet t.mem (memKey sl loc) a.size = leBytes a.size a.data) ∧
      (∀ op, a.kind = .amo op →
        let old : Word := BitVec.ofNat 32 (foundVal s sl loc a)
        MemOutside s t sl loc 4 ∧ bytesGet t.mem (memKey sl loc) 4 = leBytes 4 (amoValue op (a.code == 5) old (BitVec.ofNat 32 a.data)).toNat ∧
          ∃ b, t.access u id = some b ∧ b.performed = true ∧ b.value = old.toNat)) ∧
  (∀ (s : State) (bn line : Nat) (m : Miss), (s.bank bn).misses.find? (fun m => m.line == line) = some m → (s.bank bn).makeRoom s.gtc line ≠ none → bankOf (bn / 4) (line * 128) = bn → (s.bank bn).failed = false →
    ((s.bank bn).setLines line).length ≤ 16 →
    (∀ e ∈ m.attached, ∀ a, s.access e.1 e.2 = some a → ∃ sl loc, s.homeOf ((s.partOf e.1).getD 0) a.pa = some (sl, loc) ∧ bankOf sl loc = bn ∧ loc / 128 = line) →
    ∃ t, exec (.fillArrival bn line) s = .next t ∧ ((t.bank bn).lines.any fun x => x.line == line) = true ∧ (∀ x ∈ (t.bank bn).misses, x.line ≠ line) ∧
      ∀ u id sl loc a, m.attached = [(u, id)] → AtItsBank s u id a sl loc → bankOf sl loc = bn → loc / 128 = line → a.kind = .load →
        MemKept s t ∧ ∃ b, t.access u id = some b ∧ b.performed = true ∧ b.value = foundVal s sl loc a) ∧
  (∀ (s : State) (bn idx u id sl loc : Nat) (a : Access), (s.bank bn).bypassed[idx]? = some (u, id) → AtItsBank s u id a sl loc → bankOf sl loc = bn → a.kind = .load →
    ((s.bank bn).wbuf.any fun x => x.line == loc / 128) = false →
    ∃ t, exec (.bypassedRead bn idx) s = .next t ∧ (t.bank bn).lines = (s.bank bn).lines ∧ (u, id) ∉ (t.bank bn).bypassed ∧ MemKept s t ∧
      ∃ b, t.access u id = some b ∧ b.performed = true ∧ b.value = foundVal s sl loc a) ∧
  (∀ (s : State) (u id d : Nat) (a : Access), s.access u id = some a → a.performed = true → a.back = true → a.held = false → a.kind ≠ .store → a.dst = some d → a.poisoned = false ∨ a.spec = true →
    ∃ (t : State) (v i l : Nat), exec (.loadDataReturn u id) s = .next t ∧ (v, i, l) = s.runsAt u a.stripe a.lane ∧ t.access u id = none ∧ MemKept s t ∧ SpadKept s t ∧ (∀ w, (t.core w).still = (s.core w).still) ∧
      (∀ w j k, (w, j, k) ≠ (v, i, l) → t.thread w j k = s.thread w j k) ∧
      (a.spec = false → t.thread v i l = (s.thread v i l).setRegs d (extendLoad a.code a.value)) ∧
      (a.spec = true → let ok := a.good && !a.poisoned
        t.thread v i l = ((s.thread v i l).setRegs d (extendLoad a.code (if ok then a.value else 0))).setPred 6 ok)) ∧
  (∀ (s : State) (u i l : Nat) (g : GranWait), s.granq.find? (fun g => g.unit == u && g.stripe == i && g.lane == l && g.value.isNone) = some g → s.granFree g = true → s.granFirst g = true →
    g.data ≠ none ∨ ((s.core g.target).readSram g.off g.size).2 = false →
    ∃ t, exec (.granuleAccess u i l) s = .next t ∧ { t with cores := s.cores, granq := s.granq } = s ∧ (∀ v, v ≠ g.target → t.core v = s.core v) ∧
      (t.core g.target).full (g.off / 16) = g.leaves ∧ (∀ k, k ≠ g.off / 16 → (t.core g.target).full k = (s.core g.target).full k) ∧
      (∀ d, g.data = some d → bytesGet (t.core g.target).sram g.off g.size = leBytes g.size d ∧
        ∀ b, b < g.off ∨ g.off + g.size ≤ b → bytesAt (t.core g.target).sram b = bytesAt (s.core g.target).sram b) ∧
      (g.data = none → (t.core g.target).sram = (s.core g.target).sram ∧ ∃ x ∈ t.granq, x.same g = true ∧ x.value = some (leNat (bytesGet (s.core g.target).sram g.off g.size))))

namespace Sys2Proof.Slice0
open Sys2Proof.Machine

/-- Frame fr of slice sl is released (R41, R53): no line of it is held, every byte of it is zero, every line clear, its owner none and every counter kept; a frame that was not lost leaves every other byte as it was. -/
structure Released (s t : State) (sl fr : Nat) : Prop where
  lines : ∀ j, j < 4 → ∀ x ∈ (t.bank (4 * sl + j)).lines ++ (t.bank (4 * sl + j)).wbuf, x.line / 64 ≠ fr
  zero  : ∀ b, b / 8192 = 2 ^ 22 * sl + fr → bytesAt t.mem b = 0
  owner : (t.frame (2 ^ 22 * sl + fr)).owner = none
  sound : (s.frame (2 ^ 22 * sl + fr)).lost = none → (∀ b, b / 8192 ≠ 2 ^ 22 * sl + fr → bytesAt t.mem b = bytesAt s.mem b) ∧
    (∀ k, (Tab.get t.metas k {}).counter = (Tab.get s.metas k {}).counter) ∧ ∀ k m, k / 64 = 2 ^ 22 * sl + fr → Tab.find t.metas k = some m → m.clear = true
  lost  : ∀ stamp lvl, (s.frame (2 ^ 22 * sl + fr)).lost = some (stamp, lvl) → (t.frame (2 ^ 22 * sl + fr)).quarantined = some stamp

/-- The fault queue of a partition has one more record to post, of a unit that acts for no thread (R51, R402, R426, R433). -/
def Posted (s t : State) (p cause dcode addr unit : Nat) : Prop :=
  ∃ r : Record, (t.part p).fq.made = (s.part p).fq.made ++ [r] ∧ r.cause = cause ∧ r.dcode = dcode ∧ r.stamp = s.gtc ∧ r.addr = addr ∧ r.src = s.src unit ∧ r.world = 0 ∧ r.pc = 0 ∧ r.lane = 0 ∧ r.stripe = 0 ∧ r.ctx = 0

/-- The fault queue of a partition has one more record to post, of the cause and detail code. -/
def OneRecord (s t : State) (p cause dcode : Nat) (q : Record → Prop) : Prop :=
  ∃ r : Record, (t.part p).fq.made = (s.part p).fq.made ++ [r] ∧ r.part = p ∧ r.cause = cause ∧ r.dcode = dcode ∧ r.stamp = s.gtc ∧ q r

end Sys2Proof.Slice0

open Sys2Proof Sys2Proof.Machine Sys2Proof.Slice0

/-- PACKET_ARBITRATE grants by class with every sixteenth grant to class 0, in a channel of a link every fourth, and the packet goes on to the next port of its route, to its bank or back to its core, or is turned away by the firewall of the slice that it leaves or enters; NEGATIVE_RESPONSE answers a refused one with poison, a count at that firewall and a record; FWCTL_WRITE changes PART and EN only while EN = 0 or DRAIN = 1; FIREWALL_DRAIN_END waits for the packets in flight and then resets the draining partition (R80, R87, R89, R90, R91, R93, R94, R445). Where the rules leave a point open the statement has the model's choice: logs 14 and 73. -/
def Obligations.PacketsAndFirewalls : Prop :=
  (∀ (s : State) (port : Nat), let p := Tab.get s.ports port {}
    let n := if 320 ≤ port ∧ port < 400 then 4 else 16
    p.packets ≠ [] → (∀ x ∈ p.packets, x.cls < 4 ∧ x.input < 4 ∧ x.route.head?.map Prod.fst ≠ some port) → (∀ q, (s.part q).draining = false) →
    ∃ (t : State) (k : Packet), exec (.packetArbitrate port) s = .next t ∧ k ∈ p.packets ∧ MemKept s t ∧ SpadKept s t ∧
      (p.grants % n ≠ n - 1 → ∀ x ∈ p.packets, x.cls ≤ k.cls) ∧ (p.grants % n = n - 1 → (∃ x ∈ p.packets, x.cls = 0) → k.cls = 0) ∧
      (Tab.get t.ports port {}).grants = p.grants + 1 ∧ (Tab.get t.ports port {}).last = k.input ∧ (Tab.get t.ports port {}).packets.length + 1 = p.packets.length ∧
      -- It leaves its slice here, or enters the slice of its destination at the next port; a firewall may turn it away, and a response to a slice in drain is discarded.
      let out := k.leaves port
      let own := sliceOf k.unit
      let tagged := if out then s.stamp k else k
      let dst := if k.response then own else k.slice
      let enters (q : Nat) : Bool := ownPort q && !k.inside
      let lost : Bool := k.notify && (s.linkLost port || (out && ((s.slice own).part.isNone || (s.slice own).drain)))
      let turned : Option Nat :=
        if s.linkLost port || (out && !k.notify && !s.mayLeave own k.slice) then (if k.notify then none else some own)
        else k.route.head?.bind fun q => if enters q.1 && !(k.response && s.inDrain k.unit) && !s.mayEnter tagged dst then some dst else none
      let gone : Prop := turned = none ∧ k.response = true ∧ s.inDrain k.unit = true ∧ ∃ q ∈ k.route.head?, enters q.1 = true
      (∀ a sl, lost = false → s.access k.unit k.id = some a → turned = some sl → t.access k.unit k.id = some { a with arrived := true, refused := true, deniedBy := sl }) ∧
      (gone → lost = false → t.access k.unit k.id = none) ∧
      (∀ a, turned = none → k.notify = false → k.route = [] → s.access k.unit k.id = some a →
        t.access k.unit k.id = some (if k.response then { a with back := true } else { a with arrived := true })) ∧
      (lost = false → k.notify = true → k.route = [] → ∀ f n, Tab.find s.funcs f = some n → ∀ x ∈ n.notifies, x.unit = k.unit → 32 * x.stripe + x.lane = k.id →
        { x with there := true } ∈ (t.func f).notifies) ∧
      (∀ q rest, lost = false → turned = none → ¬ gone → k.route = q :: rest →
        ∃ x ∈ (Tab.get t.ports q.1 {}).packets, x.unit = k.unit ∧ x.id = k.id ∧ x.cls = k.cls ∧ x.input = q.2 ∧ x.route = rest ∧ x.tag = tagged.tag ∧ x.response = k.response)) ∧
  (∀ (s : State) (u id : Nat) (a : Access), s.access u id = some a → a.refused = true → a.poisoned = false →
    ∃ t, exec (.negativeResponse u id) s = .next t ∧ MemKept s t ∧ SpadKept s t ∧ (t.slice a.deniedBy).deny = min ((s.slice a.deniedBy).deny + 1) 0xFFFFFFFF ∧
      OneRecord s t ((s.partOf u).getD 0) 0x13 0x16 (fun r => r.addr = a.pa ∧ r.src = s.src u ∧ r.ppriv = a.ppriv ∧ r.lane = a.lane ∧ r.stripe = a.stripe ∧ r.pc = a.pc) ∧
      (a.kind = .store → t.access u id = none) ∧ (a.kind = .load → t.access u id = some { a with performed := true, poisoned := true, back := true })) ∧
  (∀ (s : State) (sl : Nat) (v : BitVec 64), let old := (s.slice sl).fwctl
    ∃ t, exec (.fwctlWrite sl v) s = .next t ∧ { t with slices := s.slices } = s ∧ (∀ k, k ≠ sl → t.slice k = s.slice k) ∧
      { t.slice sl with fwctl := 0 } = { s.slice sl with fwctl := 0 } ∧
      ∀ b, b < 64 → (t.slice sl).fwctl.getLsbD b =
        if 32 ≤ b ∨ b = 9 then v.getLsbD b else if b = 8 ∨ b < 5 then (if old.getLsbD 8 = false ∨ old.getLsbD 9 = true then v.getLsbD b else old.getLsbD b) else false) ∧
  (∀ (s : State) (sl p : Nat), (s.slice sl).drain = true → (∀ e ∈ s.parts, e.2.gone ≠ some sl) → (s.slice sl).part = some p → (s.part p).valid = true → (s.part p).draining = true → (s.part p).removing = none →
    ∃ t, exec (.firewallDrainEnd sl) s = .next t ∧
      ((∃ m ∈ (s.part p).members, s.inflOf m.2 ≠ 0) → t = s) ∧
      ((∀ m ∈ (s.part p).members, s.inflOf m.2 = 0) → (t.part p).draining = false ∧ (t.part p).fq = { ctl := BitVec.ofNat 64 (2 ^ 18 * (s.part p).boothc.toNat) } ∧
        ∀ m ∈ (s.part p).members, (t.slice m.2).drain = false ∧ (∀ k, (t.keySlot m.2 k).valid = decide (k = 0)) ∧
          (∀ b, b / 2 ^ 35 = m.2 → bytesAt t.mem b = 0) ∧ ∀ u ∈ unitsOf m.2, (t.core u).team = none ∧ (t.core u).outq = []))

/-- LINE_WRITE_BACK brings the oldest line of the buffer home: poisoned granules become zero, its counter rises by one and it is clear no longer; a counter that would wrap stops the machine. MCFREL releases a frame at its home slice, at once or with FRAME_RELEASE once the accesses accepted before it are complete (R34, R36, R37, R41, R43, R51). PSEUDO_CHANNEL_FAILURE gives the lines to the spare and, unless it was announced, poisons those that no bank holds at once and the others at their next fetch; without a spare it withdraws the top of the region (R30). SRAM_UNCORRECTABLE poisons a granule of an S or F bank with one record, and drops the line of a C bank (R121, R125). Where the rules leave a point open the statement has the model's choice: logs 13, 19, 31, 40, 47 and 68. -/
def Obligations.LinesFramesAndFailures : Prop :=
  (∀ (s : State) (bank : Nat) (x : BankLine) (rest : List BankLine), (s.bank bank).wbuf = x :: rest → (s.frame (frameKey (bank / 4) (x.line * 128))).dead = false →
    let k := 2 ^ 28 * (bank / 4) + x.line
    let base := memKey (bank / 4) (x.line * 128)
    let m := Tab.get s.metas k {}
    -- The controller takes the line once 16 ticks have passed since its last write-back.
    let due : Prop := ∀ w, m.wrote = some w → w + 16 ≤ s.gtc
    (¬ due → exec (.lineWriteBack bank) s = .next s) ∧
    (due → m.counter < 2 ^ 56 - 1 → ∃ t, exec (.lineWriteBack bank) s = .next t ∧ (t.bank bank).wbuf = rest ∧
      (t.bank bank).lines = (s.bank bank).lines.map (fun y => if y.line = x.line then { y with wrote := some s.gtc } else y) ∧
      (Tab.get t.metas k {}).counter = m.counter + 1 ∧ (Tab.get t.metas k {}).clear = false ∧ (∀ j, j ≠ k → Tab.get t.metas j {} = Tab.get s.metas j {}) ∧
      ∀ b, bytesAt t.mem b = if base ≤ b ∧ b < base + 128 ∧ (s.poisonOf k).getLsbD ((b - base) / 16) = true then 0 else bytesAt s.mem b) ∧
    (due → 2 ^ 56 - 1 ≤ m.counter → exec (.lineWriteBack bank) s = .fault .lineCounterWrap)) ∧
  (∀ (s : State) (p sl0 sl loc : Nat) (v : BitVec 64), s.homeOf p (v.toNat / 2 ^ 13 % 2 ^ 27 * 8192) = some (sl, loc) →
    ∃ t, exec (.mcfrel p sl0 v) s = .next t ∧ (s.accepted sl (loc / 8192) = [] → Released s t sl (loc / 8192)) ∧
      (s.accepted sl (loc / 8192) ≠ [] → { t with slices := s.slices } = s ∧ (t.slice sl).releases = (s.slice sl).releases ++ [(loc / 8192, s.accepted sl (loc / 8192))])) ∧
  (∀ (s : State) (p sl0 : Nat) (v : BitVec 64), s.homeOf p (v.toNat / 2 ^ 13 % 2 ^ 27 * 8192) = none → exec (.mcfrel p sl0 v) s = .next s) ∧
  (∀ (s : State) (sl fr : Nat) (before : List (Nat × Nat)), (s.slice sl).releases.find? (fun r => r.1 == fr) = some (fr, before) →
    ∃ t, exec (.frameRelease sl fr) s = .next t ∧ ((∃ x ∈ before, x ∈ s.accepted sl fr) → t = s) ∧
      ((∀ x ∈ before, x ∉ s.accepted sl fr) → Released s t sl fr ∧ (t.slice sl).releases = (s.slice sl).releases.erase (fr, before))) ∧
  (∀ (s : State) (sl chan : Nat) (announced : Bool), chan ∉ (s.slice sl).lostChans →
    ∃ t, exec (.pseudoChannelFailure sl chan announced) s = .next t ∧ MemKept s t ∧ SpadKept s t ∧ (t.slice sl).spareUsed = true ∧ (t.slice sl).lostChans = (s.slice sl).lostChans ++ [chan] ∧
      (announced = true → (s.slice sl).spareUsed = false → t.poison = s.poison) ∧
      (announced = false ∨ (s.slice sl).spareUsed = true → ∀ k m, Tab.find s.metas k = some m → m.clear = false → k / 2 ^ 28 = sl →
        k % 16 = chan ∨ (chan = 16 ∧ (s.slice sl).spareUsed = true ∧ ((s.slice sl).lostChans.filter (· ≠ 16)).head? = some (k % 16)) →
        (s.resident sl (k % 2 ^ 28 * 128) = false → t.poisonOf k = 0xFF) ∧ (s.resident sl (k % 2 ^ 28 * 128) = true → t.poisonOf k = s.poisonOf k ∧ Tab.find t.latent k = some (.channel chan))) ∧
      ((s.slice sl).spareUsed = true → ∀ fr ∈ topFrames, (t.frame (2 ^ 22 * sl + fr)).withdrawn = true) ∧
      ((s.slice sl).spareUsed = false → ∀ k, (t.frame k).withdrawn = (s.frame k).withdrawn ∧ (t.frame k).owner = (s.frame k).owner)) ∧
  (∀ (s : State) (u g : Nat), kindOf u = .simt → (s.core u).mode (g / 4096) ≠ 0 →
    ∃ t, exec (.sramUncorrectable u g) s = .next t ∧ MemKept s t ∧ (∀ v, (t.core v).sram = (s.core v).sram) ∧ (t.core u).poisoned g = true ∧
      (∀ v k, (v, k) ≠ (u, g) → (t.core v).poisoned k = (s.core v).poisoned k) ∧ Posted s t ((s.partOf u).getD 0) 0x13 0x17 (2 ^ 61 + 2 ^ 52 * s.rankOf u + 16 * g) u) ∧
  (∀ (s : State) (u g : Nat), kindOf u = .simt → (s.core u).mode (g / 4096) = 0 →
    ∃ t, exec (.sramUncorrectable u g) s = .next t ∧ CoreOnly s t u ∧ { t.core u with lines := [] } = { s.core u with lines := [] } ∧
      ∀ ln, ln ∈ (t.core u).lines ↔ ln ∈ (s.core u).lines ∧ ¬ (ln.way = g / 4096 ∧ ln.pa / 128 % 512 = g % 4096 / 8))

namespace Sys2Proof.Slice0
open Sys2Proof.Machine

/-- Operation o of stripe i is the only one of the stripe that is not complete, its transfer stands at a granule, nothing has stopped it, and one granule is left (R95, R99). -/
structure LastGranule (s : State) (u i : Nat) (o : StageOp) (r : Row) : Prop where
  head  : (s.core u).stageHead i = some o
  fresh : o.got = [] ∧ o.gotBad = false
  alone : ∀ x ∈ (s.core u).stage, x.stripe = i → x.complete = false → x.tag = o.tag
  going : o.fault = none ∧ o.poisonRest = false ∧ o.orphan = false
  last  : o.next % 16 = 0 ∧ o.footprint = o.next + 16
  row   : s.stageRow u o (o.next / o.tensor.pitch) = .ok r
  place : o.spad % 16 = 0 ∧ o.tensor.unit ≤ 16
  bank  : (s.core u).clearing.contains ((o.spad + o.next) / 16 / 4096) = false ∧ s.portBusy u (o.spad + o.next) 16 = false

/-- A retirement of an operation of a stripe (R104): the counter falls by one and the named slot of a ring in use flips; the operation of a team that has gone (R106) leaves both. -/
def RetiredFrom (s t : State) (u i cls : Nat) (ring : Option (Nat × Nat)) (orphan : Bool) : Prop :=
  Tab.get (t.stripe u i).counters cls 0 = (if orphan then Tab.get (s.stripe u i).counters cls 0 else Tab.get (s.stripe u i).counters cls 0 - 1) ∧
  (∀ q sl r, ring = some (q, sl) → orphan = false → Tab.find (s.core u).rings q = some r → sl < r.ns →
    ∃ r', Tab.find (t.core u).rings q = some r' ∧ r'.ph = setBit r.ph sl (!r.ph.getLsbD sl)) ∧
  (orphan = true ∨ ring = none → (t.core u).rings = (s.core u).rings)

/-- ENGRES on a paused operation: its fault is over, and with ACT = 1 the rest of its destination is to be poisoned (R78). -/
def resumed {α : Type} (tag : α → Nat) (paused : α → Bool) (go : α → α) (n : Nat) (l : List α) : List α := l.map fun o => if tag o = n ∧ paused o = true then go o else o

end Sys2Proof.Slice0

open Sys2Proof Sys2Proof.Machine Sys2Proof.Slice0

/-- STAGE_TRANSFER, at the turn of its stripe, of a load's last granule writes the units it read, with their poison, and leaves F = 1; of a store's it writes memory; a wait-full store waits for F. STAGE_RETIRE takes away the oldest operation of the stripe once it is complete, lowers S and flips its ring slot. WALK_AHEAD translates the next granule, and records the fault it meets (R67, R77, R95, R99, R100, R103, R104, R115, R160). Where the rules leave a point open the statement has the model's choice: logs 9, 24 and 33. -/
def Obligations.StageOperationsMoveAndRetire : Prop :=
  (∀ (s : State) (u i : Nat), s.stageTurn u ≠ some i → exec (.stageTransfer u i) s = .next s) ∧
  (∀ (s : State) (u i : Nat) (o : StageOp) (r : Row), s.stageTurn u = some i → LastGranule s u i o r → o.loads = true →
    let m := s.loadGranule (s.stageCtx u o) o r (o.next % o.tensor.pitch) (16 / o.tensor.unit)
    m.stop = none → m.bs.length = 16 →
    ∃ t, exec (.stageTransfer u i) s = .next t ∧ bytesGet (t.core u).sram (o.spad + o.next) m.bs.length = m.bs ∧ (t.core u).full ((o.spad + o.next) / 16) = true ∧
      (t.core u).poisoned ((o.spad + o.next) / 16) = m.bad ∧ (∃ x ∈ (t.core u).stage, x.tag = o.tag ∧ x.complete = true) ∧ MemKept m.s t ∧
      (∀ g, g ≠ (o.spad + o.next) / 16 → (t.core u).full g = (m.s.core u).full g) ∧
      ∀ b, b < o.spad + o.next ∨ o.spad + o.next + m.bs.length ≤ b → bytesAt (t.core u).sram b = bytesAt (m.s.core u).sram b) ∧
  (∀ (s : State) (u i : Nat) (o : StageOp) (r : Row), LastGranule s u i o r → o.op = 1 ∨ o.op = 3 →
    let g := (o.spad + o.next) / 16
    let m := s.storeGranule (s.stageCtx u o) o r (o.next % o.tensor.pitch) (16 / o.tensor.unit) ((s.core u).readSram (16 * g) 16).1 ((s.core u).readSram (16 * g) 16).2
    o.reach r o.next = o.next + 16 →
    (o.wf = true → (s.core u).full g = false → exec (.stageTransfer u i) s = .next s) ∧
    (s.stageTurn u = some i → o.wf = false ∨ (s.core u).full g = true → m.stop = none →
      ∃ t, exec (.stageTransfer u i) s = .next t ∧ (∃ x ∈ (t.core u).stage, x.tag = o.tag ∧ x.complete = true) ∧ MemKept m.s t ∧ (o.toSpad = false → SpadKept m.s t) ∧
        -- In a scratchpad a destination granule becomes full when the step has covered it.
        ∀ v, (t.core v).sram = (m.s.core v).sram ∧ ∀ h, (t.core v).poisoned h = (m.s.core v).poisoned h ∧
          (t.core v).full h = (((List.range (16 / o.tensor.unit)).all fun k => m.hits.contains (v, 16 * h + o.tensor.unit * k)) || (m.s.core v).full h))) ∧
  (∀ (s : State) (u i : Nat) (o : StageOp), (s.core u).stage.find? (fun o => o.stripe == i) = some o → (s.partOf u).isSome = true →
    ∃ t, exec (.stageRetire u i) s = .next t ∧ (o.complete = false → t = s) ∧
      (o.complete = true → CoreOnly s t u ∧ (t.core u).stage = (s.core u).stage.filter (fun x => x.tag != o.tag) ∧ SpadKept s t ∧ RetiredFrom s t u i 0 o.ring o.orphan)) ∧
  (∀ (s : State) (u i off p : Nat) (o : StageOp) (r : Row) (lo hi : Bool), let pos := max o.walked o.next / 16 * 16
    (s.core u).stageHead i = some o → (s.partOf u).isSome = true → s.inDrain u = false → o.fault = none → o.poisonRest = false → o.op ≠ 4 → pos < o.footprint → (s.aheadPages u o o.next (pos + 16)).length ≤ 64 → o.tensor.unit = 16 →
    s.stageRow u o (pos / o.tensor.pitch) = .ok r → o.unitAt r (pos % o.tensor.pitch) = .mem off lo hi → o.unitPtr off = some p →
    let c := s.stageCtx u o
    ∃ t, exec (.walkAhead u i) s = .next t ∧ SpadKept s t ∧
      (∀ d, s.checkPtr u c.part c.world c.priv p 16 (!o.loads) = .error d → OneRecord s t c.part 0x0C d (fun r => r.addr = p ∧ r.src = s.src (0x400 + u)) ∧
        MemKept s t ∧ ∃ x ∈ (t.core u).stage, x.tag = o.tag ∧ x.fault = some pos) ∧
      (∀ va s1 x, s.checkPtr u c.part c.world c.priv p 16 (!o.loads) = .ok (.global va) →
        s.translate { part := c.part, ptb := c.ptb, priv := c.priv, need := if o.loads then .read else .write, tlb := c.tlb, setA := false } va = (s1, .ok x) →
        CoreOnly s1 t u ∧ (t.core u).stage = (s.core u).stage.map (fun x => if x.tag = o.tag then { x with walked := pos + 16 } else x)))

/-- BARROW_START starts the engine's head operation, at its time if it names one; BARROW_TRANSFER moves 64 bytes between memory endpoints or stops with the record of the fault; BARROW_RETIRE takes away the operation that is done, lowers B and flips its ring slot; POD_RETIRE_REPORT marks a complete operation to a peer; ENGRES lets a paused operation of its partition go on, or poison its rest (R77, R78, R104, R107, R108, R111, R113, R115). Where the rules leave a point open the statement has the model's choice: logs 34, 53, 79 and 82. -/
def Obligations.BarrowOperationsMoveAndRetire : Prop :=
  (∀ (s : State) (sl e : Nat) (o : BarrowOp), s.barrowHead sl e = some o →
    ∃ t, exec (.barrowStart sl e) s = .next t ∧ { t with slices := s.slices } = s ∧
      (o.ctl.testBit 13 = true → s.gtc < field o.block 0x28 8 → t = s) ∧
      (o.ctl.testBit 13 = false ∨ field o.block 0x28 8 ≤ s.gtc → (t.barrow sl e).ops = (s.barrow sl e).ops.map fun x => if x.tag = o.tag then { x with started := true } else x)) ∧
  (∀ (s s1 : State) (sl e : Nat) (o : BarrowOp) (bs : List Byte) (bad : List Bool) (stop : Option EngStop), s.barrowHead sl e = some o → (s.barrow sl e).failed = false → o.poisonRest = false → o.dst.kind < 2 → o.dst.far = false → o.fill = true ∨ o.src.far = false →
    let n := min (o.len - o.next) 64
    let c := s.barrowCtx sl e o
    let s1' := s1.onBarrow sl e o.tag fun x => { x with asked := false }
    s.barrowRead sl e o n = (s1, { bs := bs, bad := bad, stop := stop }) →
    ∃ t, exec (.barrowTransfer sl e) s = .next t ∧
      (o.started = false → (t.barrow sl e).ops = (s.barrow sl e).ops ∧ MemKept s t ∧ SpadKept s t) ∧
      (∀ s2, o.started = true → stop = none → s1'.writeRun n c o.dst o.next bs bad = (s2, none) → MemKept s2 t ∧ SpadKept s2 t ∧
        (t.barrow sl e).ops = (s2.barrow sl e).ops.map fun x => if x.tag = o.tag then { x with next := o.next + n, complete := decide (o.len ≤ o.next + n) } else x) ∧
      (∀ s2 off tr, o.started = true → stop = none → s1'.writeRun n c o.dst o.next bs bad = (s2, some (off, .fault tr)) → MemKept s2 t ∧ OneRecord s2 t c.part tr.cause tr.dcode (fun r => r.addr = tr.addr) ∧
        (t.barrow sl e).ops = (s2.barrow sl e).ops.map fun x => if x.tag = o.tag then { x with next := off, fault := some off } else x) ∧
      -- A fault at the source: the bytes before it are transferred first, and the operation stands at the fault.
      (∀ s2 tr, o.started = true → stop = some (.fault tr) → tr.cause ≠ 0x17 → s1.writeRun n c o.dst o.next bs bad = (s2, none) → MemKept s2 t ∧ OneRecord s2 t c.part tr.cause tr.dcode (fun r => r.addr = tr.addr) ∧
        (t.barrow sl e).ops = (s2.barrow sl e).ops.map fun x => if x.tag = o.tag then { x with next := o.next + bs.length, fault := some (o.next + bs.length) } else x)) ∧
  (∀ (s : State) (sl e : Nat), ∃ t, exec (.barrowRetire sl e) s = .next t ∧
    ((∀ x ∈ (s.barrow sl e).ops, s.barrowDone sl x = false) → t = s) ∧
    ∀ o, (s.barrow sl e).ops.find? (s.barrowDone sl) = some o →
      (t.barrow sl e).ops = (s.barrow sl e).ops.filter (fun x => x.tag != o.tag) ∧ MemKept s t ∧ SpadKept s t ∧ RetiredFrom s t o.unit o.stripe 3 o.ring o.orphan) ∧
  (∀ (s : State) (sl e tag : Nat), ∃ t, exec (.podRetireReport sl e tag) s = .next t ∧ { t with slices := s.slices } = s ∧
    (t.barrow sl e).ops = (s.barrow sl e).ops.map fun x => if x.tag = tag ∧ x.complete = true ∧ x.dst.kind = 3 then { x with reported := true } else x) ∧
  (∀ w ∈ [((Instr.engresResume : Nat → Nat → Nat → Instr), false), (.engresPoison, true)], ∀ (s : State) (p tag : Nat),
    (∀ u, u < 0x240 → ∃ t, exec (w.1 p (0x400 + u) tag) s = .next t ∧ (s.partOf u ≠ some p → t = s) ∧
      (s.partOf u = some p → CoreOnly s t u ∧ (t.core u).stage = resumed StageOp.tag (fun o => o.fault.any (· ≤ o.next)) (fun o => { o with fault := none, poisonRest := o.poisonRest || w.2 }) tag (s.core u).stage)) ∧
    (∀ u, u < 0x240 → ∃ t, exec (w.1 p (0x800 + u) tag) s = .next t ∧ (s.partOf u ≠ some p → t = s) ∧
      (s.partOf u = some p → CoreOnly s t u ∧ (t.core u).matrix.queue = resumed MatOp.tag (fun o => o.fault.isSome) (fun o => { o with fault := none, poisonRest := o.poisonRest || w.2 }) tag (s.core u).matrix.queue ∧
        (t.core u).matrix.drain = resumed MatOp.tag (fun o => o.fault.isSome) (fun o => { o with fault := none, poisonRest := o.poisonRest || w.2 }) tag (s.core u).matrix.drain)) ∧
    ∀ sl e, sl < 32 → e < 2 → ∃ t, exec (w.1 p (0xF00 + 2 * sl + e) tag) s = .next t ∧ ((s.slice sl).part ≠ some p → t = s) ∧
      ((s.slice sl).part = some p → { t with slices := s.slices } = s ∧
        (t.barrow sl e).ops = resumed BarrowOp.tag (fun o => o.fault.isSome) (fun o => { o with fault := none, poisonRest := o.poisonRest || w.2 }) tag (s.barrow sl e).ops))

namespace Sys2Proof.Slice0
open Sys2Proof.Machine

/-- The counter of an operation's stripe has fallen by one, unless its team has gone (R104, R106, R314). -/
def Uncounted (s t : State) (u : Nat) (o : MatOp) (cls : Nat) : Prop :=
  Tab.get (t.stripe u o.stripe).counters cls 0 = if o.orphan then Tab.get (s.stripe u o.stripe).counters cls 0 else Tab.get (s.stripe u o.stripe).counters cls 0 - 1

/-- A run of the scratchpad is there: no bank of it being cleared, no earlier access at its port, every granule full and none poisoned, and the bytes are these (R118, R124, R183). -/
def RunIs (s : State) (u off n : Nat) (bs : List Byte) : Prop := s.engRun u off n = .ok bs

/-- The operations of a unit's engine queue as its engine finds them: its slice is of a partition (R21). -/
def AtEngine (s : State) (u : Nat) (o : MatOp) (rest : List MatOp) : Prop := (s.partOf u).isSome = true ∧ (s.core u).matrix.queue = o :: rest

end Sys2Proof.Slice0

open Sys2Proof Sys2Proof.Machine Sys2Proof.Slice0

/-- MXLDB_PERFORM fills and validates the slot, or leaves it invalid and stops with POISON; MXMUL_KSTEP accumulates one k-step into every valid element; MATRIX_OP_PERFORM performs MXZERO, MXRD and MXWR and stores rows of MXSAVE; MATRIX_CLAIM_RELEASE clears both slots once the drains accepted before it are complete; each takes its operation from the queue and lowers M when it is done (R104, R173 to R177, R181 to R184, R187, R192, R193, R311 to R314, R325). Where the rules leave a point open the statement has the model's choice: logs 1, 35, 76 and 83. -/
def Obligations.MatrixOperationsArePerformed : Prop :=
  (∀ (s : State) (u : Nat) (o : MatOp) (rest : List MatOp) (data scales : List Byte), AtEngine s u o rest → o.op = 0 → o.lctl.testBit 16 = false →
    RunIs s u (ptrOff (o.at 0 8)) o.ldbRead data → RunIs s u (ptrOff (o.at 0x18 8)) o.ldbScales scales →
    ∃ t, exec (.mxldbPerform u) s = .next t ∧ CoreOnly s t u ∧ SpadKept s t ∧ (t.core u).till = (s.core u).till ∧ (t.core u).matrix.queue = rest ∧ Uncounted s t u o 1 ∧
      (∀ k, k ≠ o.arg 0 → Tab.get (t.core u).matrix.slots k {} = Tab.get (s.core u).matrix.slots k {}) ∧
      Tab.get (t.core u).matrix.slots (o.arg 0) {} =
        { valid := true, ecls := bits o.lctl 12 11, kcnt := bits o.lctl 10 0, scl := bits o.lctl 15 15, blk := bits o.lctl 14 13, bytes := data.take o.bBytes, scales := scales }) ∧
  (∀ (s : State) (u a : Nat) (o : MatOp) (rest : List MatOp) (tags scales : List Byte), AtEngine s u o rest → o.op = 0 → o.orphan = false → (s.thread u o.stripe o.lane).alive = true →
    s.engRun u (ptrOff (o.at 0 8)) o.ldbRead = .poison a → RunIs s u (ptrOff (o.at 0x10 8)) (if o.lctl.testBit 16 then o.ldbRead / 8192 * 16 else 0) tags →
    RunIs s u (ptrOff (o.at 0x18 8)) o.ldbScales scales →
    ∃ t d, exec (.mxldbPerform u) s = .next t ∧ (Tab.get (t.core u).matrix.slots (o.arg 0) {}).valid = false ∧ (t.core u).matrix.queue = rest.filter (fun x => x.op == 8) ∧
      (t.core u).matrix.stop = some (o.stripe, o.lane) ∧ (t.thread u o.stripe o.lane).deferred = some d ∧ d.cause = 0x13 ∧ d.pc = o.pc ∧ d.addr = o.ptr ∧ d.stamp = s.gtc ∧ MemKept s t ∧ SpadKept s t) ∧
  (∀ (s : State) (u : Nat) (o : MatOp) (rest : List MatOp), let c := s.core u
    let lo := o.ks * o.next
    let hi := min o.klen (lo + o.ks)
    AtEngine s u o rest → o.op = 1 → lo < o.klen → o.arg 1 ≤ 32 → (∀ x ∈ o.stepRuns lo hi, ∃ bs, RunIs s u x.2.1 x.2.2 bs) → (Descr.ofNat (o.fmt.toNat % 2 ^ 32)).nt = false ∨ o.int = true →
    ∃ t, exec (.mxmulKstep u) s = .next t ∧ MemKept s t ∧ SpadKept s t ∧ (t.core u).matrix.queue = { o with next := o.next + 1, sums := o.stepSums c lo hi } :: rest ∧
      (∀ i j, i < o.arg 0 → j < o.arg 1 → (t.core u).tillAt (o.tile0 + i / 32) (i % 32) j =
        o.accumulate (c.tillAt (o.tile0 + i / 32) (i % 32) j) (o.terms c (Tab.get c.matrix.slots (bits o.mctl 15 15) {}) i j lo hi)) ∧
      ∀ tile r j, r < 32 → j < 32 → (∀ i, i < o.arg 0 → j < o.arg 1 → (tile, r) ≠ (o.tile0 + i / 32, i % 32)) → (t.core u).tillAt tile r j = c.tillAt tile r j) ∧
  (∀ (s : State) (u : Nat) (o : MatOp) (rest : List MatOp), AtEngine s u o rest → o.op = 1 → o.klen ≤ o.ks * o.next → o.mctl.testBit 18 = false →
    ∃ t, exec (.mxmulKstep u) s = .next t ∧ CoreOnly s t u ∧ SpadKept s t ∧ (t.core u).till = (s.core u).till ∧ (t.core u).matrix.queue = rest ∧ Uncounted s t u o 1) ∧
  (∀ (s : State) (u : Nat) (o : MatOp) (rest : List MatOp), AtEngine s u o rest → o.fault = none →
    ∃ t, exec (.matrixOpPerform u) s = .next t ∧
      (o.op = 2 → CoreOnly s t u ∧ SpadKept s t ∧ (t.core u).matrix.queue = rest ∧ Uncounted s t u o 1 ∧
        ∀ tile r j, r < 32 → j < 32 → (t.core u).tillAt tile r j = if tile ∈ o.tiles then 0 else (s.core u).tillAt tile r j) ∧
      (o.op = 5 → CoreOnly s t u ∧ SpadKept s t ∧ (t.core u).till = (s.core u).till ∧ (t.core u).matrix.queue = rest ∧ Uncounted s t u o 1 ∧
        ∀ l, l < 32 → let written := (s.thread u o.stripe l).setRegs (o.arg 3) ((List.range (o.arg 2)).map fun i => (s.core u).tillAt (o.arg 0) (o.arg 1 + i) l)
          -- A lane whose transaction has aborted since the word keeps g0 to g31 as the abort left them (R325).
          if o.orphan = false ∧ o.lanes.getLsbD l = true ∧ (s.thread u o.stripe l).alive = true
          then (o.masked.getLsbD l = false → t.thread u o.stripe l = written) ∧
            (o.masked.getLsbD l = true → ∀ r, (t.thread u o.stripe l).reg r = if r < 32 then (s.thread u o.stripe l).reg r else written.reg r)
          else t.thread u o.stripe l = s.thread u o.stripe l) ∧
      (o.op = 6 → CoreOnly s t u ∧ SpadKept s t ∧ (t.core u).matrix.queue = rest ∧ Uncounted s t u o 1 ∧
        ∀ (n l i : Nat) (w : Word), (maskLanes o.lanes)[n]? = some l → ((o.data[n]?).getD [])[i]? = some w → (t.core u).tillAt (o.arg 0) (o.arg 1 + i) l = w) ∧
      (∀ s1 v off, o.op = 3 → (ptrSpace o.ptr ≠ 1 ∨ o.orphan = false) → o.poisonRest = false → s.engPlace (s.matCtx u o) (o.rowPtr o.next) 128 true = (s1, .ok (.spad v off)) →
        bytesGet (t.core v).sram off 128 = (s.core u).tillRow (o.arg 0 + o.next / 32) (o.next % 32) ∧ (t.core v).full (off / 16) = true ∧ MemKept s1 t ∧
        (t.core u).matrix.queue = if 32 * o.arg 1 ≤ o.next + 1 then rest else { o with next := o.next + 1 } :: rest)) ∧
  (∀ (s : State) (u : Nat) (o : MatOp) (rest : List MatOp), AtEngine s u o rest → o.op = 8 →
    ((∃ d ∈ (s.core u).matrix.drain, d.tag ∈ o.args ∧ d.complete = false) → exec (.matrixClaimRelease u) s = .next s) ∧
    ((∀ d ∈ (s.core u).matrix.drain, d.tag ∈ o.args → d.complete = true) → ∃ t, exec (.matrixClaimRelease u) s = .next t ∧ CoreOnly s t u ∧ (t.core u).stripes = (s.core u).stripes ∧ (t.core u).matrix = { (s.core u).matrix with queue := rest, slots := [] }))

/-- DRAIN_APPLY applies one indivisible unit: each row takes its new bytes, in a scratchpad with F = 1, and the drain moves on by the unit's rows; DRAIN_RETIRE takes a complete drain away, clears its tiles if it says so and lowers D (R194 to R199, R314). Where the rules leave a point open the statement has the model's choice: log 55. -/
def Obligations.DrainsApplyAndRetire : Prop :=
  (∀ (s s1 : State) (u : Nat) (o : MatOp) (ps : List (Nat × EngPlace)), s.drainHead u = some o → o.orphan = false → o.poisonRest = false →
    s.drainPlaces (s.matCtx u o) o (o.unitRows o.next) = (s1, .ok ps) → (∀ i ∈ o.unitRows o.next, (s1.arrays u o i).isSome = true) →
    (∀ i v off, (i, EngPlace.spad v off) ∈ ps → o.aop ≠ 0 → ∀ g ∈ granRange off o.rowRun, (s1.core v).full g = true) →
    ∃ t, exec (.drainApply u) s = .next t ∧ (∃ x ∈ (t.core u).matrix.drain, x.tag = o.tag ∧ x.next = o.next + (o.unitRows o.next).length ∧ x.complete = decide (o.drows ≤ o.next + (o.unitRows o.next).length)) ∧
      (t.core u).till = (s.core u).till ∧ (t.core u).matrix.queue = (s.core u).matrix.queue ∧
      ∀ i v off, ps = [(i, .spad v off)] → bytesGet (t.core v).sram off o.rowRun = o.rowNew (s1.core u) i (bytesGet (s1.core v).sram off o.rowRun) ∧
        (∀ g ∈ granRange off o.rowRun, (t.core v).full g = true) ∧ MemKept s1 t ∧ ∀ w b, (w ≠ v ∨ b < off ∨ off + o.rowRun ≤ b) → bytesAt (t.core w).sram b = bytesAt (s1.core w).sram b) ∧
  (∀ (s : State) (u : Nat) (o : MatOp) (rest : List MatOp), (s.core u).matrix.drain = o :: rest → (s.partOf u).isSome = true → o.complete = true →
    ∃ t, exec (.drainRetire u) s = .next t ∧ CoreOnly s t u ∧ SpadKept s t ∧ (t.core u).matrix.drain = rest.filter (fun x => x.tag != o.tag) ∧ Uncounted s t u o 2 ∧
      ∀ tile r j, r < 32 → j < 32 → (t.core u).tillAt tile r j = if o.dctl.testBit 10 = true ∧ tile ∈ o.tiles then 0 else (s.core u).tillAt tile r j) ∧
  (∀ (s : State) (u : Nat), (∀ o ∈ (s.core u).matrix.drain, o.complete = false) → exec (.drainRetire u) s = .next s)

namespace Sys2Proof.Slice0
open Sys2Proof.Machine

/-- What a collective word gives the participant of a rank (R337, R338): a vote over the values 1, a shuffle, a reduction, or the elected thread. -/
def collective (word : Nat) (as : List Arrival) (rank : Nat) (a : Arrival) : Nat :=
  let yes := as.filter fun x => x.a == 1
  if word / 4096 = 0x302 then
    (if word % 16 = 0 then (if yes.length = as.length then 1 else 0) else if word % 16 = 1 then (if yes.length = 0 then 0 else 1)
      else if word % 16 = 2 then yes.length else (laneMask fun l => yes.any fun x => x.lane == l).toNat)
  else if word / 4096 = 0x303 then shuffleVal (word % 16) as rank a
  else if word / 4096 = 0x304 then reduceVal (word % 16) (bits word 7 4) (as.map Arrival.a)
  else ((as.head?).map fun x => 32 * x.stripe + x.lane).getD 0

/-- The thread of an arrival. -/
def atPlace (s : State) (u : Nat) (a : Arrival) : Thread := s.thread u a.stripe a.lane

/-- The participants of a request are different threads of the core. -/
def Distinct (as : List Arrival) : Prop := (as.map fun a => (a.stripe, a.lane)).Nodup ∧ ∀ a ∈ as, a.lane < 32

/-- A thread that waited goes on. -/
def GoesOn (s t : State) (u : Nat) (a : Arrival) (w : Wait) : Prop := (atPlace s u a).status = .waiting w → (atPlace t u a).status = .ready

end Sys2Proof.Slice0

open Sys2Proof Sys2Proof.Machine Sys2Proof.Slice0

/-- GANG_RENDEZVOUS_COMPLETE waits for the last participant and then performs the operation: MXCLAIM gives the engine to the gang, MXFREE gives it back, a vote, shuffle, reduction or election writes every participant's register, and the rendezvous closes. TAKE_GRANT maps blocks, gives a bank or a run of tiles, or takes back what a GIVE returns. BANK_CLEAR_DONE and BANK_RETURN end a bank's clearing and its time outside the cache (R118, R119, R146, R149, R155 to R158, R179, R337, R338). Where the rules leave a point open the statement has the model's choice: logs 39, 40, 41 and 77. -/
def Obligations.GangsAndAllotments : Prop :=
  (∀ (s : State) (u g : Nat) (r : Rendezvous), Tab.find (s.core u).gangs g = some r → (r.complete = false → exec (.gangRendezvousComplete u g) s = .next s) ∧
    -- A participant that a booth runs comes home first.
    (r.complete = true → (∃ p ∈ r.parts, ∃ b k, (s.thread u p.1 p.2).status = .ejected b k) → ∃ t, exec (.gangRendezvousComplete u g) s = .next t ∧ MemKept s t ∧ SpadKept s t ∧
      (∀ v, (t.core v).stripes = (s.core v).stripes) ∧ Tab.find (t.core u).gangs g = some r) ∧
    (r.complete = true → r.ranked ≠ [] → (∀ p ∈ r.parts, ∀ b k, (s.thread u p.1 p.2).status ≠ .ejected b k) →
      (r.word = 0x200 → ∃ t, exec (.gangRendezvousComplete u g) s = .next t ∧ CoreOnly s t u ∧ SpadKept s t ∧ Tab.find (t.core u).gangs g = none ∧
        (t.core u).matrix.claim = some (((s.core u).matrix.claim).getD g) ∧ ∀ a ∈ r.ranked, (atPlace s u a).alive = true →
          (atPlace t u a).preds = predSet (atPlace s u a).preds a.pd (decide ((s.core u).matrix.claim = none ∨ (s.core u).matrix.claim = some g)) ∧ GoesOn s t u a (.gang g)) ∧
      (r.word = 0x201 → (s.core u).matrix.claim = some g → (∀ a ∈ r.ranked, (atPlace s u a).gangs.getLsbD g = true) → ∃ t, exec (.gangRendezvousComplete u g) s = .next t ∧ CoreOnly s t u ∧ SpadKept s t ∧ Tab.find (t.core u).gangs g = none ∧
        (t.core u).matrix.claim = none ∧ (∃ o, (t.core u).matrix.queue = (s.core u).matrix.queue ++ [o] ∧ o.op = 8) ∧ ∀ a ∈ r.ranked, GoesOn s t u a (.gang g)) ∧
      (4096 ≤ r.word → ∃ t, exec (.gangRendezvousComplete u g) s = .next t ∧ CoreOnly s t u ∧ SpadKept s t ∧ Tab.find (t.core u).gangs g = none ∧
        ∀ (n : Nat) (a : Arrival), r.ranked[n]? = some a → (atPlace s u a).alive = true → a.dst < 128 →
          (atPlace t u a).reg a.dst = BitVec.ofNat 32 (collective r.word r.ranked n a) ∧ (atPlace t u a).empty.getLsbD a.dst = false))) ∧
  (∀ (s : State) (u kind : Nat) (k : Taking) (x : Team), s.nextTaking u kind = some k → Distinct k.parts → (s.core u).team = some x →
    ∃ t, exec (.takeGrant u kind) s = .next t ∧ CoreOnly s t u ∧ (t.core u).takes = (s.core u).takes.erase k ∧ (∀ a ∈ k.parts, GoesOn s t u a (.take kind)) ∧
      (kind = 0 → k.give = false → SpadKept s t ∧ (t.core u).team = some { x with used := x.used + s.unitsFor u k.parts k.arg } ∧ ∀ a ∈ k.parts, (atPlace t u a).blocks = (atPlace s u a).blocks ||| BitVec.ofNat 12 k.arg ∧
        ∀ r, 32 ≤ r → r < 128 → k.arg.testBit ((r - 32) / 8) = true → (atPlace s u a).blocks.getLsbD ((r - 32) / 8) = false → (atPlace t u a).reg r = 0 ∧ (atPlace t u a).empty.getLsbD r = false) ∧
      (kind = 0 → k.give = true → SpadKept s t ∧ ∀ a ∈ k.parts, (atPlace t u a).blocks = (atPlace s u a).blocks &&& ~~~(BitVec.ofNat 12 k.arg)) ∧
      (kind = 1 → k.give = false → ∃ b, b < 32 ∧ (s.core u).mode b = 0 ∧ (∀ c, c < b → (s.core u).mode c ≠ 0) ∧ (t.core u).mode b = 1 ∧ (∀ c, c < 32 → c ≠ b → (t.core u).mode c = (s.core u).mode c) ∧ b ∈ (t.core u).clearing ∧
        (∀ n, bytesAt (t.core u).sram n = if n / bankBytes = b then 0 else bytesAt (s.core u).sram n) ∧ (∀ g, g / 4096 = b → (t.core u).full g = true ∧ (t.core u).poisoned g = false) ∧
        ∀ a ∈ k.parts, (atPlace s u a).alive = true → a.dst < 128 → (atPlace t u a).reg a.dst = BitVec.ofNat 32 b) ∧
      (kind = 2 → k.give = false → ∃ n, x.freeRun k.count = some n ∧ SpadKept s t ∧ (t.core u).team = some { x with taken := x.taken ++ (List.range k.count).map (n + ·) } ∧
        (∀ tile r j, r < 32 → j < 32 → (t.core u).tillAt tile r j = if n ≤ tile ∧ tile < n + k.count then 0 else (s.core u).tillAt tile r j) ∧
        ∀ a ∈ k.parts, (atPlace s u a).alive = true → a.dst < 128 → (atPlace t u a).reg a.dst = BitVec.ofNat 32 n) ∧
      (kind = 2 → k.give = true → SpadKept s t ∧ ∃ y, (t.core u).team = some y ∧ ∀ n, n ∈ y.taken ↔ n ∈ x.taken ∧ n ∉ giveTiles k.arg)) ∧
  (∀ (s : State) (u kind : Nat), s.nextTaking u kind = none → exec (.takeGrant u kind) s = .next s) ∧
  (∀ (s : State) (u b : Nat), ∃ t, exec (.bankClearDone u b) s = .next t ∧ CoreOnly s t u ∧ (t.core u).stripes = (s.core u).stripes ∧ SpadKept s t ∧ ∀ c, c ∈ (t.core u).clearing ↔ c ∈ (s.core u).clearing ∧ (c ≠ b ∨ s.gtc < Tab.get (s.core u).clearAt b 0)) ∧
  (∀ (s : State) (u b : Nat), b < 32 → ∃ t, exec (.bankReturn u b) s = .next t ∧ (b ∉ (s.core u).leaving ∨ s.bankBusy u b = true → t = s) ∧
    -- A core without a team whose last bank has come back can be placed again: a decision follows (log 41).
    (b ∈ (s.core u).leaving → s.bankBusy u b = false →
      CoreOnly (if (s.core u).team = none ∧ ∀ c ∈ (s.core u).leaving, c = b then s.onPart ((s.partOf u).getD 0) fun p => { p with decide := true } else s) t u ∧ (t.core u).mode b = 0 ∧ b ∉ (t.core u).leaving ∧ (∀ c, c < 32 → c ≠ b → (t.core u).mode c = (s.core u).mode c) ∧
      ∀ k ∈ (s.core u).takes, k.give = true → k.kind = 1 → k.arg % 32 = b → k ∉ (t.core u).takes ∧ ∀ a ∈ k.parts, GoesOn s t u a (.take 1)))

namespace Sys2Proof.Slice0
open Sys2Proof.Machine

/-- The gang that a gang word names (R146). -/
def gangNo (f : FmtE) : Nat := f.imm8.toNat % 32
/-- The register of the mask that a gang word in the E format names (R147, R335). -/
def maskReg (f : FmtE) : Option Nat := if f.x.getLsbD 8 then some f.sc.toNat else none

/-- Lane l alone executes a gang word and is the gang's only participant: its registers are ready, its mask holds it, and no rendezvous of the gang is open (R145 to R147). -/
structure Alone (s : State) (f : FmtE) (l : Nat) (regs : List Nat) (mreg : Option Nat) : Prop where
  kind   : s.curKind = .simt
  stripe : s.cur.stripe < 16
  one    : s.active f.hdr = [l]
  ready  : (s.curThread l).status = .ready
  regs   : s.RegsReady f.hdr (regs ++ mreg.toList)
  mask   : (mreg.elim 0xFFFFFFFF (s.curThread l).reg).getLsbD l = true
  member : (s.curThread l).gangs.getLsbD (gangNo f) = true
  alone  : ∀ j k, j < 16 → k < 32 → (s.thread s.cur.unit j k).alive = true → (s.thread s.cur.unit j k).gangs.getLsbD (gangNo f) = true →
    (mreg.elim 0xFFFFFFFF (s.curThread l).reg).getLsbD k = true → j = s.cur.stripe ∧ k = l
  closed : Tab.find (s.core s.cur.unit).gangs (gangNo f) = none

/-- The word issues, and the rendezvous that it completes takes place (R146, R149). -/
def Meets (s : State) (i : Instr) (f : FmtE) (t : State) : Prop := ∃ r, exec i s = .next r ∧ exec (.gangRendezvousComplete s.cur.unit (gangNo f)) r = .next t

/-- The word issues, its rendezvous completes, and the event that ends its wait follows (R155). -/
def Passes (s : State) (i : Instr) (f : FmtE) (e : Instr) (t : State) : Prop := ∃ r, Meets s i f r ∧ exec e r = .next t

/-- Lane l of the issuing stripe as it is in another state. -/
def laneIn (s t : State) (l : Nat) : Thread := t.thread s.cur.unit s.cur.stripe l

/-- The lane is past its word and ready, with these predicates; one register has a new value, every other register is as before, and all are as full as before. -/
structure PastWord (s t : State) (l : Nat) (ps : BitVec 7) (v : Option (Nat × Word)) : Prop where
  status : (laneIn s t l).status = .ready
  pc     : (laneIn s t l).pc = (s.curThread l).pc + 8
  preds  : (laneIn s t l).preds = ps
  full   : (laneIn s t l).empty = (s.curThread l).empty
  regs   : ∀ k, k < 128 → (laneIn s t l).reg k = match v with
    | some (d, x) => if k = d then x else (s.curThread l).reg k
    | none => (s.curThread l).reg k

/-- The operation that the word of lane l gives the matrix engine (R188, R309). -/
def mulOpOf (s : State) (f : FmtE) (l : Nat) : MatOp :=
  let x := s.curThread l
  s.mulOp s.cur.unit { stripe := s.cur.stripe, lane := l, a := (x.pair f.sa.toNat).toNat, b := (x.pair f.sb.toNat).toNat + 2 ^ 64 * (x.pair f.sc.toNat).toNat, dst := 128, pd := 7 } x.pc.toNat

/-- The parameter block of an MXMUL is there and passes its checks, and the engine has room (R183, R188, R190). -/
structure MulReady (s : State) (o : MatOp) : Prop where
  aligned : o.ptr % 128 = 0
  inside  : s.ownSpad s.cur.unit ((s.partOf s.cur.unit).getD 0) o.ptr 128 = none
  full    : ∀ g ∈ granRange (ptrOff o.ptr) 128, (s.core s.cur.unit).full g = true
  clean   : ((s.core s.cur.unit).readSram (ptrOff o.ptr) 128).2 = false
  port    : s.portBusy s.cur.unit (ptrOff o.ptr) 128 = false ∧ ∀ g ∈ granRange (ptrOff o.ptr) 128, g / 4096 ∉ (s.core s.cur.unit).clearing
  checks  : s.mulCheck s.cur.unit o = none
  room    : s.matWait s.cur.unit s.cur.stripe false = none ∧ (s.core s.cur.unit).matrix.stop = none

end Sys2Proof.Slice0

open Sys2Proof Sys2Proof.Machine Sys2Proof.Slice0

/-- A gang word of a gang's only participant has its whole effect once its rendezvous has completed: GVOTE, GSHFL, GRED and GELECT write their result; MXCLAIM takes the free engine, MXFREE gives it back, MXMUL queues its operation; TXEND.g ends an empty transaction; TAKE and GIVE map and unmap blocks, give a bank or a run of tiles and take them back, and a .try that cannot be granted answers at once (R146, R149, R155 to R158, R179, R188, R267, R307, R309, R320, R337, R338). Where the rules leave a point open the statement has the model's choice: logs 39 and 83. -/
def Obligations.GangWordsTakeEffect : Prop :=
  (
  (∀ (f : FmtE) (s : State) (l : Nat), Alone s f l [f.dst.toNat] (maskReg f) →
    let p := (s.curThread l).pred (f.sa.toNat % 8)
    ∃ t, Meets s (.gvote f) f t ∧ BytesKept s t ∧
      PastWord s t l (if f.x.toNat % 16 < 2 ∧ bits f.x.toNat 6 4 ≠ 0 then predSet (s.curThread l).preds (bits f.x.toNat 6 4) p else (s.curThread l).preds)
        (some (f.dst.toNat, if p then (if f.x.toNat % 16 < 3 then 1 else BitVec.ofNat 32 (2 ^ l)) else 0))) ∧
  (∀ (f : FmtE) (s : State) (l : Nat), Alone s f l [f.sa.toNat, f.sb.toNat, f.dst.toNat] (maskReg f) →
    ∃ t, Meets s (.gshfl f) f t ∧ BytesKept s t ∧ PastWord s t l (s.curThread l).preds (some (f.dst.toNat, (s.curThread l).reg f.sa.toNat))) ∧
  (∀ (f : FmtE) (s : State) (l : Nat), Alone s f l [f.sa.toNat, f.dst.toNat] (maskReg f) →
    let v := (s.curThread l).reg f.sa.toNat
    let r : Word := if bits f.x.toNat 7 4 = 8 ∧ f.x.toNat % 16 < 3 then
        BitVec.ofNat 32 (if f.x.toNat % 16 = 0 then fp32.sum .rn [fp32.decode v.toNat] else fp32.pick (decide (f.x.toNat % 16 = 2)) v.toNat v.toNat) else v
    ∃ t, Meets s (.gred f) f t ∧ BytesKept s t ∧ PastWord s t l (s.curThread l).preds (some (f.dst.toNat, r))) ∧
  (∀ (f : FmtE) (s : State) (l : Nat), Alone s f l [f.dst.toNat] (maskReg f) →
    ∃ t, Meets s (.gelect f) f t ∧ BytesKept s t ∧
      PastWord s t l (predSet (s.curThread l).preds (bits f.x.toNat 6 4) true) (some (f.dst.toNat, BitVec.ofNat 32 (32 * s.cur.stripe + l))))) ∧
  (
  (∀ (f : FmtE) (s : State) (l : Nat), Alone s f l [] (maskReg f) → MatrixMayIssue false s f.hdr →
    let c := (s.core s.cur.unit).matrix.claim
    ∃ t, Meets s (.mxclaim f) f t ∧ BytesKept s t ∧ (t.core s.cur.unit).matrix.claim = some (c.getD (gangNo f)) ∧
      PastWord s t l (predSet (s.curThread l).preds (bits f.x.toNat 6 4) (decide (c = none ∨ c = some (gangNo f)))) none) ∧
  (∀ (f : FmtE) (s : State) (l : Nat), Alone s f l [] (maskReg f) → MatrixMayIssue false s f.hdr → (s.core s.cur.unit).matrix.claim = some (gangNo f) →
    ∃ t o, Meets s (.mxfree f) f t ∧ BytesKept s t ∧ (t.core s.cur.unit).matrix.claim = none ∧ (t.core s.cur.unit).matrix.queue = (s.core s.cur.unit).matrix.queue ++ [o] ∧ o.op = 8 ∧
      PastWord s t l (s.curThread l).preds none) ∧
  (∀ (f : FmtE) (s : State) (l : Nat), Alone s f l [f.sa.toNat, f.sa.toNat + 1, f.sb.toNat, f.sb.toNat + 1, f.sc.toNat, f.sc.toNat + 1] (if f.x.getLsbD 8 then some f.dst.toNat else none) →
    MatrixMayIssue true s f.hdr → TillOk s f → MulReady s (mulOpOf s f l) →
    ∃ t tag, Meets s (.mxmul f) f t ∧ BytesKept s t ∧ Accepted s t (mulOpOf s f l) tag ∧ PastWord s t l (s.curThread l).preds none) ∧
  (∀ (f : FmtE) (s : State) (l : Nat), Alone s f l [] (maskReg f) → (s.curThread l).tx.depth = 1 → (s.curThread l).tx.count = 0 → s.pending s.cur.unit s.cur.stripe l true false false = false →
    (∀ c ∈ s.commits, ¬ (c.unit = s.cur.unit ∧ c.stripe = s.cur.stripe ∧ c.lane = l)) →
    ∃ t, Meets s (.txendG f) f t ∧ BytesKept s t ∧ (laneIn s t l).tx = {} ∧ (laneIn s t l).txcause = 0 ∧ PastWord s t l (s.curThread l).preds none)) ∧
  (
  (∀ (f : FmtE) (s : State) (l : Nat) (m : Team), Alone s f l [f.sb.toNat] (maskReg f) → f.x.getLsbD 7 = false → (s.core s.cur.unit).takes = [] → (s.core s.cur.unit).team = some m →
    let x := s.curThread l
    let k := (x.reg f.sb.toNat).toNat % 4096
    (m.used + x.unmapped k ≤ m.pool → ∃ t, Passes s (.takeR f) f (.takeGrant s.cur.unit 0) t ∧ BytesKept s t ∧ (t.core s.cur.unit).team = some { m with used := m.used + x.unmapped k } ∧
      (laneIn s t l).blocks = x.blocks ||| BitVec.ofNat 12 k ∧ (laneIn s t l).status = .ready ∧ (laneIn s t l).pc = x.pc + 8) ∧
    ((∀ r, 32 ≤ r → r < 128 → k.testBit ((r - 32) / 8) = true → x.blocks.getLsbD ((r - 32) / 8) = true → x.empty.getLsbD r = false) →
      ∃ t, Passes s (.giveR f) f (.takeGrant s.cur.unit 0) t ∧ BytesKept s t ∧ (t.core s.cur.unit).team = some { m with used := m.used - x.mappedIn k } ∧
        (laneIn s t l).blocks = x.blocks &&& ~~~(BitVec.ofNat 12 k) ∧ (laneIn s t l).status = .ready ∧ (laneIn s t l).pc = x.pc + 8)) ∧
  (∀ (f : FmtE) (s : State) (l b : Nat), Alone s f l [f.dst.toNat] (maskReg f) → f.x.getLsbD 7 = false → (s.core s.cur.unit).takes = [] →
    b < 32 → (s.core s.cur.unit).mode b = 0 → (∀ c, c < b → (s.core s.cur.unit).mode c ≠ 0) →
    ∃ t, Passes s (.takeS f) f (.takeGrant s.cur.unit 1) t ∧ MemKept s t ∧ (∀ c, c < 32 → (t.core s.cur.unit).mode c = if c = b then 1 else (s.core s.cur.unit).mode c) ∧
      PastWord s t l (s.curThread l).preds (some (f.dst.toNat, BitVec.ofNat 32 b))) ∧
  (∀ (f : FmtE) (s : State) (l b : Nat), Alone s f l [f.sb.toNat] (maskReg f) → f.x.getLsbD 7 = false → (s.core s.cur.unit).takes = [] →
    b = ((s.curThread l).reg f.sb.toNat).toNat % 32 → (s.core s.cur.unit).mode b = 1 → b ∉ (s.core s.cur.unit).leaving → s.bankBusy s.cur.unit b = false →
    ∃ t, Passes s (.giveS f) f (.bankReturn s.cur.unit b) t ∧ MemKept s t ∧ (∀ c, c < 32 → (t.core s.cur.unit).mode c = if c = b then 0 else (s.core s.cur.unit).mode c) ∧
      PastWord s t l (s.curThread l).preds none) ∧
  (∀ (f : FmtE) (s : State) (l n : Nat) (m : Team), Alone s f l [f.sb.toNat, f.dst.toNat] (maskReg f) → TillOk s f → f.x.getLsbD 7 = false → (s.core s.cur.unit).takes = [] →
    (s.core s.cur.unit).team = some m → let c := ((s.curThread l).reg f.sb.toNat).toNat % 64
    1 ≤ c → c ≤ 32 → m.freeRun c = some n →
    ∃ t, Passes s (.takeK f) f (.takeGrant s.cur.unit 2) t ∧ BytesKept s t ∧ (t.core s.cur.unit).team = some { m with taken := m.taken ++ (List.range c).map (n + ·) } ∧
      PastWord s t l (s.curThread l).preds (some (f.dst.toNat, BitVec.ofNat 32 n))) ∧
  (∀ (f : FmtE) (s : State) (l : Nat) (m : Team), Alone s f l [f.sb.toNat] (maskReg f) → TillOk s f → f.x.getLsbD 7 = false → (s.core s.cur.unit).takes = [] →
    (s.core s.cur.unit).team = some m → let v := ((s.curThread l).reg f.sb.toNat).toNat
    1 ≤ bits v 21 16 → bits v 21 16 ≤ 32 → (∀ k ∈ giveTiles v, k ∈ m.taken ∧ (s.core s.cur.unit).tileBusy k = false) →
    ∃ t, Passes s (.giveK f) f (.takeGrant s.cur.unit 2) t ∧ BytesKept s t ∧ (∃ y, (t.core s.cur.unit).team = some y ∧ ∀ k, k ∈ y.taken ↔ k ∈ m.taken ∧ k ∉ giveTiles v) ∧
      PastWord s t l (s.curThread l).preds none) ∧
  (∀ (f : FmtE) (s : State) (l : Nat) (m : Team), f.x.getLsbD 7 = true → (s.core s.cur.unit).takes = [] → (s.core s.cur.unit).team = some m →
    let no := predSet (s.curThread l).preds (bits f.x.toNat 6 4) false
    let v := ((s.curThread l).reg f.sb.toNat).toNat
    (Alone s f l [f.sb.toNat] (maskReg f) → m.pool < m.used + (s.curThread l).unmapped (v % 4096) → ∃ t, Meets s (.takeR f) f t ∧ BytesKept s t ∧ PastWord s t l no none) ∧
    (Alone s f l [f.dst.toNat] (maskReg f) → (∀ b, b < 32 → (s.core s.cur.unit).mode b ≠ 0) → ∃ t, Meets s (.takeS f) f t ∧ BytesKept s t ∧ PastWord s t l no (some (f.dst.toNat, 0xFFFFFFFF))) ∧
    (Alone s f l [f.sb.toNat, f.dst.toNat] (maskReg f) → TillOk s f → 1 ≤ v % 64 → v % 64 ≤ 32 → m.freeRun (v % 64) = none →
      ∃ t, Meets s (.takeK f) f t ∧ BytesKept s t ∧ PastWord s t l no (some (f.dst.toNat, 0xFFFFFFFF)))))

/-- CHANNEL_SLOT_FULL writes the oldest message to its slot, leaves the slot's granules full and lowers the sender's X counter; CHANNEL_CREDIT_RETURN gives one credit back; a slice in drain discards both; PROMOTION_REQUEST leaves once the loads have their values, and PROMOTION_ACK then writes them; TLBINV_COMPLETE waits for the accesses and commits before it and leaves no covered translation; WLATCH_COMPLETE leaves the core in its new world with nothing of the old (R69, R93, R128, R244, R360, R361). Where the rules leave a point open the statement has the model's choice: logs 36 and 44. -/
def Obligations.MessagesAndSequencesComplete : Prop :=
  (∀ (s : State) (u k : Nat) (ch : Channel) (m : Message) (rest : List Message), Tab.find (s.core u).chans k = some ch → ch.flight = m :: rest →
    ∃ t, exec (.channelSlotFull u k) s = .next t ∧ (s.inDrain u = false → ch.bank ∈ (s.core u).clearing → t = s) ∧
      -- A slice in drain discards what arrives.
      (s.inDrain u = true → CoreOnly s t u ∧ (t.core u).stripes = (s.core u).stripes ∧ SpadKept s t ∧ Tab.find (t.core u).chans k = some { ch with flight := rest }) ∧
      (s.inDrain u = false → ch.bank ∉ (s.core u).clearing → MemKept s t ∧ bytesGet (t.core u).sram (ch.slotOff m.slot) m.bytes.length = m.bytes ∧ (∀ g ∈ granRange (ch.slotOff m.slot) ch.slotBytes, (t.core u).full g = true) ∧
        (∀ b, b < ch.slotOff m.slot ∨ ch.slotOff m.slot + m.bytes.length ≤ b → bytesAt (t.core u).sram b = bytesAt (s.core u).sram b) ∧ (∀ v, v ≠ u → (t.core v).sram = (s.core v).sram) ∧
        Tab.find (t.core u).chans k = some { ch with flight := rest } ∧
        Tab.get (t.stripe ch.fromUnit m.stripe).counters 4 0 = (if ch.senderGone then Tab.get (s.stripe ch.fromUnit m.stripe).counters 4 0 else Tab.get (s.stripe ch.fromUnit m.stripe).counters 4 0 - 1))) ∧
  (∀ (s : State) (u k : Nat) (ch : Channel), Tab.find (s.core u).chans k = some ch → ∃ t, exec (.channelCreditReturn u k) s = .next t ∧ CoreOnly s t u ∧ (t.core u).stripes = (s.core u).stripes ∧ SpadKept s t ∧
    Tab.find (t.core u).chans k = some (if ch.returns = 0 then ch else { ch with returns := ch.returns - 1, credits := if s.inDrain u = true then ch.credits else ch.credits + 1 })) ∧
  (∀ (s : State) (u i : Nat) (p : Promotion), (s.core u).promos.find? (fun p => p.stripe == i && !p.sent) = some p →
    ∃ t, exec (.promotionRequest u i) s = .next t ∧ ((∃ id ∈ p.ids, ∃ a, s.access p.home id = some a ∧ a.performed = false) → t = s) ∧
      ((∀ id ∈ p.ids, ∀ a, s.access p.home id = some a → a.performed = true) → CoreOnly s t u ∧ (t.core u).stripes = (s.core u).stripes ∧ SpadKept s t ∧
        ∃ q ∈ (t.core u).promos, q.stripe = i ∧ q.sent = true ∧ q.ids = p.ids ∧ q.before = ((s.core (p.target.getD 0)).outq.filter fun a => a.released && !a.performed).map Access.id)) ∧
  (∀ (s : State) (u i id d : Nat) (p : Promotion) (a : Access), (s.core u).promos.find? (fun p => p.stripe == i && p.sent && !p.acked) = some p → p.ids = [id] → s.access p.home id = some a → a.performed = true →
    a.dst = some d → a.spec = false → a.poisoned = false →
    ∃ (t : State) (v j l : Nat), exec (.promotionAck u i) s = .next t ∧ (v, j, l) = s.runsAt p.home a.stripe a.lane ∧ (s.promoServed p = false → t = s) ∧
      (s.promoServed p = true → MemKept s t ∧ SpadKept s t ∧ t.thread v j l = (s.thread v j l).setRegs d (extendLoad a.code a.value) ∧ t.access p.home id = none ∧ (∃ q ∈ (t.core u).promos, q.stripe = i ∧ q.acked = true) ∧
        ∀ w m n, (w, m, n) ≠ (v, j, l) → t.thread w m n = s.thread w m n)) ∧
  (∀ (s : State) (u i : Nat) (v : Invalidation), (s.core u).invals.find? (fun v => v.stripe == i) = some v →
    ∃ t, exec (.tlbinvComplete u i) s = .next t ∧ ((∃ x ∈ v.before, ∃ a ∈ (s.core x.1).outq, a.id = x.2 ∧ a.performed = false) ∨ (∃ c ∈ s.commits, c.id ∈ v.txs) → t = s) ∧
      (s.beforeInval v = false → MemKept s t ∧ SpadKept s t ∧ (t.core u).invals = (s.core u).invals.erase v ∧
        ∀ e ∈ t.cores, s.partOf e.1 = some ((s.partOf u).getD 0) → e.2.walkCache = [] ∧ ∀ x ∈ e.2.tlb ++ e.2.quadTlb.flatMap (·.2) ++ e.2.walkAhead, v.covers x = false)) ∧
  (∀ (s : State) (u : Nat) (w : BitVec 6), (s.core u).latching = some w → s.rootUp = true →
    ∃ t, exec (.wlatchComplete u) s = .next t ∧ (s.gtc < (s.core u).latchAt → t = s) ∧
      ((s.core u).latchAt ≤ s.gtc → MemKept s t ∧ (∀ v, v ≠ u → t.core v = s.core v) ∧ (t.core u).world = w ∧ (t.core u).latching = none ∧ (t.core u).sram = [] ∧ (t.core u).till = [] ∧ (t.core u).lines = [] ∧
        (t.core u).tlb = [] ∧ (t.core u).quadTlb = [] ∧ (t.core u).walkCache = [] ∧ (t.core u).bmode = 0 ∧ (t.core u).matrix.claim = none ∧ (∀ i l, t.thread u i l = {}) ∧ (t.core u).kown = (s.core u).kown &&& 0x7FFFFFFF))

namespace Sys2Proof.Slice0
open Sys2Proof.Machine

/-- The thread's transaction has ended in success (R323, R326). -/
def Committed (s t : State) (c : Commit) : Prop :=
  t.commit c.id = none ∧ (t.thread c.unit c.stripe c.lane).tx.depth = 0 ∧
  ((s.thread c.unit c.stripe c.lane).tx.depth ≠ 0 → (t.thread c.unit c.stripe c.lane).txcause = 0 ∧ (t.thread c.unit c.stripe c.lane).pc = (s.thread c.unit c.stripe c.lane).pc ∧
    (t.thread c.unit c.stripe c.lane).acquired = true)

/-- The thread's transaction has aborted with cause CONFLICT and this entry (R325, R326). -/
def Conflicted (s t : State) (c : Commit) (entry : Nat) : Prop :=
  t.commit c.id = none ∧ (t.thread c.unit c.stripe c.lane).tx.depth = 0 ∧
  ((s.thread c.unit c.stripe c.lane).tx.depth ≠ 0 → (t.thread c.unit c.stripe c.lane).txcause = txCause 1 0 0 entry ∧ (t.thread c.unit c.stripe c.lane).pc = (s.thread c.unit c.stripe c.lane).tx.target ∧
    (t.thread c.unit c.stripe c.lane).preds = (s.thread c.unit c.stripe c.lane).tx.check.preds)

end Sys2Proof.Slice0

open Sys2Proof Sys2Proof.Machine Sys2Proof.Slice0

/-- TX_PREPARE answers NO for a word that another commit holds or that has changed, else it reserves every entry and answers YES; TX_DECIDE commits exactly when every answer is YES, under one stamp; TX_COMMIT_WRITE writes only for a commit, releases the reservations, and with the last bank ends the transaction; TX_SINGLE_BANK_COMMIT does it all in one step; a write drops the line that its core holds, and a bank without a way or a register for a line makes the commit wait (R82, R84, R85, R93, R118, R121, R322 to R326). Where the rules leave a point open the statement has the model's choice: logs 37 and 61. -/
def Obligations.CommitsRunToTheirEnd : Prop :=
  (∀ (s : State) (tx bank : Nat) (c : Commit) (es : List TxEntry), s.commit tx = some c → c.entries.find? (fun e => e.1 == bank) = some (bank, es) → 2 ≤ c.entries.length → Tab.find c.answers bank = none → s.inDrain c.unit = false →
    ∃ t, exec (.txPrepare tx bank) s = .next t ∧ (s.txTakes c es = false → t = s) ∧ (s.txTakes c es = true →
      ((∃ e ∈ es, (s.bank bank).against tx e = true) ∨ 256 < (s.bank bank).reserved.length + es.length → { t with commits := s.commits } = s ∧ t.commit tx = some { c with answers := Tab.set c.answers bank (some (c.count + 1)) }) ∧
      ((∀ e ∈ es, (s.bank bank).against tx e = false) → (s.bank bank).reserved.length + es.length ≤ 256 →
        (∀ s1 k, s.txValidate (s.txPart c) es = (s1, some k) → MemKept s1 t ∧ (t.bank bank).reserved = (s.bank bank).reserved ∧ t.commit tx = some { c with answers := Tab.set c.answers bank (some k) }) ∧
        (∀ s1, s.txValidate (s.txPart c) es = (s1, none) → MemKept s1 t ∧ t.commit tx = some { c with answers := Tab.set c.answers bank none } ∧
          (t.bank bank).reserved = (s.bank bank).reserved ++ es.map fun e => { pa := e.pa, size := 4, write := e.wmask != 0, tx := tx })))) ∧
  (∀ (s : State) (tx : Nat) (c : Commit), s.commit tx = some c → 2 ≤ c.entries.length → c.decided = none → s.inDrain c.unit = false →
    ∃ t, exec (.txDecide tx) s = .next t ∧ ((∃ e ∈ c.entries, Tab.find c.answers e.1 = none) → t = s) ∧
      ((∀ e ∈ c.entries, Tab.find c.answers e.1 ≠ none) → { t with commits := s.commits } = s ∧ ∃ d, t.commit tx = some d ∧ d.stamp = s.gtc ∧ d.entries = c.entries ∧ d.decided = some (decide (∀ a ∈ c.answers, a.2 = none)) ∧
        ∀ k, (∃ a ∈ c.answers, a.2 = some k) → k ≤ c.count → d.entry ≤ k)) ∧
  (∀ (s : State) (tx bank : Nat) (c : Commit) (es : List TxEntry) (ok : Bool), s.commit tx = some c → c.entries.find? (fun e => e.1 == bank) = some (bank, es) → c.decided = some ok → bank ∉ c.acted → s.inDrain c.unit = false →
    (ok = true → s.txTakes c es = true) → s.logClearing c.unit c.stripe c.lane = none → ∃ t, exec (.txCommitWrite tx bank) s = .next t ∧ (t.bank bank).reserved = (s.bank bank).reserved.filter (fun r => r.tx != tx) ∧
      (ok = false → MemKept s t) ∧ (ok = true → MemKept (s.txWriteBack (s.txHome c.unit c.stripe c.lane) (s.txPart c) es) t) ∧
      (c.acted.length + 1 ≠ c.entries.length → t.commit tx = some { c with acted := c.acted ++ [bank] } ∧ ∀ u i l, t.thread u i l = s.thread u i l) ∧
      (c.acted.length + 1 = c.entries.length → (ok = true → Committed s t c) ∧ (ok = false → Conflicted s t c c.entry))) ∧
  (∀ (s : State) (tx bank : Nat) (c : Commit) (es : List TxEntry), s.commit tx = some c → c.entries = [(bank, es)] → s.inDrain c.unit = false → s.logClearing c.unit c.stripe c.lane = none →
    ∃ t, exec (.txSingleBankCommit tx) s = .next t ∧ ((∃ e ∈ es, (s.bank bank).against tx e = true) ∨ s.txTakes c es = false → t = s) ∧
      ((∀ e ∈ es, (s.bank bank).against tx e = false) → s.txTakes c es = true →
        (∀ s1 k, s.txValidate (s.txPart c) es = (s1, some k) → MemKept s1 t ∧ Conflicted s t c k) ∧
        (∀ s1, s.txValidate (s.txPart c) es = (s1, none) → MemKept (s1.txWriteBack (s.txHome c.unit c.stripe c.lane) (s.txPart c) es) t ∧ Committed s t c))) ∧
  -- The packets of a draining partition's commit are discarded where they arrive, and the commit is gone with its reservations; a commit waits while the bank of its log is cleared.
  (∀ (s : State) (tx bank : Nat) (c : Commit) (es : List TxEntry), s.commit tx = some c → c.entries.find? (fun e => e.1 == bank) = some (bank, es) → s.inDrain c.unit = true →
    ∀ i ∈ [Instr.txPrepare tx bank, .txDecide tx], ∃ t, exec i s = .next t ∧ MemKept s t ∧ SpadKept s t ∧ t.commit c.id = none ∧ ∀ r ∈ (t.bank bank).reserved, r.tx ≠ c.id) ∧
  (∀ (s : State) (tx bank : Nat) (c : Commit) (es : List TxEntry), s.commit tx = some c → c.entries = [(bank, es)] → s.inDrain c.unit = false → s.logClearing c.unit c.stripe c.lane ≠ none →
    exec (.txSingleBankCommit tx) s = .next s) ∧
  (∀ (s : State) (hu part sl loc : Nat) (e : TxEntry), s.homeOf part e.pa = some (sl, loc) → (s.frame (frameKey sl loc)).dead = false → (s.bank (bankOf sl loc)).failed = false →
    s.inBank sl loc = true → e.wmask ≠ 0 →
    bytesGet (s.txWriteBack hu part [e]).mem (memKey sl loc) 4 = leBytes 4 (mixWord e.wmask e.wval (BitVec.ofNat 32 (leNat (bytesGet s.mem (memKey sl loc) 4)))).toNat ∧
      (∀ ln ∈ ((s.txWriteBack hu part [e]).core hu).lines, ln.pa ≠ e.pa / 128 * 128) ∧ ∀ b, b < memKey sl loc ∨ memKey sl loc + 4 ≤ b → bytesAt (s.txWriteBack hu part [e]).mem b = bytesAt s.mem b)

namespace Sys2Proof.Slice0
open Sys2Proof.Machine

/-- The hand-back of guest k has begun (R387): 40 clk run, and the base registers of its home lane are empty. -/
structure BackBegun (s t : State) (u k : Nat) (g : Guest) : Prop where
  guest : ∃ h, Tab.find (t.core u).guests k = some h ∧ h.back = true ∧ h.returning = true ∧ h.due = s.gtc + clkTicks 40 ∧ h.home = g.home ∧ h.stripe = g.stripe ∧ h.lane = g.lane
  empty : ∀ r, r < 32 → (t.thread g.home g.stripe g.lane).empty.getLsbD r = true
  mem   : MemKept s t ∧ SpadKept s t

end Sys2Proof.Slice0

open Sys2Proof Sys2Proof.Machine Sys2Proof.Slice0

/-- EJECT_HANDOVER_DONE lets the booth thread issue when its time has come; BOOTH_TURN grants the slot in rotation; BOOTH_RETURN, at the join PC, and REPATRIATE, sent home or marked, begin the hand-back of a thread whose base registers are full; BOOTH_TIME_LIMIT marks the thread at its limit; HAND_BACK_DONE gives its registers, predicates and PC to the home lane and frees the booth thread; BOOTH_FAILURE ends every resident thread (R385 to R388, R391). Where the rules leave a point open the statement has the model's choice: logs 30, 54 and 69. -/
def Obligations.BoothThreadsComeAndGo : Prop :=
  (∀ (s : State) (u k : Nat) (g : Guest), Tab.find (s.core u).guests k = some g → g.arrived = false →
    ∃ t, exec (.ejectHandoverDone u k) s = .next t ∧ (s.gtc < g.due → t = s) ∧
      (g.due ≤ s.gtc → CoreOnly s t u ∧ Tab.find (t.core u).guests k = some { g with arrived := true } ∧ t.thread u k 0 = { s.thread u k 0 with status := .ready } ∧ ∀ j, j ≠ k → t.stripe u j = s.stripe u j)) ∧
  (∀ (s : State) (u n k : Nat), let x := Tab.get (s.core u).quads 0 {}
    x.turn = none → kindOf u = .booth → n < 16 → k = (x.last + 1 + n) % 16 → s.stripeReady u k = true → (∀ j, j < n → s.stripeReady u ((x.last + 1 + j) % 16) = false) →
    ∃ (t : State) (r : Turn), exec (.boothTurn u) s = .next t ∧ Tab.get (t.core u).quads 0 {} = { turn := some r, last := k } ∧ Voted s u k r ∧ CoreOnly s t u ∧ (∀ j, j ≠ k → t.stripe u j = s.stripe u j) ∧
      ∀ l, l < 32 → t.thread u k l = if (r.a ||| r.b).getLsbD l then { s.thread u k l with status := .ready } else s.thread u k l) ∧
  (∀ (s : State) (u k : Nat) (g : Guest), Tab.find (s.core u).guests k = some g → g.arrived = true → g.returning = false → g.back = false → (s.thread u k 0).pc = g.joinPc → (s.stripe u k).join = [] →
    (s.core u).inTurn k = false → (∀ r, r < 32 → (s.thread u k 0).empty.getLsbD r = false) → (∀ c ∈ s.commits, c.unit = u → c.stripe ≠ k) → g.home ≠ u → ∃ t, exec (.boothReturn u k) s = .next t ∧ BackBegun s t u k g) ∧
  (∀ (s : State) (u k : Nat) (g : Guest), Tab.find (s.core u).guests k = some g → g.arrived = true → g.back = false →
    g.returning = true ∨ (g.marked = true ∧ s.atBoundary u k = true ∧ ((s.thread u k 0).pc ≠ g.joinPc ∨ (s.stripe u k).join ≠ [])) →
    (s.core u).inTurn k = false → (∀ r, r < 32 → (s.thread u k 0).empty.getLsbD r = false) → (∀ c ∈ s.commits, c.unit = u → c.stripe ≠ k) → (s.thread u k 0).tx.depth = 0 ∨ g.keepTx = true → g.home ≠ u →
    ∃ t, exec (.repatriate u k) s = .next t ∧ BackBegun s t u k g ∧
      Tab.get (t.slice (sliceOf u)).timeouts (arcadeOf u) 0 = if g.timeout = true ∧ g.returning = false then min (Tab.get (s.slice (sliceOf u)).timeouts (arcadeOf u) 0 + 1) 0xFFFF else Tab.get (s.slice (sliceOf u)).timeouts (arcadeOf u) 0) ∧
  (∀ (s : State) (u k at_ : Nat) (g : Guest), Tab.find (s.core u).guests k = some g → g.start = some at_ →
    ∃ t, exec (.boothTimeLimit u k) s = .next t ∧ ((s.core g.home).ejto = 0 ∨ s.gtc < at_ + clkTicks (s.core g.home).ejto.toNat → t = s) ∧
      ((s.core g.home).ejto ≠ 0 → at_ + clkTicks (s.core g.home).ejto.toNat ≤ s.gtc → CoreOnly s t u ∧ (t.core u).stripes = (s.core u).stripes ∧ Tab.find (t.core u).guests k = some { g with marked := true, timeout := true })) ∧
  (∀ (s : State) (u k : Nat) (g : Guest), Tab.find (s.core u).guests k = some g → g.back = true → g.due ≤ s.gtc → s.pending u k 0 true false false = false → g.trap = none → g.pages = [] → g.home ≠ u →
    ∃ t, exec (.handBackDone u k) s = .next t ∧ Tab.find (t.core u).guests k = none ∧ MemKept s t ∧ SpadKept s t ∧ (∀ v, v ≠ u → v ≠ g.home → t.core v = s.core v) ∧
      (∀ l, l ≠ g.lane → t.thread g.home g.stripe l = s.thread g.home g.stripe l) ∧
      let x := t.thread g.home g.stripe g.lane
      let b := s.thread u k 0
      x.status = .ready ∧ x.pc = b.pc ∧ x.preds = b.preds ∧ x.run = b.run ∧ x.tx = b.tx ∧ (∀ r, r < 32 → x.reg r = b.reg r ∧ x.empty.getLsbD r = false) ∧
        ∀ r, 32 ≤ r → x.reg r = (s.thread g.home g.stripe g.lane).reg r) ∧
  (∀ (s : State) (u : Nat), kindOf u = .booth → ∃ t, exec (.boothFailure u) s = .next t ∧ ((s.core u).failed = true → t = s) ∧
    ((s.core u).failed = false → MemKept s t ∧ (t.core u).guests = [] ∧
      ∀ k g, (s.core u).guests = [(k, g)] → kindOf g.home = .simt → (t.thread g.home g.stripe g.lane).status = .exited ∧
        ∃ r ∈ (t.part ((s.partOf g.home).getD 0)).fq.made, r.cause = 0x17 ∧ r.dcode = 0x14 ∧ r.src = s.src u))

/-- FAULT_RECORD_POST writes the oldest record to the queue when it fits, once its home can take it, holds it within 512, or drops and counts it; FAULT_QUEUE_FLUSH writes the oldest held one once it fits. PFRES lets the parked stripe of its batch go on. REGISTER_WRITE changes what the fields of a register allow and nothing at privilege U. CRIER_DELIVER puts a record of a group of the package into the inbox, or reports it late or, of a package that is not synchronised, refused (R8, R23, R75, R413, R427, R428, R444). Where the rules leave a point open the statement has the model's choice: logs 47, 49 and 61. -/
def Obligations.RecordsAndRegisters : Prop :=
  (∀ (s : State) (p : Nat) (r : Record) (rest : List Record), let q := (s.part p).fq
    q.made = r :: rest → ∃ t, exec (.faultRecordPost p) s = .next t ∧ SpadKept s t ∧
      (q.held = [] → s.fqFits p r = true → s.fqWait p r = true → t = s) ∧
      (q.held = [] → s.fqFits p r = true → s.fqWait p r = false → (∃ more, (t.part p).fq.made = rest ++ more) ∧ (t.part p).fq.head = q.head + BitVec.ofNat 32 r.size ∧ (t.part p).fq.held = [] ∧ (t.part p).fq.drop = q.drop ∧
        ∀ sl loc, r.ncont = 0 → r.cont = [] → s.homeOf p (q.slot q.head.toNat) = some (sl, loc) → (s.bank (bankOf sl loc)).failed = false →
          s.inBank sl loc = true ∨ ((s.bank (bankOf sl loc)).makeRoom s.gtc (loc / 128)).isSome = true → bytesGet t.mem (memKey sl loc) 64 = r.bytes ∧ MemOutside s t sl loc 64) ∧
      (q.held ≠ [] ∨ s.fqFits p r = false → MemKept s t ∧ (t.part p).fq.made = rest ∧ (t.part p).fq.head = q.head ∧
        ((q.held.map Record.size).sum + r.size ≤ 512 → (t.part p).fq.held = q.held ++ [r] ∧ (t.part p).fq.drop = q.drop) ∧
        (512 < (q.held.map Record.size).sum + r.size → (t.part p).fq.held = q.held ∧ (t.part p).fq.drop = min (q.drop + r.size) 0xFFFFFFFF))) ∧
  (∀ (s : State) (p : Nat) (r : Record) (rest : List Record), (s.part p).fq.held = r :: rest →
    ∃ t, exec (.faultQueueFlush p) s = .next t ∧ (s.fqFits p r = false ∨ s.fqWait p r = true → t = s) ∧ (s.fqFits p r = true → s.fqWait p r = false → (t.part p).fq.held = rest ∧ (t.part p).fq.head = (s.part p).fq.head + BitVec.ofNat 32 r.size)) ∧
  (∀ (s : State) (p u i : Nat) (v : BitVec 64), u = v.toNat % 2 ^ 14 → i = v.toNat / 2 ^ 24 % 16 → ∃ t, exec (.pfres p v) s = .next t ∧
    let mine := s.partOf u = some p ∧ (s.stripe u i).parked = true ∧ (s.stripe u i).seq ≠ 0 ∧ ((s.stripe u i).seq - 1) % 256 = v.toNat / 2 ^ 28 % 256
    (mine → StripeOnly s t u i ∧ t.stripe u i = { s.stripe u i with parked := false }) ∧ (¬ mine → t = s)) ∧
  (∀ (s : State) (p off : Nat) (v : BitVec 64), exec (.registerWrite p off v 0) s = .next s) ∧
  (∀ (s : State) (p : Nat) (v : BitVec 64) (k : BitVec 2), k ≠ 0 →
    (∃ t, exec (.registerWrite p 0x1018 v k) s = .next t ∧ { t with parts := s.parts } = s ∧ (t.part p).fq = { (s.part p).fq with tail := BitVec.ofNat 32 v.toNat }) ∧
    (∃ t, exec (.registerWrite p 0x1010 v k) s = .next t ∧ t = s) ∧
    (∃ t, exec (.registerWrite p 0x2020 v k) s = .next t ∧ { t with parts := s.parts } = s ∧ ∀ b, b < 64 → (t.part p).evt.getLsbD b = ((s.part p).evt.getLsbD b && !(decide (b < 4) && v.getLsbD b))) ∧
    ∀ j f q, f < 16 → q < 64 → j = 0x100000 + 0x10000 * f + 0x2000 + 8 * q → (s.func f).part = some p → (s.part p).funcs.getLsbD f = true →
      ∃ t, exec (.registerWrite p j v k) s = .next t ∧ (t.part p).decide = true ∧
        ∀ b, b < 64 → (Tab.get (t.func f).qctl q 0).getLsbD b = if 32 ≤ b ∨ (14 ≤ b ∧ b < 19) ∨ b = 0 then v.getLsbD b else (Tab.get (s.func f).qctl q 0).getLsbD b) ∧
  (∀ (s : State) (r : PodRecord), let late := recStart r.bytes < s.gtc + 1024
    let own := recSrc r.bytes / 2 ^ 14 = s.packageIdx
    -- The share of this package in a pod launch is reported with nothing dispensed.
    let reports (t : State) (k : Nat) (late refused : Bool) : Prop := t.pod.inbox = s.pod.inbox ∧
      ∃ y z, Tab.find t.pod.launches k = some y ∧ Tab.find y.reports s.packageIdx = some z ∧ z.late = late ∧ z.refused = refused ∧ z.disp = 0
    ∃ t, exec (.crierDeliver r) s = .next t ∧ MemKept s t ∧ (s.pod.config = none ∨ s.pod.joined = false ∨ s.packageIdx ∉ s.groupMembers (recGroup r.bytes) → t = s) ∧
      (s.pod.config ≠ none → s.pod.joined = true → s.packageIdx ∈ s.groupMembers (recGroup r.bytes) → r ∉ s.pod.inbox →
        (∀ k x, s.podOf (recSrc r.bytes) (recStamp r.bytes) = some k → Tab.find s.pod.launches k = some x → Tab.find x.reports s.packageIdx = none → (∀ e ∈ s.launches, e.2.rcd.pod ≠ some k) →
          (own → x.rcd ≠ r.bytes → t = s) ∧
          ((own → x.rcd = r.bytes) → (s.pod.synced = false → reports t k false true) ∧ (s.pod.synced = true → late → reports t k true false) ∧
            (s.pod.synced = true → ¬ late → t.pod.inbox = s.pod.inbox ++ [r] ∧ t.pod.launches = s.pod.launches))) ∧
        -- A record of another package that is not known yet enters the books first.
        (¬ own → s.podOf (recSrc r.bytes) (recStamp r.bytes) = none → (∀ e ∈ s.launches, e.2.rcd.pod ≠ some s.nextLaunch) →
          (∃ y, Tab.find t.pod.launches s.nextLaunch = some y ∧ y.rcd = r.bytes ∧ y.src = recSrc r.bytes ∧ y.stamp = recStamp r.bytes) ∧
          (s.pod.synced = true → ¬ late → t.pod.inbox = s.pod.inbox ++ [r])) ∧
        (own → s.podOf (recSrc r.bytes) (recStamp r.bytes) = none → t = s)))

/-- NODE_WRITE sets a node's count, asks for a placement decision when the node becomes ready and makes its heads wait when it no longer is; LPRE begins the pre-emption of the head's launch, or of every launch of the function with indices left, and its chunks come back; FNRST answers the waiting launches QRESET, cancels what has teams and fails what was never dispensed; FNRST_END ends the reset when the last team is gone (R396, R407 to R410, R436). Where the rules leave a point open the statement has the model's choice: log 48. -/
def Obligations.FunctionRegistersAct : Prop :=
  (∀ (s : State) (f n p : Nat) (v : BitVec 64), (s.func f).part = some p → ∃ t, exec (.nodeWrite f n v) s = .next t ∧ { t with funcs := s.funcs, parts := s.parts, launches := s.launches } = s ∧
    -- A node that becomes ready calls for a decision; heads wait again for one that no longer is.
    (v.toNat % 65536 = 0 → t.launches = s.launches ∧ (Tab.get (s.func f).nodes n 0 ≠ 0 → (t.part p).decide = true)) ∧
    (v.toNat % 65536 ≠ 0 → t.parts = s.parts ∧ ∀ k x, s.launch k = some x → t.launch k = some (if x.func = f ∧ x.state = .placing ∧ x.waitNode = some n then { x with nodeWait := true } else x)) ∧
    (∀ m, Tab.get (t.func f).nodes m 0 = if m = n then v.toNat % 65536 else Tab.get (s.func f).nodes m 0) ∧ ∀ g, g ≠ f → t.func g = s.func g) ∧
  (∀ (s : State) (f q k : Nat) (x : Launch), s.headOf f q = some k → s.launch k = some x → ∃ t, exec (.lpreQueue f q) s = .next t ∧ MemKept s t ∧ t.cores = s.cores ∧ (x.state ≠ .dealing → t = s) ∧
    (x.state = .dealing → t.chunksOf k = [] ∧ (∀ j, j ≠ k → t.launch j = s.launch j ∧ t.chunksOf j = s.chunksOf j) ∧ t.launch k = some { x with preempt := true, remnants := x.remnants ++ s.chunksOf k })) ∧
  (∀ (s : State) (f : Nat), ∃ t, exec (.lpreAll f) s = .next t ∧ MemKept s t ∧ t.cores = s.cores ∧
    ∀ k x, s.launch k = some x → (x.func = f → x.state = .dealing → s.undispensed k x ≠ 0 → t.chunksOf k = [] ∧ ∃ y, t.launch k = some y ∧ y.preempt = true ∧ y.state = .dealing) ∧
      (x.func ≠ f ∨ x.state ≠ .dealing → t.launch k = some x ∧ t.chunksOf k = s.chunksOf k)) ∧
  (∀ (s : State) (f : Nat), ∃ t, exec (.fnrst f) s = .next t ∧ MemKept s t ∧ SpadKept s t ∧ (t.func f).resetting = true ∧ (t.func f).notifies = [] ∧ (t.func f).saved = [] ∧
    (∀ k x, s.launch k = some x → x.func = f → x.state ≠ .draining → ∃ y, t.launch k = some y ∧ y.state = .draining ∧ y.next = y.total ∧ y.remnants = [] ∧
      (x.teams ≠ [] → y.cancelled = true) ∧ (x.teams = [] → x.disp = 0 → (s.func f).saved = [] → y.failed = true)) ∧
    (∀ k x, s.launch k = some x → x.func ≠ f → t.launch k = some x) ∧
    ∀ n, (s.func f).notifies = [n] → (s.stripe n.unit n.stripe).wait = some (.answer 1) → (s.thread n.unit n.stripe n.lane).alive = true → (t.thread n.unit n.stripe n.lane).reg n.dst = 2) ∧
  (∀ (s : State) (f : Nat), ∃ t, exec (.fnrstEnd f) s = .next t ∧ ((s.func f).resetting = false ∨ (∃ e ∈ s.cores, ∃ x, e.2.team = some x ∧ x.func = f) → t = s) ∧
    ((s.func f).resetting = true → (∀ e ∈ s.cores, ∀ x, e.2.team = some x → x.func ≠ f) → { t with funcs := s.funcs } = s ∧ t.func f = { s.func f with resetting := false, nodes := [], queues := [] }))

namespace Sys2Proof.Slice0
open Sys2Proof.Machine

/-- A launch that stands at its head with nothing against it at a GTC (R396, R408, R412). -/
def AtHead (x : Launch) (gtc : Nat) : Prop := x.nodeWait = false ∧ x.preempt = false ∧ x.stopped gtc = false ∧ x.failed = false

/-- The answer of a launch reaches the lane that waits for it (R349). -/
def Answered (s t : State) (n : Notify) (st : Nat) : Prop :=
  (s.stripe n.unit n.stripe).wait = some (.answer 1) → (s.thread n.unit n.stripe n.lane).alive = true →
    t.thread n.unit n.stripe n.lane = { (s.thread n.unit n.stripe n.lane).setReg n.dst (BitVec.ofNat 32 st) with done := true }

/-- The save of the team on a core is done (R432, R433): the core is free, its banks are back in C mode, the context waits in its queue, and the launch has one team fewer. -/
def Freed (s t : State) (u : Nat) (x : Team) : Prop :=
  (t.core u).team = none ∧ (t.core u).stripes = [] ∧ (t.core u).bmode = 0 ∧ (t.core u).freedFor = x.saveFor ∧ (t.func x.func).saved = (s.func x.func).saved ++ [(x.queue, { unit := u, core := { s.core u with promos := [], team := some { x with savedOnce := true } }, ticks := s.gtc, gran := s.granq.filter fun g => g.unit == u })] ∧
    ∀ y, s.launch x.launch = some y → ∃ z, t.launch x.launch = some z ∧ z.teams = y.teams.erase u

/-- What PLACEMENT_DECISION finds when one function has one head of one-core teams, with one index to place and an idle core of its world. -/
structure OneToPlace (s : State) (p f k u : Nat) (x : Launch) : Prop where
  due    : (s.part p).decide = true ∧ s.savesHeld p = false
  one    : s.funcsOf p = [f] ∧ (s.func f).up = true ∧ s.waiters f = [.head k]
  calm   : (∀ e ∈ s.launches, e.2.nodeWait = false) ∧ ∀ e ∈ s.cores, e.2.freedFor = none
  launch : s.launch k = some x ∧ s.placeable k = true ∧ s.undispensed k x = x.teams.length + 1 ∧ recCsz x.rcd.bytes = 0
  core   : ((s.groups x.part 1).filter fun us => us.all (s.idleFor k)).find? (fun us => us.all fun v => (s.core v).hasWorld x.rcd.world) = some [u]

end Sys2Proof.Slice0

open Sys2Proof Sys2Proof.Machine Sys2Proof.Slice0

/-- LAUNCH_NOTIFY_ACCEPT appends a launch to its queue and answers 0, or answers QFULL or QRESET, and records of one queue with equal stamps stand in the order of SRC; one of LAUNCH.pod becomes a pod launch with two initial chunks for every member; PARAM_FETCH reads the head's parameter bytes and makes it ready to be placed, or fails the launch with a record; PLACEMENT_DECISION places a team on the first idle core; HEAD_AGEING asks for one decision and, in head order, reserves the free group that holds the fewest teams; DISPENSE_START and CHUNK_REQUEST hand out the lowest remnant or the next 64 indices, of a pod launch those of its next pod chunk (R142, R349, R395 to R400, R402, R403, R413, R414). Where the rules leave a point open the statement has the model's choice: log 41. -/
def Obligations.LaunchesAreAcceptedAndPlaced : Prop :=
  (∀ (s : State) (f : Nat) (n : Notify), (s.func f).nextNotify = some n → (s.func f).up = true → n.pod = false →
    -- The record appended last to the queue has this GTC as its stamp and a higher SRC (R395).
    let later := ∃ k x, (Tab.get (s.func f).queues n.queue []).getLast? = some k ∧ s.launch k = some x ∧ x.rcd.stamp = s.gtc ∧ n.rcd.src < x.rcd.src
    (later → (s.func f).resetting = false → exec (.launchNotifyAccept f) s = .next s) ∧
    (¬ later ∨ (s.func f).resetting = true → ∃ t, exec (.launchNotifyAccept f) s = .next t ∧ MemKept s t ∧ SpadKept s t ∧ (t.func f).notifies = (s.func f).notifies.erase n ∧
      let full := 32 ≤ (Tab.get (s.func f).queues n.queue []).length
      ((s.func f).resetting = true → Answered s t n 2 ∧ t.launches = s.launches) ∧
      ((s.func f).resetting = false → full → Answered s t n 1 ∧ t.launches = s.launches) ∧
      ((s.func f).resetting = false → ¬ full → Answered s t n 0 ∧ Tab.get (t.func f).queues n.queue [] = Tab.get (s.func f).queues n.queue [] ++ [s.nextLaunch] ∧
        (∃ x, t.launch s.nextLaunch = some x ∧ x.func = f ∧ x.queue = n.queue ∧ x.state = .queued ∧ x.rcd.stamp = s.gtc ∧ x.rcd.src = n.rcd.src ∧
          x.rcd.bytes = patch n.rcd.bytes 0xF4 (leBytes 4 n.rcd.src ++ leBytes 8 s.gtc)) ∧
        ∃ a ∈ (t.core (s.home n.unit n.stripe n.lane).1).outq, a.kind = .store ∧ a.pa = n.pa ∧ a.size = 12 ∧ a.data = leNat (leBytes 4 n.rcd.src ++ leBytes 8 s.gtc)))) ∧
  (∀ (s : State) (f : Nat) (n : Notify), (s.func f).nextNotify = some n → (s.func f).up = true → n.pod = true → (s.func f).resetting = false →
    (Tab.get (s.func f).queues n.queue []).length < 32 → (∀ k x, (Tab.get (s.func f).queues n.queue []).getLast? = some k → s.launch k = some x → x.rcd.stamp ≠ s.gtc ∨ x.rcd.src ≤ n.rcd.src) →
    let b := patch n.rcd.bytes 0xF4 (leBytes 4 n.rcd.src ++ leBytes 8 s.gtc)
    ∃ (t : State) (y : PodLaunch), exec (.launchNotifyAccept f) s = .next t ∧ MemKept s t ∧ SpadKept s t ∧ (t.func f).notifies = (s.func f).notifies.erase n ∧ Answered s t n 0 ∧ t.launches = s.launches ∧
      Tab.find t.pod.launches s.nextLaunch = some y ∧ y.rcd = b ∧ y.src = n.rcd.src ∧ y.stamp = s.gtc ∧ y.func = f ∧ y.total = recTotal b ∧ y.complete = false ∧
      ∀ c g, s.pod.config = some c → c.groups.find? (fun g => g.number == recGroup b) = some g →
        -- The members stand in ascending package index.
        (∀ m, m ∈ y.members ↔ m < 1024 ∧ m ∈ g.members) ∧ y.members.Pairwise (· < ·) ∧
        ∀ first r m, recFirst b = some first → y.members[r]? = some m → first + 8192 * r + 8192 ≤ recTotal b → y.next = min (recTotal b) (first + 8192 * y.members.length) ∧
          Tab.get y.given m [] = [(first + 8192 * r, first + 8192 * r + 4096), (first + 8192 * r + 4096, first + 8192 * r + 8192)]) ∧
  (∀ (s : State) (f q k : Nat) (x : Launch), s.headOf f q = some k → s.launch k = some x → x.state = .queued → AtHead x s.gtc → (s.func f).up = true → ∃ t, exec (.paramFetch f q) s = .next t ∧
    (∀ s1, x.rcd.pod = none → s.readVa x.ctx (recPsize x.rcd.bytes / 8) (recParp x.rcd.bytes) = (s1, .error .wait) → t = s) ∧
    (∀ s1 tr, x.rcd.pod = none → s.readVa x.ctx (recPsize x.rcd.bytes / 8) (recParp x.rcd.bytes) = (s1, .error (.fault tr)) → MemKept s1 t ∧ Posted s1 t x.part tr.cause tr.dcode tr.addr 0x1611 ∧
      ∀ y, s1.launch k = some y → t.launch k = some { y with state := .draining, failed := true }) ∧
    (x.rcd.pod ≠ none → MemKept s t ∧ t.cores = s.cores ∧ ∃ y, t.launch k = some y ∧ y.state = .placing ∧ y.rcd = x.rcd ∧ y.t0 = s.gtc ∧ y.next = x.next ∧ y.total = x.total ∧ y.podChunks = x.podChunks ∧ (y.started = true ↔ recStart x.rcd.bytes = 0))) ∧
  (∀ (s s1 : State) (f q k : Nat) (x : Launch) (ps : List Byte), s.headOf f q = some k → s.launch k = some x → x.state = .queued → AtHead x s.gtc → (s.func f).up = true → x.rcd.pod = none →
    s.readVa x.ctx (recPsize x.rcd.bytes / 8) (recParp x.rcd.bytes) = (s1, .ok ps) →
    ∃ t, exec (.paramFetch f q) s = .next t ∧ MemKept s1 t ∧
      (∀ i, recFirst x.rcd.bytes = some i → ∃ y, t.launch k = some y ∧ y.state = .placing ∧ y.rcd.params = ps ∧ y.t0 = s1.gtc ∧ y.next = i ∧ y.total = recTotal x.rcd.bytes ∧ (y.started = true ↔ recStart x.rcd.bytes = 0)) ∧
      (recFirst x.rcd.bytes = none → ∃ y, t.launch k = some y ∧ y.state = .draining ∧ y.next = y.total)) ∧
  (∀ (s : State) (p f k u : Nat) (x : Launch), OneToPlace s p f k u x →
    ∃ (t : State) (y : Launch) (m : Team), exec (.placementDecision p) s = .next t ∧ (t.part p).decide = false ∧ t.launch k = some y ∧ y.state = .dealing ∧ y.teams = x.teams ++ [u] ∧
      (t.core u).team = some m ∧ m.launch = k ∧ m.stripes = recStripes x.rcd.bytes ∧ m.placed = s.gtc ∧ (t.core u).ptb = x.rcd.ptb ∧ (t.core u).params = x.rcd.params ∧
      ∀ i l, i < recStripes x.rcd.bytes → l < 32 → t.thread u i l = { status := .ready, pc := BitVec.ofNat 52 (field x.rcd.bytes 0 8), blocks := BitVec.ofNat 12 (2 ^ recXb x.rcd.bytes - 1) }) ∧
  (∀ (s : State) (p : Nat), (s.part p).decide = false ∨ s.savesHeld p = true → exec (.placementDecision p) s = .next s) ∧
  (∀ (s : State) (f q k age : Nat) (x : Launch), s.headOf f q = some k → s.launch k = some x → x.state = .placing → AtHead x s.gtc → x.teams = [] → x.reserved = [] →
    age = (Tab.get (s.func f).qctl q 0).toNat / 2 ^ 32 → ∃ t, exec (.headAgeing f q) s = .next t ∧ (age = 0 ∨ s.gtc ≤ x.t0 + age → t = s) ∧
      (age ≠ 0 → x.t0 + age < s.gtc →
        let free (us : List Nat) : Prop := us ∈ s.groups x.part (2 ^ recCsz x.rcd.bytes) ∧ ∀ e ∈ s.launches, e.1 ≠ k → ∀ u ∈ us, u ∉ e.2.reserved
        let held (us : List Nat) : Nat := us.countP fun u => (s.core u).team.isSome
        t.cores = s.cores ∧ (x.crossed = false → (t.part x.part).decide = true) ∧
        -- The first head in head order that has no group yet and could have one chooses.
        (s.nextReserver x.part = some k → ∃ us, free us ∧ (∀ vs, free vs → held us ≤ held vs) ∧ t.launch k = some { x with reserved := us, crossed := true }) ∧
        (s.nextReserver x.part ≠ some k → t.launch k = some { x with crossed := true }))) ∧
  (∀ (s : State) (k : Nat) (x : Launch), s.launch k = some x → ∃ t, exec (.dispenseStart k) s = .next t ∧ { t with launches := s.launches } = s ∧
    t.launch k = some (if recStart x.rcd.bytes ≤ s.gtc then { x with started := true } else x)) ∧
  (∀ (s : State) (k sl : Nat) (x : Launch), s.launch k = some x → x.started = true → AtHead x s.gtc → (∃ u ∈ x.teams, sliceOf u = sl) → (s.slice sl).drain = false → (s.part x.part).removing ≠ some sl → ((s.slice sl).chunks.filter fun c => c.1 == k).length < 2 →
    x.rcd.pod = none ∨ x.next < x.total ∨ x.remnants ≠ [] →
    ∃ t, exec (.chunkRequest k sl) s = .next t ∧ MemKept s t ∧ t.cores = s.cores ∧
      (x.remnants = [] → x.next < x.total → (t.slice sl).chunks = (s.slice sl).chunks ++ [(k, x.next, min x.total (x.next + 64))] ∧ t.launch k = some { x with next := min x.total (x.next + 64) }) ∧
      (∀ a b, x.remnants = [(a, b)] → (t.slice sl).chunks = (s.slice sl).chunks ++ [(k, a, min b (a + 64))] ∧ t.launch k = some { x with remnants := if min b (a + 64) < b then [(min b (a + 64), b)] else [] }) ∧
      (∀ a b, (a, b) ∈ x.remnants → (∀ r ∈ x.remnants, a < r.1 ∨ r = (a, b)) → (t.slice sl).chunks = (s.slice sl).chunks ++ [(k, a, min b (a + 64))] ∧
        ∃ y, t.launch k = some y ∧ y.next = x.next ∧ y.total = x.total ∧ rangeSum y.remnants + (min b (a + 64) - a) = rangeSum x.remnants) ∧
      (x.remnants = [] → x.total ≤ x.next → (t.slice sl).chunks = (s.slice sl).chunks)) ∧
  (∀ (s : State) (k sl p a b : Nat) (x : Launch) (rest : List (Nat × Nat)), s.launch k = some x → x.started = true → AtHead x s.gtc → x.rcd.pod = some p → (∃ u ∈ x.teams, sliceOf u = sl) → (s.slice sl).drain = false → (s.part x.part).removing ≠ some sl →
    ((s.slice sl).chunks.filter fun c => c.1 == k).length < 2 → x.remnants = [] → x.total ≤ x.next → x.podChunks = (a, b) :: rest → a < b →
    ∃ t, exec (.chunkRequest k sl) s = .next t ∧ MemKept s t ∧ t.cores = s.cores ∧ (t.slice sl).chunks = (s.slice sl).chunks ++ [(k, a, min b (a + 64))] ∧
      t.launch k = some { x with next := min b (a + 64), total := b, podChunks := rest, podWant := x.podWant || (rest.isEmpty && !x.podDone) }) ∧
  (∀ (s : State) (k sl : Nat), (∀ x, s.launch k = some x → x.started = false ∨ x.preempt = true ∨ x.stopped s.gtc = true ∨ (∀ u ∈ x.teams, sliceOf u ≠ sl) ∨ (s.slice sl).drain = true ∨ (s.part x.part).removing = some sl ∨ 2 ≤ ((s.slice sl).chunks.filter fun c => c.1 == k).length) →
    exec (.chunkRequest k sl) s = .next s)

/-- LAUNCH_COMPLETE waits for teams, saved contexts and writes, writes the completion slot or posts why it cannot, lowers the node and forgets the launch, and reports the share of a pod launch; PREEMPT_REQUEUE puts a pre-empted launch back at its head with NEXT in its record, and gives a pod launch its chunks back; CANCEL_EFFECT drops what is not dealt, at its time; QUANT_EXPIRY chooses a team for saving, and CONTEXT_SAVE aborts its transactions, frees its core once it has drained and its save area can be written, which it waits for, and abandons the save with a record when it cannot (R405 to R407, R410, R412, R415, R431 to R434). Where the rules leave a point open the statement has the model's choice: logs 22, 41, 59 and 60. -/
def Obligations.LaunchesEndAndYield : Prop :=
  (∀ (s : State) (k : Nat) (x : Launch), s.launch k = some x → ∃ t, exec (.launchComplete k) s = .next t ∧
    (x.state ≠ .draining ∨ x.teams ≠ [] ∨ s.savedOf k = true ∨ s.flushing x = true → t = s) ∧
    (x.state = .draining → x.teams = [] → s.savedOf k = false → s.flushing x = false →
      (x.rcd.pod = none → recCmpl x.rcd.bytes = 0 → MemKept s t ∧ t.launch k = none ∧
        ((recGraph x.rcd.bytes).testBit 15 = true → Tab.get (t.func x.func).nodes (recGraph x.rcd.bytes % 2 ^ 12) 0 = Tab.get (s.func x.func).nodes (recGraph x.rcd.bytes % 2 ^ 12) 0 - 1)) ∧
      (∀ s1 r, x.rcd.pod = none → recCmpl x.rcd.bytes ≠ 0 → s.engWrite x.ctx (recCmpl x.rcd.bytes % 2 ^ 52)
          (slotBytes s.gtc (s.src 0x1611) (if x.failed then 3 else if x.cancelled then 1 else 0) x.rcd.stamp x.rcd.src 1 x.disp x.high x.nflt) false = (s1, r) →
        (r = .ok () → MemKept s1 t ∧ t.launch k = none) ∧ (r = .error .wait → t = s) ∧
        ∀ tr, r = .error (.fault tr) → MemKept s1 t ∧ t.launch k = none ∧ Posted s1 t x.part tr.cause tr.dcode (recCmpl x.rcd.bytes) 0x1611) ∧
      ∀ p y, x.rcd.pod = some p → Tab.find s.pod.launches p = some y → MemKept s t ∧ t.launch k = none ∧
        ∃ z r, Tab.find t.pod.launches p = some z ∧ z.heard = s.gtc ∧ Tab.find z.reports s.packageIdx = some r ∧ r.late = false ∧ r.refused = false ∧ r.disp = x.disp ∧ r.high = x.high ∧ r.nflt = x.nflt ∧
          r.first = x.firstFault.map Record.bytes ∧ ∀ c, c < 26 → r.causes[c]? = some (Tab.get x.causes (c + 1) 0))) ∧
  (∀ (s : State) (k : Nat) (x : Launch), s.launch k = some x → ∃ t, exec (.preemptRequeue k) s = .next t ∧
    -- A launch is requeued that is pre-empted, or that a drained slice or a lost core has left without a team.
    let due := x.preempt = true ∨ (x.yielded = true ∧ x.state = .dealing)
    (¬ due ∨ x.teams ≠ [] ∨ s.savedOf k = true ∨ s.flushing x = true → t = s) ∧
    (due → x.teams = [] → s.savedOf k = false → s.flushing x = false → MemKept s t ∧ t.cores = s.cores ∧ t.chunksOf k = [] ∧
      (∀ a b c, x.rcd.pod = none → (a, b, c) = recCoord x.rcd.bytes x.next →
        t.launch k = some { x with remnants := x.remnants ++ s.chunksOf k, preempt := false, yielded := false, state := .placing, nodeWait := s.nodeHolds x, t0 := s.gtc, crossed := false, rcd := { x.rcd with bytes := patch x.rcd.bytes 0xE8 (leBytes 4 a ++ leBytes 4 b ++ leBytes 4 c) } }) ∧
      ∀ p y, x.rcd.pod = some p → Tab.find s.pod.launches p = some y →
        t.launch k = some { x with preempt := false, yielded := false, state := .placing, nodeWait := s.nodeHolds x, t0 := s.gtc, crossed := false, remnants := [], podChunks := [], next := 0, total := 0, podWant := false, podDone := false, podAgain := true } ∧
        Tab.find t.pod.launches p = some { y with quiet := s.gtc, remnants := y.remnants ++ (x.remnants ++ s.chunksOf k ++ x.podChunks ++ if x.next < x.total then [(x.next, x.total)] else []) })) ∧
  (∀ (s : State) (k at_ : Nat) (x : Launch), s.launch k = some x → x.cancelAt = some at_ → ∃ t, exec (.cancelEffect k) s = .next t ∧
    -- A cancel of a pod launch comes after the records that are before it on its queue (R418).
    let waits := x.rcd.pod ≠ none ∧ s.recordBefore x.func x.queue at_ x.rcd.src = true
    (s.gtc < at_ ∨ waits → t = s) ∧
    (at_ ≤ s.gtc → ¬ waits → x.state = .draining → { t with launches := s.launches } = s ∧ t.launch k = some { x with cancelAt := none }) ∧
    (at_ ≤ s.gtc → ¬ waits → x.state ≠ .draining → MemKept s t ∧ t.cores = s.cores ∧ t.chunksOf k = [] ∧
      ∃ y, t.launch k = some y ∧ y.cancelled = true ∧ y.state = .draining ∧ y.next = y.total ∧ y.remnants = [] ∧ y.cancelAt = none ∧ y.disp = x.disp)) ∧
  (∀ (s : State) (u : Nat) (x : Team), (s.core u).team = some x → ∃ t, exec (.quantExpiry u) s = .next t ∧ (s.saveCause u = none → t = s) ∧
    (∀ w, s.saveCause u = some w → CoreOnly s t u ∧ (t.core u).team = some { x with saving := true, saveFor := w } ∧ { t.core u with team := none } = { s.core u with team := none })) ∧
  (∀ (s : State) (u : Nat) (x : Team), (s.core u).team = some x → (∀ i l, (s.thread u i l).tx.depth = 0) → (∀ e ∈ (s.core u).stripes, ∀ l ∈ e.2.lanes, l.2.tx.depth = 0) → ∃ t, exec (.contextSave u) s = .next t ∧
    (x.saving = false ∨ s.drained u = false → t = s) ∧
    (x.saving = true → s.drained u = true →
      let p := (s.partOf u).getD 0
      let key := s.saveKey x.func x.queue
      let base := s.saveArea x.func x.queue x.saveIdx
      -- Every byte of the area can be written: the core is freed and the context waits.
      ((∀ e ∈ (s.core u).stripes, e.1 < 16 ∧ ∀ l ∈ e.2.lanes, l.1 < 32) → (∀ pa, base ≤ pa → pa < base + 0x680000 → s.physBad p (s.core u).world key pa = none) →
        (s.physWait (saveBytes / 128) p base 0x250000 true = none → Freed s t u x) ∧ (s.physWait (saveBytes / 128) p base 0x250000 true ≠ none → t = s)) ∧
      -- Its header cannot: the team goes on.
      (∀ c d, s.physBad p (s.core u).world key base = some (c, d) → (t.core u).team = some { x with saving := false, saveFor := none, swappable := false } ∧
        { t.core u with team := none } = { s.core u with team := none } ∧
        ∃ r, (t.part p).fq.made = (s.part p).fq.made ++ [r] ∧ r.cause = c ∧ r.dcode = d ∧ r.addr = base ∧ r.src = s.src 0x1610 ∧ r.stamp = s.gtc ∧ r.world = s.ownerWorld p base) ∧
      (t = s ∨ ((t.core u).team = some { x with saving := false, saveFor := none, swappable := false } ∧ (∃ r, (t.part p).fq.made = (s.part p).fq.made ++ [r] ∧ r.src = s.src 0x1610)) ∨ Freed s t u x))) ∧
  (∀ (s : State) (u i l : Nat) (x : Team), (s.core u).team = some x → x.saving = true → kindOf u ≠ .booth → (∀ e ∈ (s.core u).quads, e.2.turn = none) → (s.thread u i l).tx.depth ≠ 0 → (∀ c ∈ s.commits, c.unit ≠ u ∨ c.stripe ≠ i ∨ c.lane ≠ l) →
    (∃ e ∈ (s.core u).stripes, ∃ k ∈ e.2.counters, k.2 ≠ 0) → ∃ t, exec (.contextSave u) s = .next t ∧ TxAborted (s.thread u i l) (t.thread u i l) 7 ∧ (t.core u).team = some x)

namespace Sys2Proof.Slice0
open Sys2Proof.Machine

/-- The state without record idx of the pod inbox. -/
def taken (s : State) (idx : Nat) : State := { s with pod := { s.pod with inbox := s.pod.inbox.eraseIdx idx } }

/-- A record of the inbox is due: its START is at most 1,024 ahead and no other record of its queue is earlier (R413). -/
def RecordDue (s : State) (idx : Nat) (r : PodRecord) : Prop :=
  s.pod.inbox[idx]? = some r ∧ recStart r.bytes ≤ s.gtc + 1024 ∧
    ∀ x ∈ s.pod.inbox, ∀ a b, s.bindingOf r.bytes = some a → s.bindingOf x.bytes = some b → a.func = b.func → a.queue = b.queue → recEarlier x.bytes r.bytes = false

/-- The queue of a binding serves records: its function runs and is not in reset, and no cancel comes before the record (R418, R455). -/
def QueueServes (s : State) (bd : PodBinding) (b : List Byte) : Prop := (s.func bd.func).resetting = false ∧ (s.func bd.func).up = true ∧ s.cancelBefore bd b = false

/-- The queue of a binding takes a pod record: it has room, is enabled and has a table base, the world is in the mask and the group fits (R413, R414). -/
def QueueTakes (s : State) (bd : PodBinding) (b : List Byte) : Prop :=
  (Tab.get (s.func bd.func).queues bd.queue []).length < 32 ∧ (Tab.get (s.func bd.func).qctl bd.queue 0).getLsbD 0 = true ∧
    (s.part bd.part).wmask.getLsbD (recWorld b) = true ∧ s.groups bd.part (2 ^ recCsz b) ≠ [] ∧ (Tab.get (s.func bd.func).qptb bd.queue 0).getLsbD 12 = true

/-- For whom a member reads the parameters of a pod record (R402). -/
def memberCtx (s : State) (bd : PodBinding) (b : List Byte) : EngCtx :=
  { unit := 0x1611, part := bd.part, ptb := Tab.get (s.func bd.func).qptb bd.queue 0, priv := .u, world := BitVec.ofNat 6 (recWorld b), tlb := .keep }

/-- For whom the pod dispatcher writes the completion slot (R402, R416). -/
def podCtx (p : PodLaunch) : EngCtx := { unit := 0x1613, part := p.part, ptb := p.ptb, priv := p.priv, world := BitVec.ofNat 6 (recWorld p.rcd), tlb := .keep }

/-- Nothing but the pod side has changed. -/
def PodOnly (s t : State) : Prop := { t with pod := s.pod } = s

end Sys2Proof.Slice0

open Sys2Proof Sys2Proof.Machine Sys2Proof.Slice0

/-- POD_RECORD_APPEND puts a due record into its bound queue with its parameters and its initial chunks, or reports it refused or cancelled; POD_CHUNK_REQUEST deals the next 4,096 indices or a remnant; POD_MEMBER_REPORT and POD_MEMBER_LOST settle a member; POD_DISPATCHER_SILENT and POD_CANCEL stop a share; POD_COMPLETE posts the summary, and once that has left writes slot and table and lowers the node (R402, R405, R413 to R418). Where the rules leave a point open the statement has the model's choice: logs 46, 49, 59 and 60. -/
def Obligations.PodLaunchesAreSharedAndComplete : Prop :=
  (∀ (s : State) (idx k : Nat) (r : PodRecord) (p : PodLaunch), RecordDue s idx r → s.podOf (recSrc r.bytes) (recStamp r.bytes) = some k → Tab.find s.pod.launches k = some p →
    let called := ∃ c ∈ s.pod.cancels, c.1 = recSrc r.bytes ∧ c.2.1 = recStamp r.bytes
    let bound := s.pod.config.bind fun c => c.bindings.find? fun x => x.group == recGroup r.bytes
    ∃ t, exec (.podRecordAppend idx) s = .next t ∧
      (called ∨ bound = none ∨ (∃ bd, bound = some bd ∧ QueueServes s bd r.bytes ∧ ¬ QueueTakes s bd r.bytes) → PodOnly s t ∧ t.pod.inbox = s.pod.inbox.eraseIdx idx ∧
        ∃ y z, Tab.find t.pod.launches k = some y ∧ Tab.find y.reports s.packageIdx = some z ∧ z.disp = 0 ∧ z.late = false ∧ (z.refused = true ↔ ¬ called)) ∧
      (∀ bd, ¬ called → bound = some bd → ¬ QueueServes s bd r.bytes → t = s) ∧
      ∀ bd s1 ps, ¬ called → bound = some bd → QueueServes s bd r.bytes → QueueTakes s bd r.bytes → (taken s idx).readVa (memberCtx s bd r.bytes) (recPsize r.bytes / 8) (recParp r.bytes) = (s1, .ok ps) →
        MemKept s1 t ∧ Tab.get (t.func bd.func).queues bd.queue [] = Tab.get (s1.func bd.func).queues bd.queue [] ++ [s1.nextLaunch] ∧
        ∃ x, t.launch s1.nextLaunch = some x ∧ x.part = bd.part ∧ x.func = bd.func ∧ x.queue = bd.queue ∧ x.rcd.pod = some k ∧ x.rcd.params = ps ∧ x.rcd.priv = .u ∧ x.podChunks = Tab.get p.given s.packageIdx []) ∧
  (∀ (s : State) (idx : Nat) (r : PodRecord), s.pod.inbox[idx]? = some r → s.gtc + 1024 < recStart r.bytes → exec (.podRecordAppend idx) s = .next s) ∧
  (∀ (s : State) (k m : Nat) (p : PodLaunch), Tab.find s.pod.launches k = some p → p.complete = false → m ∈ p.members → m ≠ s.packageIdx →
    -- No request that arrived at this GTC from a higher source has been served.
    (∀ a, p.asked = some a → a.1 ≠ s.gtc ∨ a.2 ≤ m) → ∃ (t : State) (y : PodLaunch), exec (.podChunkRequest k m) s = .next t ∧ PodOnly s t ∧ Tab.find t.pod.launches k = some y ∧ y.heard = s.gtc ∧
      (p.stopped s.gtc = true → y = { p with heard := s.gtc, asked := some (s.gtc, m) }) ∧
      (p.stopped s.gtc = false → p.remnants = [] → p.total ≤ p.next → y = { p with heard := s.gtc, asked := some (s.gtc, m) }) ∧
      (p.stopped s.gtc = false → p.remnants = [] → p.next < p.total → y.next = min p.total (p.next + 4096) ∧ Tab.get y.given m [] = Tab.get p.given m [] ++ [(p.next, min p.total (p.next + 4096))]) ∧
      ∀ a b, p.stopped s.gtc = false → p.remnants = [(a, b)] → y.next = p.next ∧ Tab.get y.given m [] = Tab.get p.given m [] ++ [(a, min b (a + 4096))] ∧
        y.remnants = if min b (a + 4096) < b then [(min b (a + 4096), b)] else []) ∧
  (∀ (s : State) (k i : Nat) (p : PodLaunch) (x : Launch), Tab.find s.pod.launches k = some p → p.complete = false → s.packageIdx ∈ p.members →
    s.launches.find? (fun e => e.2.rcd.pod == some k) = some (i, x) → s.launch i = some x → x.podWant = true →
    (∀ a, p.asked = some a → a.1 ≠ s.gtc ∨ a.2 ≤ s.packageIdx) → ∃ t, exec (.podChunkRequest k s.packageIdx) s = .next t ∧ t.cores = s.cores ∧ MemKept s t ∧ (p.stopped s.gtc = true → t.launch i = some { x with podWant := false, podDone := true }) ∧
      (p.stopped s.gtc = false → p.remnants = [] → p.next < p.total → t.launch i = some { x with podWant := false, podChunks := x.podChunks ++ [(p.next, min p.total (p.next + 4096))] })) ∧
  (∀ (s : State) (k m : Nat) (p : PodLaunch) (r : PodReport), Tab.find s.pod.launches k = some p → p.complete = false → m ∈ p.members → m ≠ s.packageIdx → Tab.find p.reports m = none → m ∉ p.lost →
    ∃ (t : State) (y : PodLaunch), exec (.podMemberReport k m r) s = .next t ∧ PodOnly s t ∧ Tab.find t.pod.launches k = some y ∧ Tab.find y.reports m = some r ∧ y.heard = s.gtc ∧
      y.remnants = p.remnants ++ (if r.late = true ∨ r.refused = true then Tab.get p.given m [] else [])) ∧
  (∀ (s : State) (k m : Nat) (p : PodLaunch), Tab.find s.pod.launches k = some p → s.podMine p = true → p.complete = false → m ∈ p.members → Tab.find p.reports m = none → m ∉ p.lost →
    ∃ t, exec (.podMemberLost k m) s = .next t ∧ (s.gtc < p.silentFrom + 1000000 → t = s) ∧
      (p.silentFrom + 1000000 ≤ s.gtc → p.exhausted s.gtc = true → (∀ x ∈ p.members, x ≠ m → (Tab.find p.reports x).isSome = true ∨ x ∈ p.lost) → PodOnly s t ∧ Tab.find t.pod.launches k = some { p with lost := p.lost ++ [m] })) ∧
  (∀ (s : State) (k j : Nat) (x : Launch) (p : PodLaunch), s.launch k = some x → x.rcd.pod = some j → Tab.find s.pod.launches j = some p → ∃ t, exec (.podDispatcherSilent k) s = .next t ∧ MemKept s t ∧ t.cores = s.cores ∧
    (s.gtc < p.heard + 1000000 → t = s) ∧ (p.heard + 1000000 ≤ s.gtc → x.state ≠ .draining → t.chunksOf k = [] ∧ ∃ y, t.launch k = some y ∧ y.cancelled = true ∧ y.state = .draining ∧ y.next = y.total)) ∧
  (∀ (s : State) (src : BitVec 24) (stamp at_ : BitVec 64), ∃ t, exec (.podCancel src stamp at_) s = .next t ∧ MemKept s t ∧ t.cores = s.cores ∧ t.pod.cancels = s.pod.cancels ++ [(src.toNat, stamp.toNat, at_.toNat)] ∧
    ∀ k p, Tab.find s.pod.launches k = some p → p.src = src.toNat → p.stamp = stamp.toNat → Tab.find t.pod.launches k = some { p with cancelAt := some (min (p.cancelAt.getD (2 ^ 64)) at_.toNat) } ∧
      ∀ i x, s.launch i = some x → x.rcd.pod = some k → t.launch i = some { x with cancelAt := some (min (x.cancelAt.getD (2 ^ 64)) at_.toNat) }) ∧
  (∀ (s : State) (k : Nat) (p : PodLaunch), Tab.find s.pod.launches k = some p → s.podMine p = true → p.complete = false → (∀ m ∈ p.members, (Tab.find p.reports m).isSome = true ∨ m ∈ p.lost) →
    let nflt := ((p.members.map p.share).map fun x => x.2.2).sum
    ∃ t, exec (.podComplete k) s = .next t ∧
      -- First the fault summary; the rest waits until it has left for the fault queue.
      (p.summed = false → 0 < nflt → MemKept s t ∧ SpadKept s t ∧ Tab.find t.pod.launches k = some { p with summed := true } ∧ (p.first = none → (t.part p.part).fq = (s.part p.part).fq) ∧
        ∀ f, p.first = some f → ∃ r, (t.part p.part).fq.made = (s.part p.part).fq.made ++ [r] ∧ r.sum = true ∧ r.stamp = field f 0 8 ∧ r.src = field f 8 3 ∧ r.cause = field f 12 1) ∧
      (p.summed = true → (∃ r ∈ (s.part p.part).fq.made, r.sum = true) → t = s) ∧
      ((p.summed = false ∧ nflt = 0) ∨ (p.summed = true ∧ ∀ r ∈ (s.part p.part).fq.made, r.sum = false) →
        (recCmpl p.rcd = 0 → MemKept s t ∧ SpadKept s t ∧ Tab.find t.pod.launches k = some { p with complete := true } ∧ (t.part p.part).fq = (s.part p.part).fq ∧
          ((recGraph p.rcd).testBit 15 = true → Tab.get (t.func p.func).nodes (recGraph p.rcd % 2 ^ 12) 0 = Tab.get (s.func p.func).nodes (recGraph p.rcd % 2 ^ 12) 0 - 1)) ∧
        (∀ m s1 r, recCmpl p.rcd ≠ 0 → p.members = [m] → p.lost = [] → p.stopped s.gtc = false →
          s.engWrite (podCtx p) (recCmpl p.rcd % 2 ^ 52) (slotBytes s.gtc (s.src 0x1613) 0 p.stamp p.src 1 (p.share m).1 (p.share m).2.1 (min (2 ^ 32 - 1) (p.share m).2.2)) false = (s1, r) →
          (r = .error .wait → t = s) ∧
          ∀ s2, r = .ok () → s1.engWrite (podCtx p) ((recCmpl p.rcd + 64) % 2 ^ 52) (p.entry m) false = (s2, .ok ()) →
            MemKept s2 t ∧ Tab.find t.pod.launches k = (Tab.find s2.pod.launches k).map fun y => { y with complete := true })))

/-- Once the boot hold is over POD_CONFIGURATION applies a configuration that passes its checks or names the first it fails; FLIT_RECEIVE discards a flit with a bad CRC, ignores one out of sequence and delivers or forwards the next; LINK_KEY_AGREE makes the key current, or pending beside a current one; POD_JOIN loads the GTC once; TIME_EXCHANGE marks an offset above 5 ticks (R23, R27, R439, R463 to R467). Where the rules leave a point open the statement has the model's choice: logs 1, 50 and 53. -/
def Obligations.PodConfigurationLinksAndTime : Prop :=
  (∀ (s : State) (c : PodConfig), ∃ t, exec (.podConfiguration c) s = .next t ∧ (s.boot.released = false → t = s) ∧ (∀ n, s.boot.released = true → s.podConfigBad c = some n → { t with mgmt := s.mgmt } = s ∧ t.mgmt = s.mgmt ++ [[2, BitVec.ofNat 8 n]]) ∧
    (s.boot.released = true → s.podConfigBad c = none → { t with packageIdx := s.packageIdx, pod := s.pod, slices := s.slices } = s ∧ t.packageIdx = c.index % 1024 ∧ t.pod = { s.pod with config := some c } ∧
      ∀ sl, sl < 32 → t.slice sl = { s.slice sl with podMode := !s.lostUnits.contains (0x1540 + sl) && c.ports.any fun q => q.port == sl })) ∧
  (∀ (s : State) (port : Nat) (flit : List Byte), ∃ t, exec (.flitReceive port flit) s = .next t ∧ PodOnly s t ∧ (s.boot.released = false ∨ 0x1540 + port ∈ s.lostUnits → t = s) ∧
    (s.boot.released = true → 0x1540 + port ∉ s.lostUnits →
    let k := Tab.get s.pod.links port {}
    let l := Tab.get t.pod.links port {}
    let hdr := leNat (flit.take 8)
    let good := flit.length = 256 ∧ Config.crc64 (flit.take 248) = BitVec.ofNat 64 (leNat (flit.drop 248))
    let dest := hdr / 2 ^ 22 % 2 ^ 10
    (¬ good → l = { k with nak := true }) ∧ (good → hdr / 2 ^ 32 % 2 ^ 16 ≠ k.rxSeq → t = s) ∧
    (good → hdr / 2 ^ 32 % 2 ^ 16 = k.rxSeq → l.rxSeq = (k.rxSeq + 1) % 65536 ∧ l.nak = false ∧ l.credits = k.credits + hdr / 2 ^ 48 % 2 ^ 16 ∧
      (hdr / 2 ^ 8 % 2 ^ 4 = 0 → l.delivered = k.delivered ∧ l.forwarded = k.forwarded) ∧
      (hdr / 2 ^ 8 % 2 ^ 4 ≠ 0 → dest = s.packageIdx → l.delivered = k.delivered ++ [flit] ∧ l.forwarded = k.forwarded) ∧
      ∀ r, hdr / 2 ^ 8 % 2 ^ 4 ≠ 0 → dest ≠ s.packageIdx → (s.pod.config.bind fun c => c.routes.find? fun r => r.pkg == dest) = some r →
        l.delivered = k.delivered ∧ (Tab.get t.pod.links r.port {}).forwarded = (Tab.get s.pod.links r.port {}).forwarded ++ [(dest, flit)]))) ∧
  (∀ (s : State) (port : Nat) (peer : List Byte), ∃ t, exec (.linkKeyAgree port peer) s = .next t ∧ { t with pod := s.pod, freeCount := s.freeCount } = s ∧ (s.boot.released = false ∨ 0x1540 + port ∈ s.lostUnits → t = s) ∧
    (s.boot.released = true → 0x1540 + port ∉ s.lostUnits →
    let k := Tab.get s.pod.links port {}
    let l := Tab.get t.pod.links port {}
    (k.key = none → l = { k with key := some (Config.ecdhKey s.freeCount peer) }) ∧
    (k.key ≠ none → k.nextKey = none → l = { k with nextKey := some (Config.ecdhKey s.freeCount peer) }) ∧ (k.key ≠ none → k.nextKey ≠ none → l = k))) ∧
  -- w is twice the offset, d the offset without a half tick; the limit of 5 ticks is on the offset itself.
  (∀ (s : State) (d w : Int) (x : TimeFlits), w = ((x.t2.toNat : Int) - x.t1.toNat) + ((x.t3.toNat : Int) - x.t4.toNat) → 2 * d ≤ w → w < 2 * d + 2 →
    (∃ t, exec (.podJoin x) s = .next t ∧ (s.pod.config = none → t = s) ∧
      (s.pod.config ≠ none → s.pod.joined = false → { t with gtc := s.gtc, pod := s.pod } = s ∧ t.gtc = ((s.gtc : Int) + d).toNat ∧ t.pod.joined = true ∧ t.pod.synced = true) ∧
      (s.pod.config ≠ none → s.pod.joined = true → PodOnly s t ∧ t.pod = { s.pod with offset := d, measured := s.gtc, synced := decide (w.natAbs ≤ 10) })) ∧
    ∃ t, exec (.timeExchange x) s = .next t ∧ PodOnly s t ∧ (s.pod.joined = false → t = s) ∧
      (s.pod.joined = true → t.pod = { s.pod with offset := d, measured := s.gtc, synced := s.pod.synced && decide (w.natAbs ≤ 10) }))

namespace Sys2Proof.Slice0
open Sys2Proof.Machine

/-- The crash records have a new last one (R457). -/
def LastCrash (t : State) (b : List Byte) : Prop := t.crashes.getLast? = some b

/-- Crashes of a function core within the last second, this one included (R455). -/
def recentCrashes (s : State) (f : Nat) : List Nat := ((s.func f).crashes.filter fun g => decide (s.gtc < g + 1000000000)) ++ [s.gtc]

/-- A core that has run since a GTC crashes: by a trap with a cause of R419, or by a heartbeat missed for 10,000,000 ticks (R14, R455, R456). -/
def Crashes (s : State) (c : BitVec 8) (since : Nat) : Prop := (1 ≤ c.toNat ∧ c.toNat ≤ 0x1A) ∨ (c.toNat = 0 ∧ since + 10000000 ≤ s.gtc)

/-- A function core that is down restarts, unless it has failed, or its function's reset after four crashes has not ended (R455, R460). -/
def MayRestart (s : State) (f : Nat) : Prop := (s.func f).up = false ∧ (s.core (0x1600 + f)).failed = false ∧ ¬ ((s.func f).resetting = true ∧ 4 ≤ (s.func f).crashes.length)

/-- The unit that a migration moves next goes from one place to another (R448): both aligned, and no access waits at the old one. -/
structure MovesNext (s : State) (p so lo sn ln : Nat) : Prop where
  runs   : (s.part p).migwm.getLsbD 63 = true ∧ s.rootUp = true
  unit   : ∃ u, (((s.part p).migwm.getLsbD 62 = true ∧ (s.part p).migwm.toNat % 2 ^ 27 < (s.part p).resizeUnits - 1024 ∧ u = (s.part p).resizeUnits - 1 - (s.part p).migwm.toNat % 2 ^ 27) ∨
      ((s.part p).migwm.getLsbD 62 = false ∧ (s.part p).migwm.toNat % 2 ^ 27 < (s.part p).resizeUnits ∧ u = (s.part p).migwm.toNat % 2 ^ 27)) ∧
    mapHome ((s.part p).oldMembers.map (·.2)) (u * 8192) = some (so, lo) ∧ mapHome (s.part p).mapSlices (u * 8192) = some (sn, ln)
  places : lo % 8192 = 0 ∧ ln % 8192 = 0 ∧ lo < 2 ^ 35 ∧ ln < 2 ^ 35 ∧ (so, lo) ≠ (sn, ln)

end Sys2Proof.Slice0

open Sys2Proof Sys2Proof.Machine Sys2Proof.Slice0

/-- A crashed function core or root core is recorded, reset and down until its restart, a fourth crash within a second resets the function; MIGRATE_UNIT moves the bytes and the owner of the unit at the watermark; BOOT_RETRY ends a wait; the watchdog of the root of trust reports; a failed core goes to its spare or is lost, a failed tier port loses its units (R18, R27, R446 to R449, R455 to R457, R460, R470). Where the rules leave a point open the statement has the model's choice: logs 27, 32, 52, 60, 62, 67, 69 and 79. -/
def Obligations.FirmwareAndUnitsFail : Prop :=
  (∀ (s : State) (f : Nat), ∃ t, exec (.functionCoreRestart f) s = .next t ∧ (¬ MayRestart s f → t = s) ∧
    (MayRestart s f → { t with funcs := s.funcs, parts := s.parts } = s ∧ t.func f = { s.func f with up := true, since := s.gtc } ∧
      ∀ p, (s.func f).part = some p → t.part p = { s.part p with evt := (s.part p).evt ||| 8, decide := true })) ∧
  (∀ (s : State) (f : Nat) (c : BitVec 8) (pc : BitVec 52), (s.func f).up = true → Crashes s c (s.func f).since → ∃ t, exec (.functionCoreCrash f c pc) s = .next t ∧ MemKept s t ∧ (t.func f).up = false ∧ (t.func f).crashes = recentCrashes s f ∧
    LastCrash t (s.crashRecord (0x1600 + f) c.toNat pc.toNat (recentCrashes s f).length) ∧
    ((recentCrashes s f).length < 4 → t.core (0x1600 + f) = { nextId := (s.core (0x1600 + f)).nextId } ∧ (∀ u, u ≠ 0x1600 + f → t.core u = s.core u) ∧ (t.func f).resetting = (s.func f).resetting) ∧
    (4 ≤ (recentCrashes s f).length → (t.func f).resetting = true)) ∧
  (∀ (s : State) (c : BitVec 8) (pc : BitVec 52), s.rootUp = true → Crashes s c s.rootSince → ∃ t n, exec (.rootCoreCrash c pc) s = .next t ∧ { t with cores := s.cores, crashes := s.crashes, rootUp := s.rootUp } = s ∧ t.rootUp = false ∧
    LastCrash t (s.crashRecord 0x1610 c.toNat pc.toNat n) ∧ t.core 0x1610 = { nextId := (s.core 0x1610).nextId } ∧ ∀ u, u ≠ 0x1610 → t.core u = s.core u) ∧
  (∀ (s : State) (f : Nat) (c : BitVec 8) (pc : BitVec 52), ((s.func f).up = false ∨ ¬ Crashes s c (s.func f).since → exec (.functionCoreCrash f c pc) s = .next s) ∧
    (s.rootUp = false ∨ ¬ Crashes s c s.rootSince → exec (.rootCoreCrash c pc) s = .next s)) ∧
  (∀ (s : State), ∃ t, exec .rootCoreRestart s = .next t ∧ (s.rootUp = true ∨ (s.core 0x1610).failed = true → t = s) ∧
    (s.rootUp = false → (s.core 0x1610).failed = false → t.rootUp = true ∧ t.rootSince = s.gtc ∧ { t with rootUp := s.rootUp, parts := s.parts, rootSince := s.rootSince } = s ∧ ∀ p, t.part p = if (s.part p).valid then { s.part p with evt := (s.part p).evt ||| 8, decide := true } else s.part p)) ∧
  (∀ (s : State) (p so lo sn ln : Nat), MovesNext s p so lo sn ln → ∃ t, exec (.migrateUnit p) s = .next t ∧ (s.accepted so (lo / 8192) ≠ [] → t = s) ∧
    (s.accepted so (lo / 8192) = [] → (t.part p).migwm = (s.part p).migwm + 1 ∧ (t.part p).members = (s.part p).members ∧ (∀ b, b / 8192 = frameKey so lo → bytesAt t.mem b = 0) ∧
      (t.frame (frameKey so lo)).owner = none ∧ (t.frame (frameKey so lo)).quarantined = (s.frame (frameKey so lo)).lost.map (·.1) ∧ (t.frame (frameKey so lo)).released = (s.frame (frameKey so lo)).lost.isSome ∧
      ((s.frame (frameKey sn ln)).lost = none → (t.frame (frameKey sn ln)).owner = (s.frame (frameKey so lo)).owner ∧ (t.frame (frameKey sn ln)).quarantined = (s.frame (frameKey so lo)).quarantined) ∧
      ((s.frame (frameKey sn ln)).lost.isSome = true → t.frame (frameKey sn ln) = s.frame (frameKey sn ln)) ∧
      ((s.frame (frameKey so lo)).dead = false → (s.frame (frameKey sn ln)).dead = false → ∀ i j, i < 64 → j < 128 → (Tab.get s.metas (lineKey so (lo + 128 * i)) {}).clear = false →
        Tab.find s.latent (lineKey so (lo + 128 * i)) = none → (s.poisonOf (lineKey so (lo + 128 * i))).getLsbD (j / 16) = false →
        bytesAt t.mem (memKey sn (ln + 128 * i) + j) = bytesAt s.mem (memKey so (lo + 128 * i) + j)) ∧
      -- A poisoned granule that leaves its bank for want of a way reads as zero bytes (R51, R82).
      ∀ b, b / 8192 ≠ frameKey so lo → b / 8192 ≠ frameKey sn ln → (s.poisonOf (b / 128)).getLsbD (b / 16 % 8) = false → bytesAt t.mem b = bytesAt s.mem b)) ∧
  (∀ (s : State) (p : Nat), (s.part p).migwm.getLsbD 63 = false ∨ s.rootUp = false → exec (.migrateUnit p) s = .next s) ∧
  (∀ (s : State) (p : Nat), ∃ t, exec (.bootRetry p) s = .next t ∧ ((s.part p).retryAt = none → t = s) ∧
    ∀ g, (s.part p).retryAt = some g → (s.gtc < g → t = s) ∧ (g ≤ s.gtc → { t with parts := s.parts } = s ∧ t.part p = { s.part p with retryAt := none })) ∧
  (∀ (s : State) (is : List SignedImage), ∃ t, exec (.rotWatchdog is) s = .next t ∧ { t with mgmt := s.mgmt } = s ∧ t.mgmt = s.mgmt ++ [[3, BitVec.ofNat 8 (s.bootStage s.boot.images)]]) ∧
  (∀ (s : State) (u : Nat), (s.core u).failed = true → exec (.unitFailure u) s = .next s) ∧
  (∀ (s : State) (u a sp : Nat), kindOf u = .simt → (s.core u).failed = false → a = arcadeOf u → sp = 18 * sliceOf u + 9 * a + ((s.slice (sliceOf u)).coreSpare[a]?).getD 8 → ∃ t, exec (.unitFailure u) s = .next t ∧ MemKept s t ∧
    (t.core u).failed = true ∧ (t.core u).team = none ∧ (∃ e more, t.healthLog = s.healthLog ++ e :: more) ∧
    (∀ v, (s.slice (sliceOf u)).subs = [(v, sp)] → Tab.find (s.slice (sliceOf u)).spareAt sp = some s.gtc → u < v → sp ≠ u → (s.core sp).failed = false →
      Tab.find (t.slice (sliceOf u)).subs u = some sp ∧ Tab.find (t.slice (sliceOf u)).subs v = none ∧ (t.slice (sliceOf u)).lost = min 255 ((s.slice (sliceOf u)).lost + 1)) ∧
    (∀ x, (s.core u).team = some x → (∃ r more, (t.part ((s.partOf u).getD 0)).fq.made = (s.part ((s.partOf u).getD 0)).fq.made ++ r :: more ∧ r.cause = 0x17 ∧ r.src = s.src u) ∧
      ∀ y, s.launch x.launch = some y → ∃ z, t.launch x.launch = some z ∧ z.teams = y.teams.erase u) ∧
    ((s.core sp).failed = false → sp ≠ u → (∀ e ∈ (s.slice (sliceOf u)).subs, e.2 ≠ sp ∧ e.2 ≠ u) → Tab.find (t.slice (sliceOf u)).subs u = some sp ∧ (t.slice (sliceOf u)).lost = (s.slice (sliceOf u)).lost) ∧
    ((s.core sp).failed = true → (t.slice (sliceOf u)).subs = (s.slice (sliceOf u)).subs ∧ (t.slice (sliceOf u)).lost = min 255 ((s.slice (sliceOf u)).lost + 1))) ∧
  (∀ (s : State) (u : Nat), kindOf u = .host → (s.core u).failed = false → ∃ t, exec (.unitFailure u) s = .next t ∧ MemKept s t ∧ t.core u = { failed := true, nextId := (t.core u).nextId } ∧
    (t.slice (sliceOf u)).lost = min 255 ((s.slice (sliceOf u)).lost + 1) ∧ 2 ≤ (t.slice (sliceOf u)).level) ∧
  (∀ (s : State) (u : Nat), u ∈ s.lostUnits → plainUnit u = true → (s.core u).failed = false → exec (.unitFailure u) s = .next s) ∧
  (∀ (s : State) (u : Nat), kindOf u = .other → plainUnit u = false → ¬ (0x400 ≤ u ∧ u < 0x640) → ¬ (0x800 ≤ u ∧ u < 0xA40) → ¬ (0x1200 ≤ u ∧ u < 0x1420) → ¬ (0x1560 ≤ u ∧ u < 0x1570) → exec (.unitFailure u) s = .next s) ∧
  (∀ (s : State) (u : Nat), kindOf u = .func ∨ kindOf u = .root → (s.core u).failed = false → ∃ t, exec (.unitFailure u) s = .next t ∧ (t.core u).failed = true ∧ t.health = max s.health 2 ∧
    (u = 0x1610 → t.rootUp = false) ∧ (u ≠ 0x1610 → (t.func (u - 0x1600)).up = false)) ∧
  (∀ (s : State) (b : Nat), b < 128 → (s.core (0x1000 + b)).failed = false → 0x1000 + b ∉ s.lostUnits → ∃ t, exec (.unitFailure (0x1000 + b)) s = .next t ∧ MemKept s t ∧ (t.bank b).failed = true ∧ (t.bank b).lines = [] ∧ (t.bank b).wbuf = [] ∧ 0x1000 + b ∈ t.lostUnits ∧ 2 ≤ (t.slice (b / 4)).level) ∧
  (∀ (s : State) (n : Nat), ∃ t, exec (.tierPortFailure n) s = .next t ∧ { t with cxlFailed := s.cxlFailed, health := s.health, healthLog := s.healthLog } = s ∧ (∀ b, b < 16 → t.cxlFailed.getLsbD b = (s.cxlFailed.getLsbD b || decide (b = n))) ∧
    (16 ≤ n ∨ s.cxlFailed.getLsbD n = true → t = s) ∧ (n < 16 → s.cxlFailed.getLsbD n = false → t.health = max s.health 2))

namespace Sys2Proof.Slice0
open Sys2Proof.Machine

/-- No resize is under way in any partition (R447, R451). -/
def NoResize (s : State) : Prop := ∀ e ∈ s.parts, e.2.adding = none ∧ e.2.removing = none

/-- What a slice may start to join a partition (R447, R456): no partition holds it, and no resize is under way. -/
def MayJoin (s : State) (p sl : Nat) : Prop :=
  s.rootUp = true ∧ NoResize s ∧ (s.part p).pstat = 1 ∧ (∃ j ∈ (s.part p).joining, j.2 = sl) ∧ ∀ e ∈ s.parts, e.2.valid = true → ∀ m ∈ e.2.members, m.2 ≠ sl

/-- When a slice may leave, or goes on leaving, a partition (R411, R447, R456). -/
def MayLeave (s : State) (p sl : Nat) : Prop :=
  s.rootUp = true ∧ (s.part p).joining = [] ∧ (s.part p).migwm.getLsbD 63 = false ∧ (s.part p).gone = none ∧
    ((s.part p).removing = some sl ∨ (NoResize s ∧ (s.part p).pstat = 1 ∧ sl ∈ (s.part p).parting))

/-- Every slice of a new entry is free at once: no partition that stays holds it (R441). -/
def Vacant (s : State) (m : List Byte) (p : Nat) : Prop :=
  ∀ e ∈ s.parts, e.2.valid = true → (e.1 < 32 ∧ (s.part e.1).valid = true ∧ entV (entryOf m e.1) = false) ∨ ∀ a ∈ entSlots (entryOf m p), ∀ b ∈ e.2.members, b.2 ≠ a.2

/-- The kernel is fetched and accepted: the slice port of the boot host core has not failed, and the image passes (R446, R460). -/
def KernelAccepted (s : State) (p : Nat) (i : SignedImage) : Prop := s.kernelOk p i = true ∧ 0x1540 + sliceOf (s.part p).boothc.toNat ∉ s.lostUnits

/-- A partition that may boot its kernel now (R446). -/
def Boots (s : State) (p : Nat) : Prop := (s.part p).valid = true ∧ (s.part p).draining = false ∧ (s.part p).pstat = 0 ∧ (s.part p).retryAt = none

end Sys2Proof.Slice0

open Sys2Proof Sys2Proof.Machine Sys2Proof.Slice0

/-- POWER_ON zeroes the GTC, empties memory and either holds the package at the first image that fails or releases it with the stored manifest; MANIFEST_APPLY names the first check a manifest fails or applies it whole; PARTITION_RESET drains the member slices; NETWORK_BOOT starts the kernel in slot 0 of the boot host core, or counts a retry; RESIZE_ADD and RESIZE_REMOVE start the migrations (R22, R411, R437 to R447). Where the rules leave a point open the statement has the model's choice: logs 7, 28, 29 and 51. -/
def Obligations.PackagesBootAndPartitionsChange : Prop :=
  (∀ (s : State) (is : List SignedImage), ∃ t, exec (.powerOn is) s = .next t ∧ t.gtc = 0 ∧ (∀ a, bytesAt t.mem a = 0) ∧
    (s.bootStage is ≠ 0 → t.boot.released = false ∧ t.boot.stage = s.bootStage is ∧ t.mgmt = [[3, BitVec.ofNat 8 (s.bootStage is)]] ∧ t.parts = [] ∧ t.fuses = s.fuses ∧ ∀ u, (t.core u).stripes = []) ∧
    (s.bootStage is = 0 → t.boot.released = true ∧ t.boot.stage = 0 ∧ t.boot.manifest = s.boot.manifest ∧ s.fuses.minVersion ≤ t.fuses.minVersion ∧
      (∀ v, (∀ i ∈ is, SignedImage.version i ≤ v) → s.fuses.minVersion ≤ v → t.fuses.minVersion ≤ v) ∧ (s.boot.manifest = [] → t.mgmt = [] ∧ t.parts = []))) ∧
  (∀ (s : State) (m : List Byte), ∃ t, exec (.manifestApply m) s = .next t ∧ (s.boot.released = false → t = s) ∧
    (∀ n, s.boot.released = true → s.manifestBad m = some n → { t with mgmt := s.mgmt } = s ∧ t.mgmt = s.mgmt ++ [[1, BitVec.ofNat 8 n]]) ∧
    (s.boot.released = true → s.manifestBad m = none → t.boot.manifest = m ∧ t.boot.version = field m 4 4 ∧ t.mgmt = s.mgmt ∧
      ∀ p, p < 32 →
        ((s.part p).valid = false → entV (entryOf m p) = true → Vacant s m p → (t.part p).valid = true ∧ (t.part p).members = entSlots (entryOf m p) ∧ (t.part p).pstat = 0 ∧
          (t.part p).funcs.toNat = entFuncs (entryOf m p) ∧ (t.part p).wmask.toNat = entWorlds (entryOf m p)) ∧
        ((s.part p).valid = false → (∃ q, q < 32 ∧ (s.part q).valid = true ∧ entV (entryOf m q) = true ∧ ∃ a ∈ entSlots (entryOf m p), ∃ b ∈ (s.part q).members, b.2 = a.2) → t.part p = s.part p) ∧
        ((s.part p).valid = true → entV (entryOf m p) = false → (t.part p).valid = false ∧ (t.part p).members = []) ∧
        ((s.part p).valid = true → (s.part p).entry ≠ entryOf m p → entV (entryOf m p) = true → (t.part p).valid = true ∧ (t.part p).members = (s.part p).members ∧
          (t.part p).pstat = (s.part p).pstat ∧ (t.part p).wmask.toNat = entWorlds (entryOf m p)))) ∧
  (∀ (s : State) (p : Nat), ∃ t, exec (.partitionReset p) s = .next t ∧ ((s.part p).valid = false → t = s) ∧
    ((s.part p).valid = true → MemKept s t ∧ SpadKept s t ∧ (t.part p).draining = true ∧ ∀ m ∈ (s.part p).members, (t.slice m.2).drain = true ∧ ∀ u ∈ unitsOf m.2, ∀ e ∈ (t.core u).quads, e.2.turn = none)) ∧
  (∀ (s : State) (p : Nat) (i : SignedImage), ∃ t, exec (.networkBoot p i) s = .next t ∧ (¬ Boots s p → t = s) ∧
    (Boots s p → ¬ KernelAccepted s p i → MemKept s t ∧ t.cores = s.cores ∧
      ((s.part p).retries < 8 → t.part p = { s.part p with bootFrom := (s.part p).uri, retries := (s.part p).retries + 1, retryAt := some (s.gtc + 2 ^ (s.part p).retries * 1000000000) } ∧ t.mgmt = s.mgmt) ∧
      (8 ≤ (s.part p).retries → t.part p = { s.part p with bootFrom := (s.part p).uri, pstat := 3 } ∧ t.mgmt = s.mgmt ++ [[4, BitVec.ofNat 8 p]])) ∧
    (Boots s p → KernelAccepted s p i → (t.part p).pstat = 1 ∧ (t.part p).bootFrom = (s.part p).uri ∧ (t.part p).bootAt = some s.gtc ∧ (t.part p).kernel = Config.sha384 (SignedImage.signed i) ∧
      ∃ base, (s.part p).size / 8192 - 128 ≤ base ∧ (t.thread (s.part p).boothc.toNat 0 0) =
        { status := .ready, pc := BitVec.ofNat 52 (i.loadPA.toNat + i.entry.toNat), priv := if i.flags.getLsbD 0 then .h else .k, g := [(0, 0x3000)], ptb := BitVec.ofNat 64 (base * 8192 + 4096) })) ∧
  (∀ (s : State) (p sl : Nat), ∃ t, exec (.resizeAdd p sl) s = .next t ∧ MemKept s t ∧ t.cores = s.cores ∧ (¬ MayJoin s p sl → t = s) ∧
    (MayJoin s p sl → (t.part p).pstat = 2 ∧ (t.part p).adding = some sl ∧ (t.part p).oldMembers = (s.part p).members ∧ (∃ k, (t.part p).members = Tab.set (s.part p).members k sl) ∧
      (t.part p).migwm = 0x8000000000000400 ∧ (∀ j ∈ (t.part p).joining, j.2 ≠ sl) ∧
      ∀ a, (s.part p).members.head? = some a → (t.slice sl).keys = (s.slice a.2).keys)) ∧
  (∀ (s : State) (p sl : Nat), ∃ t, exec (.resizeRemove p sl) s = .next t ∧ MemKept s t ∧ (¬ MayLeave s p sl → t = s) ∧
    (MayLeave s p sl → (t.part p).pstat = 2 ∧ (t.part p).removing = some sl ∧
      ((s.part p).removing = none → ∀ u ∈ unitsOf sl, ∀ x, (s.core u).team = some x → (t.core u).team = some { x with yield := true }) ∧
      ((s.part p).removing = some sl → t.cores = s.cores) ∧ (t.part p).members = (s.part p).members ∧
      (s.occupied sl = true → (t.part p).gone = none ∧ (t.part p).migwm = (s.part p).migwm) ∧
      (s.occupied sl = false → (t.part p).gone = some sl ∧ (t.part p).oldMembers = (s.part p).members ∧ (t.part p).migwm = 0xC000000000000000 ∧ ∀ e ∈ t.launches, ∀ d ∈ ((t.slice sl).chunks), d.1 ≠ e.1)))

namespace Sys2Proof.Slice0
open Sys2Proof.Machine

/-- Request block b at address a is in progress, the root core runs, and nothing at the block's homes makes it wait (R41, R323, R452, R456). -/
def InProgress (s : State) (p a : Nat) (b : List Byte) : Prop :=
  s.request p = some (a, b) ∧ s.rootUp = true ∧ (windowEnd ≤ a → s.physWait 4 p a 256 true = none)

/-- A request in progress asks for a code, and no resize is under way (R451). -/
def Asks (s : State) (p a code : Nat) (b : List Byte) : Prop := InProgress s p a b ∧ field b 0 4 = code ∧ NoResize s

/-- A host core of the partition that has not failed and on which no thread runs (R452). -/
def Idle (s : State) (p u : Nat) : Prop := kindOf u = .host ∧ s.partOf u = some p ∧ (s.core u).failed = false ∧ ∀ k, k < 4 → (s.thread u k 0).alive = false

/-- The request ends with a status from a state that shows its effect: STATUS is written, the next request is in progress and REQDONE is set (R452). -/
def EndsWith (s t u : State) (p a st : Nat) : Prop :=
  t = u.endRequest p a st ∧ (t.part p).reqs = (s.part p).reqs.drop 1 ∧ (t.part p).evt.getLsbD 0 = true

/-- A request reads records of a log into its output buffer (R458, R461). -/
def Copies (s t : State) (p a : Nat) (b : List Byte) (log : List (List Byte)) (first : Nat) : Prop :=
  let bs := ((log.drop first).take (field b 0xC 4)).flatten
  (bs = [] → EndsWith s t s p a 0) ∧ (bs ≠ [] → s.fwCan p (field b 0x30 8) bs.length = true → EndsWith s t (s.fwWrite p (field b 0x30 8) bs) p a 0) ∧
    (bs ≠ [] → s.fwCan p (field b 0x30 8) bs.length = false → EndsWith s t s p a 1)

/-- The management port has said one more message and nothing else has changed. -/
def Says (s t : State) (bs : List Byte) : Prop := { t with mgmt := s.mgmt } = s ∧ t.mgmt = s.mgmt ++ [bs]

end Sys2Proof.Slice0

open Sys2Proof Sys2Proof.Machine Sys2Proof.Slice0

/-- The requests of a kernel to its firmware: KEYSET and KEYCLR write and empty a slot of every member slice, ATTEST, METER and HEALTH write their output, HCSTART starts a thread, WINEXP exports a window and STRKEY gives a stream its key; each ends with the status the rules give, and a wrong code or a resize ends a request too (R38, R42, R451, R452, R456, R458, R459, R461, R468, R469). Where the rules leave a point open the statement has the model's choice: logs 27, 51, 65 and 66. -/
def Obligations.RequestsAreServed : Prop :=
  (∀ (s : State) (p a : Nat) (b : List Byte), Asks s p a 1 b →
    let slot := field b 8 4
    let w := s.fwWrite p (a + 0x40) (List.replicate 128 0)
    ∃ t, exec (.keyset p) s = .next t ∧ (slot = 0 ∨ (w.part p).wmask.getLsbD (field b 0x10 4) = false → EndsWith s t w p a 3) ∧
      (slot ≠ 0 → (w.part p).wmask.getLsbD (field b 0x10 4) = true → (255 < slot ∨ 1 < field b 0xC 4 → EndsWith s t w p a 1) ∧
        (slot ≤ 255 → field b 0xC 4 ≤ 1 → 0 < w.slotFrames p slot → EndsWith s t w p a 2) ∧
        (slot ≤ 255 → field b 0xC 4 ≤ 1 → w.slotFrames p slot = 0 → ∃ u, EndsWith s t u p a 0 ∧ u.mem = w.mem ∧ u.cores = w.cores ∧ ∀ sl, sl ∈ w.memberSlices p →
          u.keySlot sl slot = { valid := true, weight := field b 0xC 4 == 1, world := BitVec.ofNat 6 (field b 0x10 4), keys := (b.drop 0x40).take 128, stamp := w.gtc } ∧
          ∀ k, k ≠ slot → u.keySlot sl k = w.keySlot sl k))) ∧
  (∀ (s : State) (p a : Nat) (b : List Byte), Asks s p a 2 b →
    let slot := field b 8 4
    let key := s.keySlot (((s.memberSlices p).head?).getD 0) slot
    let barred := slot = 0 ∨ (key.valid = true ∧ (s.part p).wmask.getLsbD key.world.toNat = false)
    ∃ t, exec (.keyclr p) s = .next t ∧ (barred → EndsWith s t s p a 3) ∧ (¬ barred → (255 < slot → EndsWith s t s p a 1) ∧ (slot ≤ 255 → 0 < s.slotFrames p slot → EndsWith s t s p a 2) ∧
      (slot ≤ 255 → s.slotFrames p slot = 0 → ∃ u, EndsWith s t u p a 0 ∧ u.mem = s.mem ∧ u.cores = s.cores ∧ ∀ sl, sl ∈ s.memberSlices p → u.keySlot sl slot = {} ∧ ∀ k, k ≠ slot → u.keySlot sl k = s.keySlot sl k))) ∧
  (∀ (s : State) (p a : Nat) (b : List Byte), Asks s p a 3 b → ∃ t, exec (.attest p) s = .next t ∧ (s.fwCan p (field b 0x30 8) 512 = false → EndsWith s t s p a 1) ∧
    (s.fwCan p (field b 0x30 8) 512 = true → ∃ bs, bs.length = 512 ∧ bs.take 32 = (((b.drop 0x10).take 32) ++ List.replicate 32 0).take 32 ∧ (bs.drop 32).take 8 = leBytes 8 s.gtc ∧
      EndsWith s t (s.fwWrite p (field b 0x30 8) bs) p a 0)) ∧
  (∀ (s : State) (p a : Nat) (b : List Byte), Asks s p a 4 b → ∃ t, exec (.meter p) s = .next t ∧ (field b 8 4 < (s.part p).meterSeq - (s.part p).meterLog.length → EndsWith s t s p a 1) ∧
    ((s.part p).meterSeq - (s.part p).meterLog.length ≤ field b 8 4 → b.length = 256 → Copies s t p a b (s.part p).meterLog (field b 8 4 - ((s.part p).meterSeq - (s.part p).meterLog.length)))) ∧
  (∀ (s : State) (p a : Nat) (b : List Byte), Asks s p a 5 b → ∃ t, exec (.health p) s = .next t ∧ Copies s t p a b s.healthLog (field b 8 4)) ∧
  (∀ (s : State) (p a u i : Nat) (b : List Byte), Asks s p a 6 b → u = field b 8 4 → i = field b 0xC 4 → ∃ t, exec (.hcstart p) s = .next t ∧
    (¬ Idle s p u → EndsWith s t s p a 3) ∧
    (Idle s p u → (3 < i → EndsWith s t s p a 1) ∧
      (i ≤ 3 → ∃ v, EndsWith s t v p a 0 ∧ v.mem = s.mem ∧ v.thread u i 0 = { status := .ready, pc := BitVec.ofNat 52 (field b 0x10 8), priv := .k, ptb := BitVec.ofNat 64 (field b 0x18 8 % 2 ^ 52) } ∧
        ∀ x j l, x ≠ u ∨ j ≠ i → v.thread x j l = s.thread x j l))) ∧
  (∀ (s : State) (p a : Nat) (b : List Byte), Asks s p a 7 b →
    let w := field b 8 4
    let base := field b 0x10 8
    let size := field b 0x18 8
    let wrong := 255 < w ∨ base % 8192 ≠ 0 ∨ size % 8192 ≠ 0 ∨ 255 < field b 0x20 4
    ∃ t, exec (.winexp p) s = .next t ∧ (wrong → EndsWith s t s p a 1) ∧ (¬ wrong → (s.part p).size < base + size → EndsWith s t s p a 3) ∧
      (¬ wrong → base + size ≤ (s.part p).size → ∃ v, EndsWith s t v p a 0 ∧ { v with parts := s.parts } = s ∧ (size = 0 → Tab.find (v.part p).windows w = none) ∧
        (size ≠ 0 → ∃ x, Tab.find (v.part p).windows w = some x ∧ x.base = base ∧ x.size = size ∧ x.key = field b 0x20 4 ∧ ∀ m, m < 1024 → (m ∈ x.mask ↔ (leNat ((b.drop 0x40).take 128)).testBit m = true)))) ∧
  (∀ (s : State) (p a : Nat) (b : List Byte), Asks s p a 8 b →
    let j := field b 0xC 4
    let w := s.fwWrite p (a + 0x40) (List.replicate 32 0)
    ∃ t, exec (.strkey p) s = .next t ∧ (Tab.find (w.part p).members (field b 8 4) = none → EndsWith s t w p a 1) ∧
      ∀ sl, Tab.find (w.part p).members (field b 8 4) = some sl → (15 < j → EndsWith s t w p a 1) ∧ (j ≤ 15 → (w.stream sl j).pending.isSome = true → EndsWith s t w p a 2) ∧
        (j ≤ 15 → (w.stream sl j).pending = none → ∃ u, EndsWith s t u p a 0 ∧ u.mem = w.mem ∧
          let k : StreamKey := { key := (b.drop 0x40).take 32, first := (w.stream sl j).i }
          ((w.stream sl j).current = none → (w.stream sl j).stop = false → u.stream sl j = { w.stream sl j with salt := BitVec.ofNat 32 (field b 0x10 4), current := some k }) ∧
          ((w.stream sl j).current ≠ none → (w.stream sl j).stop = false → u.stream sl j = { w.stream sl j with salt := BitVec.ofNat 32 (field b 0x10 4), pending := some k }) ∧
          ((w.stream sl j).current ≠ none → (w.stream sl j).stop = true →
            u.stream sl j = { w.stream sl j with salt := BitVec.ofNat 32 (field b 0x10 4), retired := (w.stream sl j).current, current := some k, pending := none, stop := false }))) ∧
  (∀ (s : State) (p a code c : Nat) (b : List Byte) (i : Instr), (code, i) ∈ [(1, Instr.keyset p), (2, .keyclr p), (3, .attest p), (4, .meter p), (5, .health p), (6, .hcstart p), (7, .winexp p), (8, .strkey p)] →
    s.request p = some (a, b) → c = field b 0 4 → ∃ t, exec i s = .next t ∧ (¬ InProgress s p a b → t = s) ∧
      (InProgress s p a b →
        -- The key bytes of KEYSET and STRKEY are overwritten before a resize turns them away.
        (¬ NoResize s → EndsWith s t (if keyBytes c = 0 then s else s.fwWrite p (a + 0x40) (List.replicate (keyBytes c) 0)) p a 4) ∧
        (NoResize s → (c = 0 ∨ 8 < c → EndsWith s t s p a 1) ∧ (c ≠ 0 → c ≤ 8 → c ≠ code → t = s))))

/-- METER_APPEND adds a usage record to the chain once a second has passed, and a signature record after every 64th; the management port answers the SPDM requests, reads the crash records, the health log and a metering log, and reports the boot stage (R439, R457, R458, R461, R471). Where the rules leave a point open the statement has the model's choice: logs 1 and 27. -/
def Obligations.MeteringAndManagementPort : Prop :=
  (∀ (s : State) (p : Nat) (e : BitVec 64), let x := s.part p
    ∃ t, exec (.meterAppend p e) s = .next t ∧ (x.bootAt = none ∨ s.gtc < x.meterFrom + 1000000000 → t = s) ∧
      (x.bootAt ≠ none → x.meterFrom + 1000000000 ≤ s.gtc → x.meterLog.length < 65536 → { t with parts := s.parts } = s ∧ (t.part p).meterUsage = x.meterUsage + 1 ∧ (t.part p).meterTicks = 0 ∧ (t.part p).meterMacs = 0 ∧ (t.part p).meterBytes = 0 ∧
        ∃ r more, (t.part p).meterLog = x.meterLog ++ r :: more ∧ (t.part p).meterSeq = x.meterSeq + 1 + more.length ∧ (more = [] ↔ (x.meterUsage + 1) % 64 ≠ 0) ∧
          r.length = 128 ∧ r.take 64 = leBytes 8 x.meterFrom ++ leBytes 4 x.meterSeq ++ leBytes 4 p ++ leBytes 8 (x.meterTicks + s.heldTicks p) ++ leBytes 8 x.meterMacs ++ leBytes 8 x.meterBytes ++ leBytes 8 e.toNat ++ List.replicate 16 0 ∧
          (t.part p).meterChain = Config.sha384 (x.meterChain ++ r.take 64))) ∧
  (∀ (s : State), ∃ t, exec .spdmGetVersion s = .next t ∧ Says s t [0x10, 0x04, 0, 0, 0, 1, 0, 0x13]) ∧
  (∀ (s : State), ∃ t v, exec .spdmGetCapabilities s = .next t ∧ { t with mgmt := s.mgmt, freeCount := s.freeCount } = s ∧ t.mgmt = s.mgmt ++ [[0x13, 0x61] ++ v] ∧ v.length = 4) ∧
  (∀ (s : State), ∃ t, exec .spdmNegotiateAlgorithms s = .next t ∧ Says s t [0x13, 0x63, 0, 0]) ∧
  (∀ (s : State) (p : Nat) (n : List Byte), ∃ t m, exec (.spdmGetMeasurements p n) s = .next t ∧ Says s t ([0x13, 0x60] ++ m) ∧ m.length = 512 ∧ m.take 32 = (n ++ List.replicate 32 0).take 32 ∧ (m.drop 32).take 8 = leBytes 8 s.gtc) ∧
  (∀ (s : State), ∃ t, exec .spdmUnsupported s = .next t ∧ Says s t [0x13, 0x7F, 0x07, 0]) ∧
  (∀ (s : State), ∃ t, exec .mgmtReadCrashRecords s = .next t ∧ Says s t s.crashes.flatten) ∧
  (∀ (s : State), ∃ t, exec .mgmtReadHealthLog s = .next t ∧ Says s t s.healthLog.flatten) ∧
  (∀ (s : State) (p : Nat), ∃ t, exec (.mgmtReadMeteringLog p) s = .next t ∧ Says s t (s.part p).meterLog.flatten) ∧
  (∀ (s : State), ∃ t, exec .mgmtBootStageReport s = .next t ∧ Says s t [3, BitVec.ofNat 8 s.boot.stage])

namespace Sys2Proof.Slice0
open Sys2Proof.Machine

/-- The word of the group at its PC is read (R57, R65, R138): the PC is aligned, its page translates outside the control window, the key check passes, nothing at its home makes the fetch wait (R41, R84, R85, R323), and the eight bytes at their home, none of them poisoned, are the word in little-endian order. -/
def Fetches (f t : State) (w : BitVec 64) : Prop :=
  let l := (f.curLanes.head?).getD 0
  f.cur.pc.toNat % 8 = 0 ∧ ∃ (s1 s2 s3 : State) (x : Xlat) (sl loc : Nat) (bs : List Byte),
    f.translate { part := f.curPart, ptb := f.ptbOf f.cur.unit f.cur.stripe l, priv := f.curPriv, need := .fetch, tlb := f.curTlb } f.cur.pc.toNat = (s1, .ok x) ∧ 0x800000 ≤ x.pa ∧
    s1.keyCheck { part := f.curPart, world := s1.worldOf f.cur.unit f.cur.stripe l, pass := s1.curPriv.atK && (s1.curKind == .host || s1.curKind == .func || s1.curKind == .root), key := x.key, isSealed := x.isSealed } x.pa = (s2, true) ∧
    s2.homeWait f.curPart x.pa 8 false true = none ∧ s2.homeOf f.curPart x.pa = some (sl, loc) ∧ s2.readHome f.curPart sl loc 8 = (s3, bs, false) ∧ t = s3.installHome sl loc false ∧
    w = BitVec.ofNat 64 (leNat (bytesGet s3.mem (memKey sl loc) 8))

/-- A step issues a word of a group: the one that the agenda names, or without an agenda the one that comes next. -/
def Issues (s r : State) (u q : Nat) (b : Bool) : Prop :=
  (s.agenda = [] ∧ s.nextIssue = some (u, q, b) ∧ r = s) ∨ ∃ rest, s.agenda = .issue u q b :: rest ∧ r = { s with agenda := rest }

/-- Words written out from the layouts of R200, R201 and R217 and the opcode map, with the instructions they stand for. -/
def writtenWords : List (BitVec 64 × Instr) :=
  [(0x1C00060410000402, .iadd { hdr := ⟨false, false, 7⟩, dst := 3, sa := 1, sb := 2, sc := 0, ma := 0, mb := 0, fa := false, fb := true, fc := false, x := 2 }),
   (0x1C400A1BFFFFF800, .iaddI { hdr := ⟨false, false, 7⟩, dst := 5, sa := 6, imm := 0xFFFFFE, fa := false, x := 0 }),
   (0xAA80FFFFFFFFFC00, .bra { hdr := ⟨true, true, 2⟩, off := 0x3FFFFFFFFF, bit9 := false, x := 0 }),
   (0x1D100C2000000100, .amoAdd { hdr := ⟨false, false, 7⟩, dst := 6, sa := 8, sb := 0, off := 0, fa := false, x := 0x100 }),
   (0x1E00000000000010, .mxclaim { hdr := ⟨false, false, 7⟩, dst := 0, sa := 0, sb := 0, sc := 0, imm8 := 0, fa := false, fb := false, fc := false, x := 0x10 }),
   (0x1F18042860000000, .launch { hdr := ⟨false, false, 7⟩, dst := 2, sa := 10, sb := 12, sc := 0, imm8 := 0, fa := false, fb := false, fc := false, x := 0 }),
   (0x1F82000000008400, .trap { hdr := ⟨false, false, 7⟩, dst := 0, sa := 0, imm := 0x21, fa := false, x := 0 })]

end Sys2Proof.Slice0

open Sys2Proof Sys2Proof.Machine Sys2Proof.Slice0

/-- A step runs the decoded instruction: when the group that issues reads a word at its PC that decodes to i, the step is exec of i with that group as issuing group, then the time the word takes and what ends every step; a word that does not decode takes its trap; an event of the agenda is run as it stands (R11, R138, R139, R274). Where the rules leave a point open the statement has the model's choice: logs 3 and 4. -/
def Obligations.AStepRunsTheDecodedWord : Prop :=
  (∀ (s r f t : State) (u q : Nat) (b : Bool) (c : Cur) (w : BitVec 64), Issues s r u q b → r.openGroup u q b = some c → (kindOf c.unit = .booth → r.boothHolds u c.stripe = false) →
    f = ({ r with cur := c } : State).beginWord.startGuest → Fetches f t w →
    (∀ i, decode w = .ok i → (wordB i = true ∨ ∀ l ∈ t.curLanes, (t.curThread l).run < 23) → step s = afterWord (wordClk i) (exec i (if wordClk i = 1 then t else t.occupy (wordClk i - 1))) ∧ t.cur = c) ∧
    (decode w = .illegal → step s = ((t.stopWord noRunAhead (.trap { cause := 0x01, lane := (f.curLanes.head?).getD 0 })).clk 1).stepDone) ∧
    (decode w = .reserved → kindLacks t.curKind w = false → step s = ((t.stopWord noRunAhead (.trap { cause := 0x02, lane := (f.curLanes.head?).getD 0 })).clk 1).stepDone)) ∧
  (∀ (s : State) (i : Instr) (rest : List Agendum), s.agenda = .event i :: rest → step s = afterEvent (exec i { s with agenda := rest }))

/-- Words written out from the spec's layouts decode to the instructions they stand for (R200, R201, R208, R211). -/
def Obligations.WrittenWordsDecode : Prop := ∀ e ∈ writtenWords, decode e.1 = .ok e.2

/-- Power-on leaves the GTC at zero, no partition, no team and nothing in memory (R22, R439); the invariant of steps and the canonical form of memory hold there. No reset of a partition, a function, a firmware core or the root core changes the GTC (R22). Where the rules leave a point open the statement has the model's choice: logs 12 and 56. -/
def Obligations.ResetStateAndResetsKeepTheGtc : Prop :=
  State.reset.gtc = 0 ∧ State.reset.Inv ∧ Memory.wf State.reset.mem = true ∧ (∀ a, bytesAt State.reset.mem a = 0) ∧ (∀ p, (State.reset.part p).valid = false) ∧ (∀ u, (State.reset.core u).team = none) ∧ State.reset.nextIssue = none ∧
  ∀ (s t : State) (p f : Nat) (c : BitVec 8) (pc : BitVec 52) (i : Instr), i ∈ [.partitionReset p, .firewallDrainEnd p, .fnrst f, .fnrstEnd f, .functionCoreCrash f c pc, .functionCoreRestart f, .rootCoreCrash c pc, .rootCoreRestart] →
    exec i s = .next t → t.gtc = s.gtc

/-- Every well-formed instruction has a word, and that word decodes to it: no bit of an encoding is dropped (R200, R201, R217, R230). -/
def Obligations.DecodingUndoesEncoding : Prop := ∀ i, i.wellFormed = true → ∃ w, encode i = some w ∧ decode w = .ok i

/-- A word that decodes is the word of its instruction, which is well-formed: no two words stand for one instruction (R11, R200, R230). -/
def Obligations.EncodingUndoesDecoding : Prop := ∀ (w : BitVec 64) (i : Instr), decode w = .ok i → i.wellFormed = true ∧ encode i = some w

/-- Every step keeps the invariant: the GTC stays a 64-bit count, every store to the control window has taken effect, and a claimed matrix engine belongs to a gang with a member (R22, R179, R444). Where the rules leave a point open the statement has the model's choice: logs 19 and 56. -/
def Obligations.EveryStepKeepsTheInvariant : Prop := ∀ (s t : State), s.Inv → step s = .next t → t.Inv

/-- Every step keeps the canonical form of memory: addresses rise strictly and no listed byte is zero, so that equal memories are equal data (R35). Where the rules leave a point open the statement has the model's choice: log 12. -/
def Obligations.EveryStepKeepsMemoryCanonical : Prop := ∀ (s t : State), Memory.wf s.mem = true → step s = .next t → Memory.wf t.mem = true
end

