-- ==== Sys2Proof/Laws/Tab.lean ====
section
/-!
SUPPORT. Laws of sparse tables and sparse bytes: reads after writes, and the canonical form that every memory operation keeps.
-/
namespace Sys2Proof.Machine

/-! ## Tables -/

theorem Tab.find_place_same {β : Type} (t : Tab β) (k : Nat) (v : β) (h : ∀ e ∈ t, e.1 ≠ k) : Tab.find (Tab.place t k v) k = some v := by
  induction t with
  | nil => simp [Tab.place, Tab.find]
  | cons e r ih =>
    obtain ⟨j, w⟩ := e
    have hj : j ≠ k := h (j, w) List.mem_cons_self
    unfold Tab.place
    split
    · simp [Tab.find]
    · simp [Tab.find, hj, ih fun e he => h e (List.mem_cons_of_mem _ he)]

theorem Tab.find_place_other {β : Type} (t : Tab β) (k j : Nat) (v : β) (h : j ≠ k) : Tab.find (Tab.place t k v) j = Tab.find t j := by
  induction t with
  | nil => simp [Tab.place, Tab.find, Ne.symm h]
  | cons e r ih =>
    obtain ⟨i, w⟩ := e
    unfold Tab.place
    split
    · simp [Tab.find, Ne.symm h]
    · simp [Tab.find, ih]

theorem Tab.find_erase_other {β : Type} (t : Tab β) (k j : Nat) (h : j ≠ k) : Tab.find (Tab.erase t k) j = Tab.find t j := by
  induction t with
  | nil => rfl
  | cons e r ih =>
    obtain ⟨i, w⟩ := e
    by_cases hi : i = k
    · subst hi
      simpa [Tab.erase, Tab.find, Ne.symm h] using ih
    · simp only [Tab.erase, Tab.find] at ih ⊢
      simp only [List.filter_cons, bne_iff_ne, ne_eq, hi, not_false_eq_true, if_true, Tab.find, ih]

@[simp] theorem Tab.find_set_same {β : Type} (t : Tab β) (k : Nat) (v : β) : Tab.find (Tab.set t k v) k = some v :=
  Tab.find_place_same _ _ _ fun e he => by simpa [Tab.erase] using (List.mem_filter.mp he).2

theorem Tab.find_set_other {β : Type} (t : Tab β) (k j : Nat) (v : β) (h : j ≠ k) : Tab.find (Tab.set t k v) j = Tab.find t j := by
  rw [Tab.set, Tab.find_place_other _ _ _ _ h, Tab.find_erase_other _ _ _ h]

/-- A key reads what was set there. -/
@[simp] theorem Tab.get_set_same {β : Type} (t : Tab β) (k : Nat) (v d : β) : Tab.get (Tab.set t k v) k d = v := by simp [Tab.get]

/-- Another key reads what it read before. -/
theorem Tab.get_set_other {β : Type} (t : Tab β) (k j : Nat) (v d : β) (h : j ≠ k) : Tab.get (Tab.set t k v) j d = Tab.get t j d := by
  simp [Tab.get, Tab.find_set_other _ _ _ _ h]

theorem Tab.get_set {β : Type} (t : Tab β) (k j : Nat) (v d : β) : Tab.get (Tab.set t k v) j d = if j = k then v else Tab.get t j d := by
  split
  · next h => subst h; simp
  · next h => exact Tab.get_set_other _ _ _ _ _ h

@[simp] theorem Tab.get_modify_same {β : Type} (t : Tab β) (k : Nat) (d : β) (f : β → β) : Tab.get (Tab.modify t k d f) k d = f (Tab.get t k d) := by
  simp [Tab.modify]

theorem Tab.find_tabulate {β : Type} (n j : Nat) (f : Nat → β) : Tab.find (Tab.tabulate n f) j = if j < n then some (f j) else none := by
  have key : ∀ (l : List Nat), Tab.find (l.map fun k => (k, f k)) j = if j ∈ l then some (f j) else none := by
    intro l
    induction l with
    | nil => simp [Tab.find]
    | cons a r ih =>
      by_cases h : a = j
      · subst h; simp [Tab.find]
      · simp [Tab.find, h, ih, Ne.symm h]
  simpa [Tab.tabulate] using key (List.range n)

theorem Tab.get_tabulate {β : Type} (n j : Nat) (f : Nat → β) (d : β) (h : j < n) : Tab.get (Tab.tabulate n f) j d = f j := by
  simp [Tab.get, Tab.find_tabulate, h]

/-! ## Bytes -/

/-- No entry below, so the canonical form says that every entry is above. -/
def Memory.above (m : List Host.Cell) (a : Nat) : Prop := ∀ c ∈ m, a < c.1

theorem Memory.wf_cons (c : Host.Cell) (m : List Host.Cell) : Memory.wf (c :: m) = true ↔ c.2 ≠ 0 ∧ Memory.above m c.1 ∧ Memory.wf m = true := by
  induction m generalizing c with
  | nil => obtain ⟨a, v⟩ := c; simp [Memory.wf, Memory.above]
  | cons d r ih =>
    obtain ⟨a, v⟩ := c
    obtain ⟨b, w⟩ := d
    have hr := ih (b, w)
    simp only [Memory.wf, Bool.and_eq_true, bne_iff_ne, ne_eq, decide_eq_true_eq] at hr ⊢
    constructor
    · rintro ⟨⟨hv, hab⟩, hw⟩
      refine ⟨hv, ?_, hw⟩
      intro c hc
      rcases List.mem_cons.mp hc with rfl | hc
      · exact hab
      · exact Nat.lt_trans hab ((hr.mp hw).2.1 c hc)
    · rintro ⟨hv, hab, hw⟩
      exact ⟨⟨hv, hab (b, w) List.mem_cons_self⟩, hw⟩

theorem Memory.wf_filter (p : Host.Cell → Bool) (m : List Host.Cell) (h : Memory.wf m = true) : Memory.wf (m.filter p) = true := by
  induction m with
  | nil => rfl
  | cons c r ih =>
    have hc := (Memory.wf_cons c r).mp h
    by_cases hp : p c = true
    · rw [List.filter_cons_of_pos hp]
      exact (Memory.wf_cons _ _).mpr ⟨hc.1, fun d hd => hc.2.1 d (List.mem_filter.mp hd).1, ih hc.2.2⟩
    · rw [List.filter_cons_of_neg hp]
      exact ih hc.2.2

theorem Memory.mem_cellPlace (m : List Host.Cell) (a : Nat) (v : Byte) (c : Host.Cell) (h : c ∈ cellPlace m a v) : c = (a, v) ∨ c ∈ m := by
  induction m with
  | nil => simpa [cellPlace] using h
  | cons d r ih =>
    obtain ⟨j, w⟩ := d
    unfold cellPlace at h
    split at h
    · simpa using h
    · rcases List.mem_cons.mp h with rfl | h
      · exact .inr List.mem_cons_self
      · exact (ih h).imp id (List.mem_cons_of_mem _)

theorem Memory.wf_cellPlace (m : List Host.Cell) (a : Nat) (v : Byte) (hv : v ≠ 0) (ha : ∀ c ∈ m, c.1 ≠ a) (h : Memory.wf m = true) :
    Memory.wf (cellPlace m a v) = true := by
  induction m with
  | nil => simpa [cellPlace, Memory.wf] using hv
  | cons d r ih =>
    obtain ⟨j, w⟩ := d
    have hd := (Memory.wf_cons (j, w) r).mp h
    have hj : j ≠ a := ha (j, w) List.mem_cons_self
    unfold cellPlace
    split
    · next haj =>
      refine (Memory.wf_cons _ _).mpr ⟨hv, ?_, h⟩
      intro c hc
      rcases List.mem_cons.mp hc with rfl | hc
      · exact haj
      · exact Nat.lt_trans haj (hd.2.1 c hc)
    · next haj =>
      refine (Memory.wf_cons _ _).mpr ⟨hd.1, ?_, ih (fun c hc => ha c (List.mem_cons_of_mem _ hc)) hd.2.2⟩
      intro c hc
      rcases Memory.mem_cellPlace _ _ _ _ hc with rfl | hc
      · show j < a
        omega
      · exact hd.2.1 c hc

/-- A write of one byte keeps the canonical form. -/
theorem Memory.wf_byteSet (m : List Host.Cell) (a : Nat) (v : Byte) (h : Memory.wf m = true) : Memory.wf (byteSet m a v) = true := by
  unfold byteSet
  have hf := Memory.wf_filter (fun c => c.1 != a) m h
  simp only
  split
  · exact hf
  · next hv => exact Memory.wf_cellPlace _ _ _ hv (fun c hc => by simpa using (List.mem_filter.mp hc).2) hf

/-- A write of a run keeps the canonical form. -/
theorem Memory.wf_bytesSet (bs : List Byte) (m : List Host.Cell) (a : Nat) (h : Memory.wf m = true) : Memory.wf (bytesSet m a bs) = true := by
  induction bs generalizing m a with
  | nil => exact h
  | cons b r ih => exact ih _ _ (Memory.wf_byteSet m a b h)

/-- Dropping a run keeps the canonical form. -/
theorem Memory.wf_bytesClear (m : List Host.Cell) (a n : Nat) (h : Memory.wf m = true) : Memory.wf (bytesClear m a n) = true := Memory.wf_filter _ m h

theorem bytesAt_filter_ne (m : List Host.Cell) (a b : Nat) (h : b ≠ a) : bytesAt (m.filter fun c => c.1 != a) b = bytesAt m b := by
  induction m with
  | nil => rfl
  | cons c r ih =>
    obtain ⟨j, w⟩ := c
    by_cases hj : j = a
    · subst hj
      simpa [bytesAt, Ne.symm h] using ih
    · simp only [List.filter_cons, bne_iff_ne, ne_eq, hj, not_false_eq_true, if_true, bytesAt, ih]

theorem bytesAt_cellPlace_same (m : List Host.Cell) (a : Nat) (v : Byte) (h : ∀ c ∈ m, c.1 ≠ a) : bytesAt (cellPlace m a v) a = v := by
  induction m with
  | nil => simp [cellPlace, bytesAt]
  | cons c r ih =>
    obtain ⟨j, w⟩ := c
    have hj : j ≠ a := h (j, w) List.mem_cons_self
    unfold cellPlace
    split
    · simp [bytesAt]
    · simp [bytesAt, hj, ih fun c hc => h c (List.mem_cons_of_mem _ hc)]

theorem bytesAt_cellPlace_other (m : List Host.Cell) (a b : Nat) (v : Byte) (h : b ≠ a) : bytesAt (cellPlace m a v) b = bytesAt m b := by
  induction m with
  | nil => simp [cellPlace, bytesAt, Ne.symm h]
  | cons c r ih =>
    obtain ⟨j, w⟩ := c
    unfold cellPlace
    split
    · simp [bytesAt, Ne.symm h]
    · simp [bytesAt, ih]

theorem bytesAt_absent (m : List Host.Cell) (a : Nat) (h : ∀ c ∈ m, c.1 ≠ a) : bytesAt m a = 0 := by
  induction m with
  | nil => rfl
  | cons c r ih =>
    obtain ⟨j, w⟩ := c
    have hj : j ≠ a := h (j, w) List.mem_cons_self
    simp [bytesAt, hj, ih fun c hc => h c (List.mem_cons_of_mem _ hc)]

/-- A byte reads what was written there. -/
@[simp] theorem bytesAt_byteSet_same (m : List Host.Cell) (a : Nat) (v : Byte) : bytesAt (byteSet m a v) a = v := by
  have hf : ∀ c ∈ m.filter (fun c => c.1 != a), c.1 ≠ a := fun c hc => by simpa using (List.mem_filter.mp hc).2
  unfold byteSet
  simp only
  split
  · next hv => rw [bytesAt_absent _ _ hf, hv]
  · exact bytesAt_cellPlace_same _ _ _ hf

/-- Another byte reads what it read before. -/
theorem bytesAt_byteSet_other (m : List Host.Cell) (a b : Nat) (v : Byte) (h : b ≠ a) : bytesAt (byteSet m a v) b = bytesAt m b := by
  unfold byteSet
  simp only
  split
  · exact bytesAt_filter_ne _ _ _ h
  · rw [bytesAt_cellPlace_other _ _ _ _ h, bytesAt_filter_ne _ _ _ h]

/-- A byte outside a written run reads what it read before. -/
theorem bytesAt_bytesSet_outside (bs : List Byte) (m : List Host.Cell) (a b : Nat) (h : b < a ∨ a + bs.length ≤ b) :
    bytesAt (bytesSet m a bs) b = bytesAt m b := by
  induction bs generalizing m a with
  | nil => rfl
  | cons x r ih =>
    simp only [List.length_cons] at h
    rw [bytesSet, ih _ _ (by omega), bytesAt_byteSet_other _ _ _ _ (by omega)]

/-- A byte inside a written run reads the run's byte. -/
theorem bytesAt_bytesSet_inside (bs : List Byte) (m : List Host.Cell) (a i : Nat) (h : i < bs.length) : bytesAt (bytesSet m a bs) (a + i) = bs[i] := by
  induction bs generalizing m a i with
  | nil => simp at h
  | cons x r ih =>
    rw [bytesSet]
    match i with
    | 0 => simp [bytesAt_bytesSet_outside r _ (a + 1) a (by omega)]
    | j + 1 =>
      have := ih (byteSet m a x) (a + 1) j (by simpa using h)
      simpa [Nat.add_assoc, Nat.add_comm 1 j] using this

/-! ## Masks -/

theorem maskSum_bits (p : Nat → Bool) (n : Nat) :
    (List.range n).foldl (fun a l => if p l then a + 2 ^ l else a) 0 < 2 ^ n ∧
      ∀ k, k < n → ((List.range n).foldl (fun a l => if p l then a + 2 ^ l else a) 0).testBit k = p k := by
  induction n with
  | zero => simp
  | succ n ih =>
    rw [List.range_succ, List.foldl_append]
    generalize (List.range n).foldl (fun a l => if p l then a + 2 ^ l else a) 0 = x at ih
    obtain ⟨hx, hb⟩ := ih
    have e : 2 ^ (n + 1) = 2 * 2 ^ n := by rw [Nat.pow_succ, Nat.mul_comm]
    simp only [List.foldl_cons, List.foldl_nil]
    refine ⟨by split <;> omega, fun k hk => ?_⟩
    by_cases hp : p n
    · simp only [hp, if_true]
      rw [Nat.add_comm]
      by_cases hkn : k = n
      · subst hkn
        rw [Nat.testBit_two_pow_add_eq, Nat.testBit_lt_two_pow hx, hp]
        rfl
      · rw [Nat.testBit_two_pow_add_gt (by omega), hb k (by omega)]
    · by_cases hkn : k = n
      · subst hkn
        simp [hp, Nat.testBit_lt_two_pow hx]
      · simp [hp, hb k (by omega)]

/-- Bit k of a mask of lanes is what its predicate says. -/
theorem laneMask_getLsbD (p : Nat → Bool) (k : Nat) (h : k < 32) : (laneMask p).getLsbD k = p k := by
  have := maskSum_bits p 32
  rw [laneMask, BitVec.getLsbD_ofNat, this.2 k h]
  simp [h]

theorem mem_maskLanes (m : BitVec 32) (l : Nat) : l ∈ maskLanes m ↔ l < 32 ∧ m.getLsbD l = true := by simp [maskLanes]

end Sys2Proof.Machine
end

