-- ==== Sys2Proof/Laws/State.lean ====
section
/-!
SUPPORT. What each update of the state leaves alone, field by field, and what it changes.
-/
namespace Sys2Proof.Machine

/-! ## State.onCore -/

@[simp] theorem State.onCore_gtc (s : State) (u : Nat) (f : Core → Core) : (s.onCore u f).gtc = s.gtc := rfl
@[simp] theorem State.onCore_phase (s : State) (u : Nat) (f : Core → Core) : (s.onCore u f).phase = s.phase := rfl
@[simp] theorem State.onCore_freeCount (s : State) (u : Nat) (f : Core → Core) : (s.onCore u f).freeCount = s.freeCount := rfl
@[simp] theorem State.onCore_agenda (s : State) (u : Nat) (f : Core → Core) : (s.onCore u f).agenda = s.agenda := rfl
@[simp] theorem State.onCore_regWrites (s : State) (u : Nat) (f : Core → Core) : (s.onCore u f).regWrites = s.regWrites := rfl
@[simp] theorem State.onCore_focus (s : State) (u : Nat) (f : Core → Core) : (s.onCore u f).focus = s.focus := rfl
@[simp] theorem State.onCore_cur (s : State) (u : Nat) (f : Core → Core) : (s.onCore u f).cur = s.cur := rfl
@[simp] theorem State.onCore_slices (s : State) (u : Nat) (f : Core → Core) : (s.onCore u f).slices = s.slices := rfl
@[simp] theorem State.onCore_banks (s : State) (u : Nat) (f : Core → Core) : (s.onCore u f).banks = s.banks := rfl
@[simp] theorem State.onCore_ports (s : State) (u : Nat) (f : Core → Core) : (s.onCore u f).ports = s.ports := rfl
@[simp] theorem State.onCore_parts (s : State) (u : Nat) (f : Core → Core) : (s.onCore u f).parts = s.parts := rfl
@[simp] theorem State.onCore_funcs (s : State) (u : Nat) (f : Core → Core) : (s.onCore u f).funcs = s.funcs := rfl
@[simp] theorem State.onCore_launches (s : State) (u : Nat) (f : Core → Core) : (s.onCore u f).launches = s.launches := rfl
@[simp] theorem State.onCore_nextLaunch (s : State) (u : Nat) (f : Core → Core) : (s.onCore u f).nextLaunch = s.nextLaunch := rfl
@[simp] theorem State.onCore_granq (s : State) (u : Nat) (f : Core → Core) : (s.onCore u f).granq = s.granq := rfl
@[simp] theorem State.onCore_commits (s : State) (u : Nat) (f : Core → Core) : (s.onCore u f).commits = s.commits := rfl
@[simp] theorem State.onCore_nextTx (s : State) (u : Nat) (f : Core → Core) : (s.onCore u f).nextTx = s.nextTx := rfl
@[simp] theorem State.onCore_mem (s : State) (u : Nat) (f : Core → Core) : (s.onCore u f).mem = s.mem := rfl
@[simp] theorem State.onCore_poison (s : State) (u : Nat) (f : Core → Core) : (s.onCore u f).poison = s.poison := rfl
@[simp] theorem State.onCore_metas (s : State) (u : Nat) (f : Core → Core) : (s.onCore u f).metas = s.metas := rfl
@[simp] theorem State.onCore_frames (s : State) (u : Nat) (f : Core → Core) : (s.onCore u f).frames = s.frames := rfl
@[simp] theorem State.onCore_latent (s : State) (u : Nat) (f : Core → Core) : (s.onCore u f).latent = s.latent := rfl
@[simp] theorem State.onCore_tier (s : State) (u : Nat) (f : Core → Core) : (s.onCore u f).tier = s.tier := rfl
@[simp] theorem State.onCore_tierHdr (s : State) (u : Nat) (f : Core → Core) : (s.onCore u f).tierHdr = s.tierHdr := rfl
@[simp] theorem State.onCore_cxlFailed (s : State) (u : Nat) (f : Core → Core) : (s.onCore u f).cxlFailed = s.cxlFailed := rfl
@[simp] theorem State.onCore_health (s : State) (u : Nat) (f : Core → Core) : (s.onCore u f).health = s.health := rfl
@[simp] theorem State.onCore_healthLog (s : State) (u : Nat) (f : Core → Core) : (s.onCore u f).healthLog = s.healthLog := rfl
@[simp] theorem State.onCore_crashes (s : State) (u : Nat) (f : Core → Core) : (s.onCore u f).crashes = s.crashes := rfl
@[simp] theorem State.onCore_lostUnits (s : State) (u : Nat) (f : Core → Core) : (s.onCore u f).lostUnits = s.lostUnits := rfl
@[simp] theorem State.onCore_rootUp (s : State) (u : Nat) (f : Core → Core) : (s.onCore u f).rootUp = s.rootUp := rfl
@[simp] theorem State.onCore_rootSince (s : State) (u : Nat) (f : Core → Core) : (s.onCore u f).rootSince = s.rootSince := rfl
@[simp] theorem State.onCore_boot (s : State) (u : Nat) (f : Core → Core) : (s.onCore u f).boot = s.boot := rfl
@[simp] theorem State.onCore_fuses (s : State) (u : Nat) (f : Core → Core) : (s.onCore u f).fuses = s.fuses := rfl
@[simp] theorem State.onCore_pod (s : State) (u : Nat) (f : Core → Core) : (s.onCore u f).pod = s.pod := rfl
@[simp] theorem State.onCore_mgmt (s : State) (u : Nat) (f : Core → Core) : (s.onCore u f).mgmt = s.mgmt := rfl
@[simp] theorem State.onCore_packageIdx (s : State) (u : Nat) (f : Core → Core) : (s.onCore u f).packageIdx = s.packageIdx := rfl

/-! ## State.onStripe -/

@[simp] theorem State.onStripe_gtc (s : State) (u i : Nat) (f : Stripe → Stripe) : (s.onStripe u i f).gtc = s.gtc := rfl
@[simp] theorem State.onStripe_phase (s : State) (u i : Nat) (f : Stripe → Stripe) : (s.onStripe u i f).phase = s.phase := rfl
@[simp] theorem State.onStripe_freeCount (s : State) (u i : Nat) (f : Stripe → Stripe) : (s.onStripe u i f).freeCount = s.freeCount := rfl
@[simp] theorem State.onStripe_agenda (s : State) (u i : Nat) (f : Stripe → Stripe) : (s.onStripe u i f).agenda = s.agenda := rfl
@[simp] theorem State.onStripe_regWrites (s : State) (u i : Nat) (f : Stripe → Stripe) : (s.onStripe u i f).regWrites = s.regWrites := rfl
@[simp] theorem State.onStripe_focus (s : State) (u i : Nat) (f : Stripe → Stripe) : (s.onStripe u i f).focus = s.focus := rfl
@[simp] theorem State.onStripe_cur (s : State) (u i : Nat) (f : Stripe → Stripe) : (s.onStripe u i f).cur = s.cur := rfl
@[simp] theorem State.onStripe_slices (s : State) (u i : Nat) (f : Stripe → Stripe) : (s.onStripe u i f).slices = s.slices := rfl
@[simp] theorem State.onStripe_banks (s : State) (u i : Nat) (f : Stripe → Stripe) : (s.onStripe u i f).banks = s.banks := rfl
@[simp] theorem State.onStripe_ports (s : State) (u i : Nat) (f : Stripe → Stripe) : (s.onStripe u i f).ports = s.ports := rfl
@[simp] theorem State.onStripe_parts (s : State) (u i : Nat) (f : Stripe → Stripe) : (s.onStripe u i f).parts = s.parts := rfl
@[simp] theorem State.onStripe_funcs (s : State) (u i : Nat) (f : Stripe → Stripe) : (s.onStripe u i f).funcs = s.funcs := rfl
@[simp] theorem State.onStripe_launches (s : State) (u i : Nat) (f : Stripe → Stripe) : (s.onStripe u i f).launches = s.launches := rfl
@[simp] theorem State.onStripe_nextLaunch (s : State) (u i : Nat) (f : Stripe → Stripe) : (s.onStripe u i f).nextLaunch = s.nextLaunch := rfl
@[simp] theorem State.onStripe_granq (s : State) (u i : Nat) (f : Stripe → Stripe) : (s.onStripe u i f).granq = s.granq := rfl
@[simp] theorem State.onStripe_commits (s : State) (u i : Nat) (f : Stripe → Stripe) : (s.onStripe u i f).commits = s.commits := rfl
@[simp] theorem State.onStripe_nextTx (s : State) (u i : Nat) (f : Stripe → Stripe) : (s.onStripe u i f).nextTx = s.nextTx := rfl
@[simp] theorem State.onStripe_mem (s : State) (u i : Nat) (f : Stripe → Stripe) : (s.onStripe u i f).mem = s.mem := rfl
@[simp] theorem State.onStripe_poison (s : State) (u i : Nat) (f : Stripe → Stripe) : (s.onStripe u i f).poison = s.poison := rfl
@[simp] theorem State.onStripe_metas (s : State) (u i : Nat) (f : Stripe → Stripe) : (s.onStripe u i f).metas = s.metas := rfl
@[simp] theorem State.onStripe_frames (s : State) (u i : Nat) (f : Stripe → Stripe) : (s.onStripe u i f).frames = s.frames := rfl
@[simp] theorem State.onStripe_latent (s : State) (u i : Nat) (f : Stripe → Stripe) : (s.onStripe u i f).latent = s.latent := rfl
@[simp] theorem State.onStripe_tier (s : State) (u i : Nat) (f : Stripe → Stripe) : (s.onStripe u i f).tier = s.tier := rfl
@[simp] theorem State.onStripe_tierHdr (s : State) (u i : Nat) (f : Stripe → Stripe) : (s.onStripe u i f).tierHdr = s.tierHdr := rfl
@[simp] theorem State.onStripe_cxlFailed (s : State) (u i : Nat) (f : Stripe → Stripe) : (s.onStripe u i f).cxlFailed = s.cxlFailed := rfl
@[simp] theorem State.onStripe_health (s : State) (u i : Nat) (f : Stripe → Stripe) : (s.onStripe u i f).health = s.health := rfl
@[simp] theorem State.onStripe_healthLog (s : State) (u i : Nat) (f : Stripe → Stripe) : (s.onStripe u i f).healthLog = s.healthLog := rfl
@[simp] theorem State.onStripe_crashes (s : State) (u i : Nat) (f : Stripe → Stripe) : (s.onStripe u i f).crashes = s.crashes := rfl
@[simp] theorem State.onStripe_lostUnits (s : State) (u i : Nat) (f : Stripe → Stripe) : (s.onStripe u i f).lostUnits = s.lostUnits := rfl
@[simp] theorem State.onStripe_rootUp (s : State) (u i : Nat) (f : Stripe → Stripe) : (s.onStripe u i f).rootUp = s.rootUp := rfl
@[simp] theorem State.onStripe_rootSince (s : State) (u i : Nat) (f : Stripe → Stripe) : (s.onStripe u i f).rootSince = s.rootSince := rfl
@[simp] theorem State.onStripe_boot (s : State) (u i : Nat) (f : Stripe → Stripe) : (s.onStripe u i f).boot = s.boot := rfl
@[simp] theorem State.onStripe_fuses (s : State) (u i : Nat) (f : Stripe → Stripe) : (s.onStripe u i f).fuses = s.fuses := rfl
@[simp] theorem State.onStripe_pod (s : State) (u i : Nat) (f : Stripe → Stripe) : (s.onStripe u i f).pod = s.pod := rfl
@[simp] theorem State.onStripe_mgmt (s : State) (u i : Nat) (f : Stripe → Stripe) : (s.onStripe u i f).mgmt = s.mgmt := rfl
@[simp] theorem State.onStripe_packageIdx (s : State) (u i : Nat) (f : Stripe → Stripe) : (s.onStripe u i f).packageIdx = s.packageIdx := rfl

/-! ## State.onThread -/

@[simp] theorem State.onThread_gtc (s : State) (u i l : Nat) (f : Thread → Thread) : (s.onThread u i l f).gtc = s.gtc := rfl
@[simp] theorem State.onThread_phase (s : State) (u i l : Nat) (f : Thread → Thread) : (s.onThread u i l f).phase = s.phase := rfl
@[simp] theorem State.onThread_freeCount (s : State) (u i l : Nat) (f : Thread → Thread) : (s.onThread u i l f).freeCount = s.freeCount := rfl
@[simp] theorem State.onThread_agenda (s : State) (u i l : Nat) (f : Thread → Thread) : (s.onThread u i l f).agenda = s.agenda := rfl
@[simp] theorem State.onThread_regWrites (s : State) (u i l : Nat) (f : Thread → Thread) : (s.onThread u i l f).regWrites = s.regWrites := rfl
@[simp] theorem State.onThread_focus (s : State) (u i l : Nat) (f : Thread → Thread) : (s.onThread u i l f).focus = s.focus := rfl
@[simp] theorem State.onThread_cur (s : State) (u i l : Nat) (f : Thread → Thread) : (s.onThread u i l f).cur = s.cur := rfl
@[simp] theorem State.onThread_slices (s : State) (u i l : Nat) (f : Thread → Thread) : (s.onThread u i l f).slices = s.slices := rfl
@[simp] theorem State.onThread_banks (s : State) (u i l : Nat) (f : Thread → Thread) : (s.onThread u i l f).banks = s.banks := rfl
@[simp] theorem State.onThread_ports (s : State) (u i l : Nat) (f : Thread → Thread) : (s.onThread u i l f).ports = s.ports := rfl
@[simp] theorem State.onThread_parts (s : State) (u i l : Nat) (f : Thread → Thread) : (s.onThread u i l f).parts = s.parts := rfl
@[simp] theorem State.onThread_funcs (s : State) (u i l : Nat) (f : Thread → Thread) : (s.onThread u i l f).funcs = s.funcs := rfl
@[simp] theorem State.onThread_launches (s : State) (u i l : Nat) (f : Thread → Thread) : (s.onThread u i l f).launches = s.launches := rfl
@[simp] theorem State.onThread_nextLaunch (s : State) (u i l : Nat) (f : Thread → Thread) : (s.onThread u i l f).nextLaunch = s.nextLaunch := rfl
@[simp] theorem State.onThread_granq (s : State) (u i l : Nat) (f : Thread → Thread) : (s.onThread u i l f).granq = s.granq := rfl
@[simp] theorem State.onThread_commits (s : State) (u i l : Nat) (f : Thread → Thread) : (s.onThread u i l f).commits = s.commits := rfl
@[simp] theorem State.onThread_nextTx (s : State) (u i l : Nat) (f : Thread → Thread) : (s.onThread u i l f).nextTx = s.nextTx := rfl
@[simp] theorem State.onThread_mem (s : State) (u i l : Nat) (f : Thread → Thread) : (s.onThread u i l f).mem = s.mem := rfl
@[simp] theorem State.onThread_poison (s : State) (u i l : Nat) (f : Thread → Thread) : (s.onThread u i l f).poison = s.poison := rfl
@[simp] theorem State.onThread_metas (s : State) (u i l : Nat) (f : Thread → Thread) : (s.onThread u i l f).metas = s.metas := rfl
@[simp] theorem State.onThread_frames (s : State) (u i l : Nat) (f : Thread → Thread) : (s.onThread u i l f).frames = s.frames := rfl
@[simp] theorem State.onThread_latent (s : State) (u i l : Nat) (f : Thread → Thread) : (s.onThread u i l f).latent = s.latent := rfl
@[simp] theorem State.onThread_tier (s : State) (u i l : Nat) (f : Thread → Thread) : (s.onThread u i l f).tier = s.tier := rfl
@[simp] theorem State.onThread_tierHdr (s : State) (u i l : Nat) (f : Thread → Thread) : (s.onThread u i l f).tierHdr = s.tierHdr := rfl
@[simp] theorem State.onThread_cxlFailed (s : State) (u i l : Nat) (f : Thread → Thread) : (s.onThread u i l f).cxlFailed = s.cxlFailed := rfl
@[simp] theorem State.onThread_health (s : State) (u i l : Nat) (f : Thread → Thread) : (s.onThread u i l f).health = s.health := rfl
@[simp] theorem State.onThread_healthLog (s : State) (u i l : Nat) (f : Thread → Thread) : (s.onThread u i l f).healthLog = s.healthLog := rfl
@[simp] theorem State.onThread_crashes (s : State) (u i l : Nat) (f : Thread → Thread) : (s.onThread u i l f).crashes = s.crashes := rfl
@[simp] theorem State.onThread_lostUnits (s : State) (u i l : Nat) (f : Thread → Thread) : (s.onThread u i l f).lostUnits = s.lostUnits := rfl
@[simp] theorem State.onThread_rootUp (s : State) (u i l : Nat) (f : Thread → Thread) : (s.onThread u i l f).rootUp = s.rootUp := rfl
@[simp] theorem State.onThread_rootSince (s : State) (u i l : Nat) (f : Thread → Thread) : (s.onThread u i l f).rootSince = s.rootSince := rfl
@[simp] theorem State.onThread_boot (s : State) (u i l : Nat) (f : Thread → Thread) : (s.onThread u i l f).boot = s.boot := rfl
@[simp] theorem State.onThread_fuses (s : State) (u i l : Nat) (f : Thread → Thread) : (s.onThread u i l f).fuses = s.fuses := rfl
@[simp] theorem State.onThread_pod (s : State) (u i l : Nat) (f : Thread → Thread) : (s.onThread u i l f).pod = s.pod := rfl
@[simp] theorem State.onThread_mgmt (s : State) (u i l : Nat) (f : Thread → Thread) : (s.onThread u i l f).mgmt = s.mgmt := rfl
@[simp] theorem State.onThread_packageIdx (s : State) (u i l : Nat) (f : Thread → Thread) : (s.onThread u i l f).packageIdx = s.packageIdx := rfl

/-! ## State.onCur -/

@[simp] theorem State.onCur_gtc (s : State) (f : Stripe → Stripe) : (s.onCur f).gtc = s.gtc := rfl
@[simp] theorem State.onCur_phase (s : State) (f : Stripe → Stripe) : (s.onCur f).phase = s.phase := rfl
@[simp] theorem State.onCur_freeCount (s : State) (f : Stripe → Stripe) : (s.onCur f).freeCount = s.freeCount := rfl
@[simp] theorem State.onCur_agenda (s : State) (f : Stripe → Stripe) : (s.onCur f).agenda = s.agenda := rfl
@[simp] theorem State.onCur_regWrites (s : State) (f : Stripe → Stripe) : (s.onCur f).regWrites = s.regWrites := rfl
@[simp] theorem State.onCur_focus (s : State) (f : Stripe → Stripe) : (s.onCur f).focus = s.focus := rfl
@[simp] theorem State.onCur_cur (s : State) (f : Stripe → Stripe) : (s.onCur f).cur = s.cur := rfl
@[simp] theorem State.onCur_slices (s : State) (f : Stripe → Stripe) : (s.onCur f).slices = s.slices := rfl
@[simp] theorem State.onCur_banks (s : State) (f : Stripe → Stripe) : (s.onCur f).banks = s.banks := rfl
@[simp] theorem State.onCur_ports (s : State) (f : Stripe → Stripe) : (s.onCur f).ports = s.ports := rfl
@[simp] theorem State.onCur_parts (s : State) (f : Stripe → Stripe) : (s.onCur f).parts = s.parts := rfl
@[simp] theorem State.onCur_funcs (s : State) (f : Stripe → Stripe) : (s.onCur f).funcs = s.funcs := rfl
@[simp] theorem State.onCur_launches (s : State) (f : Stripe → Stripe) : (s.onCur f).launches = s.launches := rfl
@[simp] theorem State.onCur_nextLaunch (s : State) (f : Stripe → Stripe) : (s.onCur f).nextLaunch = s.nextLaunch := rfl
@[simp] theorem State.onCur_granq (s : State) (f : Stripe → Stripe) : (s.onCur f).granq = s.granq := rfl
@[simp] theorem State.onCur_commits (s : State) (f : Stripe → Stripe) : (s.onCur f).commits = s.commits := rfl
@[simp] theorem State.onCur_nextTx (s : State) (f : Stripe → Stripe) : (s.onCur f).nextTx = s.nextTx := rfl
@[simp] theorem State.onCur_mem (s : State) (f : Stripe → Stripe) : (s.onCur f).mem = s.mem := rfl
@[simp] theorem State.onCur_poison (s : State) (f : Stripe → Stripe) : (s.onCur f).poison = s.poison := rfl
@[simp] theorem State.onCur_metas (s : State) (f : Stripe → Stripe) : (s.onCur f).metas = s.metas := rfl
@[simp] theorem State.onCur_frames (s : State) (f : Stripe → Stripe) : (s.onCur f).frames = s.frames := rfl
@[simp] theorem State.onCur_latent (s : State) (f : Stripe → Stripe) : (s.onCur f).latent = s.latent := rfl
@[simp] theorem State.onCur_tier (s : State) (f : Stripe → Stripe) : (s.onCur f).tier = s.tier := rfl
@[simp] theorem State.onCur_tierHdr (s : State) (f : Stripe → Stripe) : (s.onCur f).tierHdr = s.tierHdr := rfl
@[simp] theorem State.onCur_cxlFailed (s : State) (f : Stripe → Stripe) : (s.onCur f).cxlFailed = s.cxlFailed := rfl
@[simp] theorem State.onCur_health (s : State) (f : Stripe → Stripe) : (s.onCur f).health = s.health := rfl
@[simp] theorem State.onCur_healthLog (s : State) (f : Stripe → Stripe) : (s.onCur f).healthLog = s.healthLog := rfl
@[simp] theorem State.onCur_crashes (s : State) (f : Stripe → Stripe) : (s.onCur f).crashes = s.crashes := rfl
@[simp] theorem State.onCur_lostUnits (s : State) (f : Stripe → Stripe) : (s.onCur f).lostUnits = s.lostUnits := rfl
@[simp] theorem State.onCur_rootUp (s : State) (f : Stripe → Stripe) : (s.onCur f).rootUp = s.rootUp := rfl
@[simp] theorem State.onCur_rootSince (s : State) (f : Stripe → Stripe) : (s.onCur f).rootSince = s.rootSince := rfl
@[simp] theorem State.onCur_boot (s : State) (f : Stripe → Stripe) : (s.onCur f).boot = s.boot := rfl
@[simp] theorem State.onCur_fuses (s : State) (f : Stripe → Stripe) : (s.onCur f).fuses = s.fuses := rfl
@[simp] theorem State.onCur_pod (s : State) (f : Stripe → Stripe) : (s.onCur f).pod = s.pod := rfl
@[simp] theorem State.onCur_mgmt (s : State) (f : Stripe → Stripe) : (s.onCur f).mgmt = s.mgmt := rfl
@[simp] theorem State.onCur_packageIdx (s : State) (f : Stripe → Stripe) : (s.onCur f).packageIdx = s.packageIdx := rfl

/-! ## State.onSlice -/

@[simp] theorem State.onSlice_gtc (s : State) (k : Nat) (f : Slice → Slice) : (s.onSlice k f).gtc = s.gtc := rfl
@[simp] theorem State.onSlice_phase (s : State) (k : Nat) (f : Slice → Slice) : (s.onSlice k f).phase = s.phase := rfl
@[simp] theorem State.onSlice_freeCount (s : State) (k : Nat) (f : Slice → Slice) : (s.onSlice k f).freeCount = s.freeCount := rfl
@[simp] theorem State.onSlice_agenda (s : State) (k : Nat) (f : Slice → Slice) : (s.onSlice k f).agenda = s.agenda := rfl
@[simp] theorem State.onSlice_regWrites (s : State) (k : Nat) (f : Slice → Slice) : (s.onSlice k f).regWrites = s.regWrites := rfl
@[simp] theorem State.onSlice_focus (s : State) (k : Nat) (f : Slice → Slice) : (s.onSlice k f).focus = s.focus := rfl
@[simp] theorem State.onSlice_cur (s : State) (k : Nat) (f : Slice → Slice) : (s.onSlice k f).cur = s.cur := rfl
@[simp] theorem State.onSlice_cores (s : State) (k : Nat) (f : Slice → Slice) : (s.onSlice k f).cores = s.cores := rfl
@[simp] theorem State.onSlice_banks (s : State) (k : Nat) (f : Slice → Slice) : (s.onSlice k f).banks = s.banks := rfl
@[simp] theorem State.onSlice_ports (s : State) (k : Nat) (f : Slice → Slice) : (s.onSlice k f).ports = s.ports := rfl
@[simp] theorem State.onSlice_parts (s : State) (k : Nat) (f : Slice → Slice) : (s.onSlice k f).parts = s.parts := rfl
@[simp] theorem State.onSlice_funcs (s : State) (k : Nat) (f : Slice → Slice) : (s.onSlice k f).funcs = s.funcs := rfl
@[simp] theorem State.onSlice_launches (s : State) (k : Nat) (f : Slice → Slice) : (s.onSlice k f).launches = s.launches := rfl
@[simp] theorem State.onSlice_nextLaunch (s : State) (k : Nat) (f : Slice → Slice) : (s.onSlice k f).nextLaunch = s.nextLaunch := rfl
@[simp] theorem State.onSlice_granq (s : State) (k : Nat) (f : Slice → Slice) : (s.onSlice k f).granq = s.granq := rfl
@[simp] theorem State.onSlice_commits (s : State) (k : Nat) (f : Slice → Slice) : (s.onSlice k f).commits = s.commits := rfl
@[simp] theorem State.onSlice_nextTx (s : State) (k : Nat) (f : Slice → Slice) : (s.onSlice k f).nextTx = s.nextTx := rfl
@[simp] theorem State.onSlice_mem (s : State) (k : Nat) (f : Slice → Slice) : (s.onSlice k f).mem = s.mem := rfl
@[simp] theorem State.onSlice_poison (s : State) (k : Nat) (f : Slice → Slice) : (s.onSlice k f).poison = s.poison := rfl
@[simp] theorem State.onSlice_metas (s : State) (k : Nat) (f : Slice → Slice) : (s.onSlice k f).metas = s.metas := rfl
@[simp] theorem State.onSlice_frames (s : State) (k : Nat) (f : Slice → Slice) : (s.onSlice k f).frames = s.frames := rfl
@[simp] theorem State.onSlice_latent (s : State) (k : Nat) (f : Slice → Slice) : (s.onSlice k f).latent = s.latent := rfl
@[simp] theorem State.onSlice_tier (s : State) (k : Nat) (f : Slice → Slice) : (s.onSlice k f).tier = s.tier := rfl
@[simp] theorem State.onSlice_tierHdr (s : State) (k : Nat) (f : Slice → Slice) : (s.onSlice k f).tierHdr = s.tierHdr := rfl
@[simp] theorem State.onSlice_cxlFailed (s : State) (k : Nat) (f : Slice → Slice) : (s.onSlice k f).cxlFailed = s.cxlFailed := rfl
@[simp] theorem State.onSlice_health (s : State) (k : Nat) (f : Slice → Slice) : (s.onSlice k f).health = s.health := rfl
@[simp] theorem State.onSlice_healthLog (s : State) (k : Nat) (f : Slice → Slice) : (s.onSlice k f).healthLog = s.healthLog := rfl
@[simp] theorem State.onSlice_crashes (s : State) (k : Nat) (f : Slice → Slice) : (s.onSlice k f).crashes = s.crashes := rfl
@[simp] theorem State.onSlice_lostUnits (s : State) (k : Nat) (f : Slice → Slice) : (s.onSlice k f).lostUnits = s.lostUnits := rfl
@[simp] theorem State.onSlice_rootUp (s : State) (k : Nat) (f : Slice → Slice) : (s.onSlice k f).rootUp = s.rootUp := rfl
@[simp] theorem State.onSlice_rootSince (s : State) (k : Nat) (f : Slice → Slice) : (s.onSlice k f).rootSince = s.rootSince := rfl
@[simp] theorem State.onSlice_boot (s : State) (k : Nat) (f : Slice → Slice) : (s.onSlice k f).boot = s.boot := rfl
@[simp] theorem State.onSlice_fuses (s : State) (k : Nat) (f : Slice → Slice) : (s.onSlice k f).fuses = s.fuses := rfl
@[simp] theorem State.onSlice_pod (s : State) (k : Nat) (f : Slice → Slice) : (s.onSlice k f).pod = s.pod := rfl
@[simp] theorem State.onSlice_mgmt (s : State) (k : Nat) (f : Slice → Slice) : (s.onSlice k f).mgmt = s.mgmt := rfl
@[simp] theorem State.onSlice_packageIdx (s : State) (k : Nat) (f : Slice → Slice) : (s.onSlice k f).packageIdx = s.packageIdx := rfl

/-! ## State.onPart -/

@[simp] theorem State.onPart_gtc (s : State) (p : Nat) (f : Partition → Partition) : (s.onPart p f).gtc = s.gtc := rfl
@[simp] theorem State.onPart_phase (s : State) (p : Nat) (f : Partition → Partition) : (s.onPart p f).phase = s.phase := rfl
@[simp] theorem State.onPart_freeCount (s : State) (p : Nat) (f : Partition → Partition) : (s.onPart p f).freeCount = s.freeCount := rfl
@[simp] theorem State.onPart_agenda (s : State) (p : Nat) (f : Partition → Partition) : (s.onPart p f).agenda = s.agenda := rfl
@[simp] theorem State.onPart_regWrites (s : State) (p : Nat) (f : Partition → Partition) : (s.onPart p f).regWrites = s.regWrites := rfl
@[simp] theorem State.onPart_focus (s : State) (p : Nat) (f : Partition → Partition) : (s.onPart p f).focus = s.focus := rfl
@[simp] theorem State.onPart_cur (s : State) (p : Nat) (f : Partition → Partition) : (s.onPart p f).cur = s.cur := rfl
@[simp] theorem State.onPart_cores (s : State) (p : Nat) (f : Partition → Partition) : (s.onPart p f).cores = s.cores := rfl
@[simp] theorem State.onPart_slices (s : State) (p : Nat) (f : Partition → Partition) : (s.onPart p f).slices = s.slices := rfl
@[simp] theorem State.onPart_banks (s : State) (p : Nat) (f : Partition → Partition) : (s.onPart p f).banks = s.banks := rfl
@[simp] theorem State.onPart_ports (s : State) (p : Nat) (f : Partition → Partition) : (s.onPart p f).ports = s.ports := rfl
@[simp] theorem State.onPart_funcs (s : State) (p : Nat) (f : Partition → Partition) : (s.onPart p f).funcs = s.funcs := rfl
@[simp] theorem State.onPart_launches (s : State) (p : Nat) (f : Partition → Partition) : (s.onPart p f).launches = s.launches := rfl
@[simp] theorem State.onPart_nextLaunch (s : State) (p : Nat) (f : Partition → Partition) : (s.onPart p f).nextLaunch = s.nextLaunch := rfl
@[simp] theorem State.onPart_granq (s : State) (p : Nat) (f : Partition → Partition) : (s.onPart p f).granq = s.granq := rfl
@[simp] theorem State.onPart_commits (s : State) (p : Nat) (f : Partition → Partition) : (s.onPart p f).commits = s.commits := rfl
@[simp] theorem State.onPart_nextTx (s : State) (p : Nat) (f : Partition → Partition) : (s.onPart p f).nextTx = s.nextTx := rfl
@[simp] theorem State.onPart_mem (s : State) (p : Nat) (f : Partition → Partition) : (s.onPart p f).mem = s.mem := rfl
@[simp] theorem State.onPart_poison (s : State) (p : Nat) (f : Partition → Partition) : (s.onPart p f).poison = s.poison := rfl
@[simp] theorem State.onPart_metas (s : State) (p : Nat) (f : Partition → Partition) : (s.onPart p f).metas = s.metas := rfl
@[simp] theorem State.onPart_frames (s : State) (p : Nat) (f : Partition → Partition) : (s.onPart p f).frames = s.frames := rfl
@[simp] theorem State.onPart_latent (s : State) (p : Nat) (f : Partition → Partition) : (s.onPart p f).latent = s.latent := rfl
@[simp] theorem State.onPart_tier (s : State) (p : Nat) (f : Partition → Partition) : (s.onPart p f).tier = s.tier := rfl
@[simp] theorem State.onPart_tierHdr (s : State) (p : Nat) (f : Partition → Partition) : (s.onPart p f).tierHdr = s.tierHdr := rfl
@[simp] theorem State.onPart_cxlFailed (s : State) (p : Nat) (f : Partition → Partition) : (s.onPart p f).cxlFailed = s.cxlFailed := rfl
@[simp] theorem State.onPart_health (s : State) (p : Nat) (f : Partition → Partition) : (s.onPart p f).health = s.health := rfl
@[simp] theorem State.onPart_healthLog (s : State) (p : Nat) (f : Partition → Partition) : (s.onPart p f).healthLog = s.healthLog := rfl
@[simp] theorem State.onPart_crashes (s : State) (p : Nat) (f : Partition → Partition) : (s.onPart p f).crashes = s.crashes := rfl
@[simp] theorem State.onPart_lostUnits (s : State) (p : Nat) (f : Partition → Partition) : (s.onPart p f).lostUnits = s.lostUnits := rfl
@[simp] theorem State.onPart_rootUp (s : State) (p : Nat) (f : Partition → Partition) : (s.onPart p f).rootUp = s.rootUp := rfl
@[simp] theorem State.onPart_rootSince (s : State) (p : Nat) (f : Partition → Partition) : (s.onPart p f).rootSince = s.rootSince := rfl
@[simp] theorem State.onPart_boot (s : State) (p : Nat) (f : Partition → Partition) : (s.onPart p f).boot = s.boot := rfl
@[simp] theorem State.onPart_fuses (s : State) (p : Nat) (f : Partition → Partition) : (s.onPart p f).fuses = s.fuses := rfl
@[simp] theorem State.onPart_pod (s : State) (p : Nat) (f : Partition → Partition) : (s.onPart p f).pod = s.pod := rfl
@[simp] theorem State.onPart_mgmt (s : State) (p : Nat) (f : Partition → Partition) : (s.onPart p f).mgmt = s.mgmt := rfl
@[simp] theorem State.onPart_packageIdx (s : State) (p : Nat) (f : Partition → Partition) : (s.onPart p f).packageIdx = s.packageIdx := rfl

/-! ## State.onFunc -/

@[simp] theorem State.onFunc_gtc (s : State) (k : Nat) (f : Function → Function) : (s.onFunc k f).gtc = s.gtc := rfl
@[simp] theorem State.onFunc_phase (s : State) (k : Nat) (f : Function → Function) : (s.onFunc k f).phase = s.phase := rfl
@[simp] theorem State.onFunc_freeCount (s : State) (k : Nat) (f : Function → Function) : (s.onFunc k f).freeCount = s.freeCount := rfl
@[simp] theorem State.onFunc_agenda (s : State) (k : Nat) (f : Function → Function) : (s.onFunc k f).agenda = s.agenda := rfl
@[simp] theorem State.onFunc_regWrites (s : State) (k : Nat) (f : Function → Function) : (s.onFunc k f).regWrites = s.regWrites := rfl
@[simp] theorem State.onFunc_focus (s : State) (k : Nat) (f : Function → Function) : (s.onFunc k f).focus = s.focus := rfl
@[simp] theorem State.onFunc_cur (s : State) (k : Nat) (f : Function → Function) : (s.onFunc k f).cur = s.cur := rfl
@[simp] theorem State.onFunc_cores (s : State) (k : Nat) (f : Function → Function) : (s.onFunc k f).cores = s.cores := rfl
@[simp] theorem State.onFunc_slices (s : State) (k : Nat) (f : Function → Function) : (s.onFunc k f).slices = s.slices := rfl
@[simp] theorem State.onFunc_banks (s : State) (k : Nat) (f : Function → Function) : (s.onFunc k f).banks = s.banks := rfl
@[simp] theorem State.onFunc_ports (s : State) (k : Nat) (f : Function → Function) : (s.onFunc k f).ports = s.ports := rfl
@[simp] theorem State.onFunc_parts (s : State) (k : Nat) (f : Function → Function) : (s.onFunc k f).parts = s.parts := rfl
@[simp] theorem State.onFunc_launches (s : State) (k : Nat) (f : Function → Function) : (s.onFunc k f).launches = s.launches := rfl
@[simp] theorem State.onFunc_nextLaunch (s : State) (k : Nat) (f : Function → Function) : (s.onFunc k f).nextLaunch = s.nextLaunch := rfl
@[simp] theorem State.onFunc_granq (s : State) (k : Nat) (f : Function → Function) : (s.onFunc k f).granq = s.granq := rfl
@[simp] theorem State.onFunc_commits (s : State) (k : Nat) (f : Function → Function) : (s.onFunc k f).commits = s.commits := rfl
@[simp] theorem State.onFunc_nextTx (s : State) (k : Nat) (f : Function → Function) : (s.onFunc k f).nextTx = s.nextTx := rfl
@[simp] theorem State.onFunc_mem (s : State) (k : Nat) (f : Function → Function) : (s.onFunc k f).mem = s.mem := rfl
@[simp] theorem State.onFunc_poison (s : State) (k : Nat) (f : Function → Function) : (s.onFunc k f).poison = s.poison := rfl
@[simp] theorem State.onFunc_metas (s : State) (k : Nat) (f : Function → Function) : (s.onFunc k f).metas = s.metas := rfl
@[simp] theorem State.onFunc_frames (s : State) (k : Nat) (f : Function → Function) : (s.onFunc k f).frames = s.frames := rfl
@[simp] theorem State.onFunc_latent (s : State) (k : Nat) (f : Function → Function) : (s.onFunc k f).latent = s.latent := rfl
@[simp] theorem State.onFunc_tier (s : State) (k : Nat) (f : Function → Function) : (s.onFunc k f).tier = s.tier := rfl
@[simp] theorem State.onFunc_tierHdr (s : State) (k : Nat) (f : Function → Function) : (s.onFunc k f).tierHdr = s.tierHdr := rfl
@[simp] theorem State.onFunc_cxlFailed (s : State) (k : Nat) (f : Function → Function) : (s.onFunc k f).cxlFailed = s.cxlFailed := rfl
@[simp] theorem State.onFunc_health (s : State) (k : Nat) (f : Function → Function) : (s.onFunc k f).health = s.health := rfl
@[simp] theorem State.onFunc_healthLog (s : State) (k : Nat) (f : Function → Function) : (s.onFunc k f).healthLog = s.healthLog := rfl
@[simp] theorem State.onFunc_crashes (s : State) (k : Nat) (f : Function → Function) : (s.onFunc k f).crashes = s.crashes := rfl
@[simp] theorem State.onFunc_lostUnits (s : State) (k : Nat) (f : Function → Function) : (s.onFunc k f).lostUnits = s.lostUnits := rfl
@[simp] theorem State.onFunc_rootUp (s : State) (k : Nat) (f : Function → Function) : (s.onFunc k f).rootUp = s.rootUp := rfl
@[simp] theorem State.onFunc_rootSince (s : State) (k : Nat) (f : Function → Function) : (s.onFunc k f).rootSince = s.rootSince := rfl
@[simp] theorem State.onFunc_boot (s : State) (k : Nat) (f : Function → Function) : (s.onFunc k f).boot = s.boot := rfl
@[simp] theorem State.onFunc_fuses (s : State) (k : Nat) (f : Function → Function) : (s.onFunc k f).fuses = s.fuses := rfl
@[simp] theorem State.onFunc_pod (s : State) (k : Nat) (f : Function → Function) : (s.onFunc k f).pod = s.pod := rfl
@[simp] theorem State.onFunc_mgmt (s : State) (k : Nat) (f : Function → Function) : (s.onFunc k f).mgmt = s.mgmt := rfl
@[simp] theorem State.onFunc_packageIdx (s : State) (k : Nat) (f : Function → Function) : (s.onFunc k f).packageIdx = s.packageIdx := rfl

/-! ## State.onBank -/

@[simp] theorem State.onBank_gtc (s : State) (b : Nat) (f : Bank → Bank) : (s.onBank b f).gtc = s.gtc := rfl
@[simp] theorem State.onBank_phase (s : State) (b : Nat) (f : Bank → Bank) : (s.onBank b f).phase = s.phase := rfl
@[simp] theorem State.onBank_freeCount (s : State) (b : Nat) (f : Bank → Bank) : (s.onBank b f).freeCount = s.freeCount := rfl
@[simp] theorem State.onBank_agenda (s : State) (b : Nat) (f : Bank → Bank) : (s.onBank b f).agenda = s.agenda := rfl
@[simp] theorem State.onBank_regWrites (s : State) (b : Nat) (f : Bank → Bank) : (s.onBank b f).regWrites = s.regWrites := rfl
@[simp] theorem State.onBank_focus (s : State) (b : Nat) (f : Bank → Bank) : (s.onBank b f).focus = s.focus := rfl
@[simp] theorem State.onBank_cur (s : State) (b : Nat) (f : Bank → Bank) : (s.onBank b f).cur = s.cur := rfl
@[simp] theorem State.onBank_cores (s : State) (b : Nat) (f : Bank → Bank) : (s.onBank b f).cores = s.cores := rfl
@[simp] theorem State.onBank_slices (s : State) (b : Nat) (f : Bank → Bank) : (s.onBank b f).slices = s.slices := rfl
@[simp] theorem State.onBank_ports (s : State) (b : Nat) (f : Bank → Bank) : (s.onBank b f).ports = s.ports := rfl
@[simp] theorem State.onBank_parts (s : State) (b : Nat) (f : Bank → Bank) : (s.onBank b f).parts = s.parts := rfl
@[simp] theorem State.onBank_funcs (s : State) (b : Nat) (f : Bank → Bank) : (s.onBank b f).funcs = s.funcs := rfl
@[simp] theorem State.onBank_launches (s : State) (b : Nat) (f : Bank → Bank) : (s.onBank b f).launches = s.launches := rfl
@[simp] theorem State.onBank_nextLaunch (s : State) (b : Nat) (f : Bank → Bank) : (s.onBank b f).nextLaunch = s.nextLaunch := rfl
@[simp] theorem State.onBank_granq (s : State) (b : Nat) (f : Bank → Bank) : (s.onBank b f).granq = s.granq := rfl
@[simp] theorem State.onBank_commits (s : State) (b : Nat) (f : Bank → Bank) : (s.onBank b f).commits = s.commits := rfl
@[simp] theorem State.onBank_nextTx (s : State) (b : Nat) (f : Bank → Bank) : (s.onBank b f).nextTx = s.nextTx := rfl
@[simp] theorem State.onBank_mem (s : State) (b : Nat) (f : Bank → Bank) : (s.onBank b f).mem = s.mem := rfl
@[simp] theorem State.onBank_poison (s : State) (b : Nat) (f : Bank → Bank) : (s.onBank b f).poison = s.poison := rfl
@[simp] theorem State.onBank_metas (s : State) (b : Nat) (f : Bank → Bank) : (s.onBank b f).metas = s.metas := rfl
@[simp] theorem State.onBank_frames (s : State) (b : Nat) (f : Bank → Bank) : (s.onBank b f).frames = s.frames := rfl
@[simp] theorem State.onBank_latent (s : State) (b : Nat) (f : Bank → Bank) : (s.onBank b f).latent = s.latent := rfl
@[simp] theorem State.onBank_tier (s : State) (b : Nat) (f : Bank → Bank) : (s.onBank b f).tier = s.tier := rfl
@[simp] theorem State.onBank_tierHdr (s : State) (b : Nat) (f : Bank → Bank) : (s.onBank b f).tierHdr = s.tierHdr := rfl
@[simp] theorem State.onBank_cxlFailed (s : State) (b : Nat) (f : Bank → Bank) : (s.onBank b f).cxlFailed = s.cxlFailed := rfl
@[simp] theorem State.onBank_health (s : State) (b : Nat) (f : Bank → Bank) : (s.onBank b f).health = s.health := rfl
@[simp] theorem State.onBank_healthLog (s : State) (b : Nat) (f : Bank → Bank) : (s.onBank b f).healthLog = s.healthLog := rfl
@[simp] theorem State.onBank_crashes (s : State) (b : Nat) (f : Bank → Bank) : (s.onBank b f).crashes = s.crashes := rfl
@[simp] theorem State.onBank_lostUnits (s : State) (b : Nat) (f : Bank → Bank) : (s.onBank b f).lostUnits = s.lostUnits := rfl
@[simp] theorem State.onBank_rootUp (s : State) (b : Nat) (f : Bank → Bank) : (s.onBank b f).rootUp = s.rootUp := rfl
@[simp] theorem State.onBank_rootSince (s : State) (b : Nat) (f : Bank → Bank) : (s.onBank b f).rootSince = s.rootSince := rfl
@[simp] theorem State.onBank_boot (s : State) (b : Nat) (f : Bank → Bank) : (s.onBank b f).boot = s.boot := rfl
@[simp] theorem State.onBank_fuses (s : State) (b : Nat) (f : Bank → Bank) : (s.onBank b f).fuses = s.fuses := rfl
@[simp] theorem State.onBank_pod (s : State) (b : Nat) (f : Bank → Bank) : (s.onBank b f).pod = s.pod := rfl
@[simp] theorem State.onBank_mgmt (s : State) (b : Nat) (f : Bank → Bank) : (s.onBank b f).mgmt = s.mgmt := rfl
@[simp] theorem State.onBank_packageIdx (s : State) (b : Nat) (f : Bank → Bank) : (s.onBank b f).packageIdx = s.packageIdx := rfl

/-! ## State.onFrame -/

@[simp] theorem State.onFrame_gtc (s : State) (k : Nat) (f : Frame → Frame) : (s.onFrame k f).gtc = s.gtc := rfl
@[simp] theorem State.onFrame_phase (s : State) (k : Nat) (f : Frame → Frame) : (s.onFrame k f).phase = s.phase := rfl
@[simp] theorem State.onFrame_freeCount (s : State) (k : Nat) (f : Frame → Frame) : (s.onFrame k f).freeCount = s.freeCount := rfl
@[simp] theorem State.onFrame_agenda (s : State) (k : Nat) (f : Frame → Frame) : (s.onFrame k f).agenda = s.agenda := rfl
@[simp] theorem State.onFrame_regWrites (s : State) (k : Nat) (f : Frame → Frame) : (s.onFrame k f).regWrites = s.regWrites := rfl
@[simp] theorem State.onFrame_focus (s : State) (k : Nat) (f : Frame → Frame) : (s.onFrame k f).focus = s.focus := rfl
@[simp] theorem State.onFrame_cur (s : State) (k : Nat) (f : Frame → Frame) : (s.onFrame k f).cur = s.cur := rfl
@[simp] theorem State.onFrame_cores (s : State) (k : Nat) (f : Frame → Frame) : (s.onFrame k f).cores = s.cores := rfl
@[simp] theorem State.onFrame_slices (s : State) (k : Nat) (f : Frame → Frame) : (s.onFrame k f).slices = s.slices := rfl
@[simp] theorem State.onFrame_banks (s : State) (k : Nat) (f : Frame → Frame) : (s.onFrame k f).banks = s.banks := rfl
@[simp] theorem State.onFrame_ports (s : State) (k : Nat) (f : Frame → Frame) : (s.onFrame k f).ports = s.ports := rfl
@[simp] theorem State.onFrame_parts (s : State) (k : Nat) (f : Frame → Frame) : (s.onFrame k f).parts = s.parts := rfl
@[simp] theorem State.onFrame_funcs (s : State) (k : Nat) (f : Frame → Frame) : (s.onFrame k f).funcs = s.funcs := rfl
@[simp] theorem State.onFrame_launches (s : State) (k : Nat) (f : Frame → Frame) : (s.onFrame k f).launches = s.launches := rfl
@[simp] theorem State.onFrame_nextLaunch (s : State) (k : Nat) (f : Frame → Frame) : (s.onFrame k f).nextLaunch = s.nextLaunch := rfl
@[simp] theorem State.onFrame_granq (s : State) (k : Nat) (f : Frame → Frame) : (s.onFrame k f).granq = s.granq := rfl
@[simp] theorem State.onFrame_commits (s : State) (k : Nat) (f : Frame → Frame) : (s.onFrame k f).commits = s.commits := rfl
@[simp] theorem State.onFrame_nextTx (s : State) (k : Nat) (f : Frame → Frame) : (s.onFrame k f).nextTx = s.nextTx := rfl
@[simp] theorem State.onFrame_mem (s : State) (k : Nat) (f : Frame → Frame) : (s.onFrame k f).mem = s.mem := rfl
@[simp] theorem State.onFrame_poison (s : State) (k : Nat) (f : Frame → Frame) : (s.onFrame k f).poison = s.poison := rfl
@[simp] theorem State.onFrame_metas (s : State) (k : Nat) (f : Frame → Frame) : (s.onFrame k f).metas = s.metas := rfl
@[simp] theorem State.onFrame_latent (s : State) (k : Nat) (f : Frame → Frame) : (s.onFrame k f).latent = s.latent := rfl
@[simp] theorem State.onFrame_tier (s : State) (k : Nat) (f : Frame → Frame) : (s.onFrame k f).tier = s.tier := rfl
@[simp] theorem State.onFrame_tierHdr (s : State) (k : Nat) (f : Frame → Frame) : (s.onFrame k f).tierHdr = s.tierHdr := rfl
@[simp] theorem State.onFrame_cxlFailed (s : State) (k : Nat) (f : Frame → Frame) : (s.onFrame k f).cxlFailed = s.cxlFailed := rfl
@[simp] theorem State.onFrame_health (s : State) (k : Nat) (f : Frame → Frame) : (s.onFrame k f).health = s.health := rfl
@[simp] theorem State.onFrame_healthLog (s : State) (k : Nat) (f : Frame → Frame) : (s.onFrame k f).healthLog = s.healthLog := rfl
@[simp] theorem State.onFrame_crashes (s : State) (k : Nat) (f : Frame → Frame) : (s.onFrame k f).crashes = s.crashes := rfl
@[simp] theorem State.onFrame_lostUnits (s : State) (k : Nat) (f : Frame → Frame) : (s.onFrame k f).lostUnits = s.lostUnits := rfl
@[simp] theorem State.onFrame_rootUp (s : State) (k : Nat) (f : Frame → Frame) : (s.onFrame k f).rootUp = s.rootUp := rfl
@[simp] theorem State.onFrame_rootSince (s : State) (k : Nat) (f : Frame → Frame) : (s.onFrame k f).rootSince = s.rootSince := rfl
@[simp] theorem State.onFrame_boot (s : State) (k : Nat) (f : Frame → Frame) : (s.onFrame k f).boot = s.boot := rfl
@[simp] theorem State.onFrame_fuses (s : State) (k : Nat) (f : Frame → Frame) : (s.onFrame k f).fuses = s.fuses := rfl
@[simp] theorem State.onFrame_pod (s : State) (k : Nat) (f : Frame → Frame) : (s.onFrame k f).pod = s.pod := rfl
@[simp] theorem State.onFrame_mgmt (s : State) (k : Nat) (f : Frame → Frame) : (s.onFrame k f).mgmt = s.mgmt := rfl
@[simp] theorem State.onFrame_packageIdx (s : State) (k : Nat) (f : Frame → Frame) : (s.onFrame k f).packageIdx = s.packageIdx := rfl

/-! ## State.tick -/

@[simp] theorem State.tick_phase (s : State) (n : Nat) : (s.tick n).phase = s.phase := rfl
@[simp] theorem State.tick_freeCount (s : State) (n : Nat) : (s.tick n).freeCount = s.freeCount := rfl
@[simp] theorem State.tick_agenda (s : State) (n : Nat) : (s.tick n).agenda = s.agenda := rfl
@[simp] theorem State.tick_regWrites (s : State) (n : Nat) : (s.tick n).regWrites = s.regWrites := rfl
@[simp] theorem State.tick_focus (s : State) (n : Nat) : (s.tick n).focus = s.focus := rfl
@[simp] theorem State.tick_cur (s : State) (n : Nat) : (s.tick n).cur = s.cur := rfl
@[simp] theorem State.tick_cores (s : State) (n : Nat) : (s.tick n).cores = s.cores := rfl
@[simp] theorem State.tick_slices (s : State) (n : Nat) : (s.tick n).slices = s.slices := rfl
@[simp] theorem State.tick_banks (s : State) (n : Nat) : (s.tick n).banks = s.banks := rfl
@[simp] theorem State.tick_ports (s : State) (n : Nat) : (s.tick n).ports = s.ports := rfl
@[simp] theorem State.tick_parts (s : State) (n : Nat) : (s.tick n).parts = s.parts := rfl
@[simp] theorem State.tick_funcs (s : State) (n : Nat) : (s.tick n).funcs = s.funcs := rfl
@[simp] theorem State.tick_launches (s : State) (n : Nat) : (s.tick n).launches = s.launches := rfl
@[simp] theorem State.tick_nextLaunch (s : State) (n : Nat) : (s.tick n).nextLaunch = s.nextLaunch := rfl
@[simp] theorem State.tick_granq (s : State) (n : Nat) : (s.tick n).granq = s.granq := rfl
@[simp] theorem State.tick_commits (s : State) (n : Nat) : (s.tick n).commits = s.commits := rfl
@[simp] theorem State.tick_nextTx (s : State) (n : Nat) : (s.tick n).nextTx = s.nextTx := rfl
@[simp] theorem State.tick_mem (s : State) (n : Nat) : (s.tick n).mem = s.mem := rfl
@[simp] theorem State.tick_poison (s : State) (n : Nat) : (s.tick n).poison = s.poison := rfl
@[simp] theorem State.tick_metas (s : State) (n : Nat) : (s.tick n).metas = s.metas := rfl
@[simp] theorem State.tick_frames (s : State) (n : Nat) : (s.tick n).frames = s.frames := rfl
@[simp] theorem State.tick_latent (s : State) (n : Nat) : (s.tick n).latent = s.latent := rfl
@[simp] theorem State.tick_tier (s : State) (n : Nat) : (s.tick n).tier = s.tier := rfl
@[simp] theorem State.tick_tierHdr (s : State) (n : Nat) : (s.tick n).tierHdr = s.tierHdr := rfl
@[simp] theorem State.tick_cxlFailed (s : State) (n : Nat) : (s.tick n).cxlFailed = s.cxlFailed := rfl
@[simp] theorem State.tick_health (s : State) (n : Nat) : (s.tick n).health = s.health := rfl
@[simp] theorem State.tick_healthLog (s : State) (n : Nat) : (s.tick n).healthLog = s.healthLog := rfl
@[simp] theorem State.tick_crashes (s : State) (n : Nat) : (s.tick n).crashes = s.crashes := rfl
@[simp] theorem State.tick_lostUnits (s : State) (n : Nat) : (s.tick n).lostUnits = s.lostUnits := rfl
@[simp] theorem State.tick_rootUp (s : State) (n : Nat) : (s.tick n).rootUp = s.rootUp := rfl
@[simp] theorem State.tick_rootSince (s : State) (n : Nat) : (s.tick n).rootSince = s.rootSince := rfl
@[simp] theorem State.tick_boot (s : State) (n : Nat) : (s.tick n).boot = s.boot := rfl
@[simp] theorem State.tick_fuses (s : State) (n : Nat) : (s.tick n).fuses = s.fuses := rfl
@[simp] theorem State.tick_pod (s : State) (n : Nat) : (s.tick n).pod = s.pod := rfl
@[simp] theorem State.tick_mgmt (s : State) (n : Nat) : (s.tick n).mgmt = s.mgmt := rfl
@[simp] theorem State.tick_packageIdx (s : State) (n : Nat) : (s.tick n).packageIdx = s.packageIdx := rfl

/-! ## Core.onStripe -/

@[simp] theorem Core.onStripe_quads (c : Core) (i : Nat) (f : Stripe → Stripe) : (c.onStripe i f).quads = c.quads := rfl
@[simp] theorem Core.onStripe_failed (c : Core) (i : Nat) (f : Stripe → Stripe) : (c.onStripe i f).failed = c.failed := rfl
@[simp] theorem Core.onStripe_world (c : Core) (i : Nat) (f : Stripe → Stripe) : (c.onStripe i f).world = c.world := rfl
@[simp] theorem Core.onStripe_latching (c : Core) (i : Nat) (f : Stripe → Stripe) : (c.onStripe i f).latching = c.latching := rfl
@[simp] theorem Core.onStripe_latchBy (c : Core) (i : Nat) (f : Stripe → Stripe) : (c.onStripe i f).latchBy = c.latchBy := rfl
@[simp] theorem Core.onStripe_latchAt (c : Core) (i : Nat) (f : Stripe → Stripe) : (c.onStripe i f).latchAt = c.latchAt := rfl
@[simp] theorem Core.onStripe_team (c : Core) (i : Nat) (f : Stripe → Stripe) : (c.onStripe i f).team = c.team := rfl
@[simp] theorem Core.onStripe_freedFor (c : Core) (i : Nat) (f : Stripe → Stripe) : (c.onStripe i f).freedFor = c.freedFor := rfl
@[simp] theorem Core.onStripe_ctx (c : Core) (i : Nat) (f : Stripe → Stripe) : (c.onStripe i f).ctx = c.ctx := rfl
@[simp] theorem Core.onStripe_ptb (c : Core) (i : Nat) (f : Stripe → Stripe) : (c.onStripe i f).ptb = c.ptb := rfl
@[simp] theorem Core.onStripe_kown (c : Core) (i : Nat) (f : Stripe → Stripe) : (c.onStripe i f).kown = c.kown := rfl
@[simp] theorem Core.onStripe_kdirty (c : Core) (i : Nat) (f : Stripe → Stripe) : (c.onStripe i f).kdirty = c.kdirty := rfl
@[simp] theorem Core.onStripe_bmode (c : Core) (i : Nat) (f : Stripe → Stripe) : (c.onStripe i f).bmode = c.bmode := rfl
@[simp] theorem Core.onStripe_clearing (c : Core) (i : Nat) (f : Stripe → Stripe) : (c.onStripe i f).clearing = c.clearing := rfl
@[simp] theorem Core.onStripe_clearAt (c : Core) (i : Nat) (f : Stripe → Stripe) : (c.onStripe i f).clearAt = c.clearAt := rfl
@[simp] theorem Core.onStripe_leaving (c : Core) (i : Nat) (f : Stripe → Stripe) : (c.onStripe i f).leaving = c.leaving := rfl
@[simp] theorem Core.onStripe_cbase (c : Core) (i : Nat) (f : Stripe → Stripe) : (c.onStripe i f).cbase = c.cbase := rfl
@[simp] theorem Core.onStripe_xrec (c : Core) (i : Nat) (f : Stripe → Stripe) : (c.onStripe i f).xrec = c.xrec := rfl
@[simp] theorem Core.onStripe_cbaseH (c : Core) (i : Nat) (f : Stripe → Stripe) : (c.onStripe i f).cbaseH = c.cbaseH := rfl
@[simp] theorem Core.onStripe_xrecH (c : Core) (i : Nat) (f : Stripe → Stripe) : (c.onStripe i f).xrecH = c.xrecH := rfl
@[simp] theorem Core.onStripe_ejt (c : Core) (i : Nat) (f : Stripe → Stripe) : (c.onStripe i f).ejt = c.ejt := rfl
@[simp] theorem Core.onStripe_ejto (c : Core) (i : Nat) (f : Stripe → Stripe) : (c.onStripe i f).ejto = c.ejto := rfl
@[simp] theorem Core.onStripe_sram (c : Core) (i : Nat) (f : Stripe → Stripe) : (c.onStripe i f).sram = c.sram := rfl
@[simp] theorem Core.onStripe_fbits (c : Core) (i : Nat) (f : Stripe → Stripe) : (c.onStripe i f).fbits = c.fbits := rfl
@[simp] theorem Core.onStripe_pbits (c : Core) (i : Nat) (f : Stripe → Stripe) : (c.onStripe i f).pbits = c.pbits := rfl
@[simp] theorem Core.onStripe_till (c : Core) (i : Nat) (f : Stripe → Stripe) : (c.onStripe i f).till = c.till := rfl
@[simp] theorem Core.onStripe_lines (c : Core) (i : Nat) (f : Stripe → Stripe) : (c.onStripe i f).lines = c.lines := rfl
@[simp] theorem Core.onStripe_consts (c : Core) (i : Nat) (f : Stripe → Stripe) : (c.onStripe i f).consts = c.consts := rfl
@[simp] theorem Core.onStripe_tlb (c : Core) (i : Nat) (f : Stripe → Stripe) : (c.onStripe i f).tlb = c.tlb := rfl
@[simp] theorem Core.onStripe_quadTlb (c : Core) (i : Nat) (f : Stripe → Stripe) : (c.onStripe i f).quadTlb = c.quadTlb := rfl
@[simp] theorem Core.onStripe_walkAhead (c : Core) (i : Nat) (f : Stripe → Stripe) : (c.onStripe i f).walkAhead = c.walkAhead := rfl
@[simp] theorem Core.onStripe_walkCache (c : Core) (i : Nat) (f : Stripe → Stripe) : (c.onStripe i f).walkCache = c.walkCache := rfl
@[simp] theorem Core.onStripe_outq (c : Core) (i : Nat) (f : Stripe → Stripe) : (c.onStripe i f).outq = c.outq := rfl
@[simp] theorem Core.onStripe_params (c : Core) (i : Nat) (f : Stripe → Stripe) : (c.onStripe i f).params = c.params := rfl
@[simp] theorem Core.onStripe_stage (c : Core) (i : Nat) (f : Stripe → Stripe) : (c.onStripe i f).stage = c.stage := rfl
@[simp] theorem Core.onStripe_stageTag (c : Core) (i : Nat) (f : Stripe → Stripe) : (c.onStripe i f).stageTag = c.stageTag := rfl
@[simp] theorem Core.onStripe_stageLast (c : Core) (i : Nat) (f : Stripe → Stripe) : (c.onStripe i f).stageLast = c.stageLast := rfl
@[simp] theorem Core.onStripe_stageWait (c : Core) (i : Nat) (f : Stripe → Stripe) : (c.onStripe i f).stageWait = c.stageWait := rfl
@[simp] theorem Core.onStripe_barrowWait (c : Core) (i : Nat) (f : Stripe → Stripe) : (c.onStripe i f).barrowWait = c.barrowWait := rfl
@[simp] theorem Core.onStripe_matrix (c : Core) (i : Nat) (f : Stripe → Stripe) : (c.onStripe i f).matrix = c.matrix := rfl
@[simp] theorem Core.onStripe_barriers (c : Core) (i : Nat) (f : Stripe → Stripe) : (c.onStripe i f).barriers = c.barriers := rfl
@[simp] theorem Core.onStripe_rings (c : Core) (i : Nat) (f : Stripe → Stripe) : (c.onStripe i f).rings = c.rings := rfl
@[simp] theorem Core.onStripe_gangs (c : Core) (i : Nat) (f : Stripe → Stripe) : (c.onStripe i f).gangs = c.gangs := rfl
@[simp] theorem Core.onStripe_takes (c : Core) (i : Nat) (f : Stripe → Stripe) : (c.onStripe i f).takes = c.takes := rfl
@[simp] theorem Core.onStripe_chans (c : Core) (i : Nat) (f : Stripe → Stripe) : (c.onStripe i f).chans = c.chans := rfl
@[simp] theorem Core.onStripe_promos (c : Core) (i : Nat) (f : Stripe → Stripe) : (c.onStripe i f).promos = c.promos := rfl
@[simp] theorem Core.onStripe_invals (c : Core) (i : Nat) (f : Stripe → Stripe) : (c.onStripe i f).invals = c.invals := rfl
@[simp] theorem Core.onStripe_guests (c : Core) (i : Nat) (f : Stripe → Stripe) : (c.onStripe i f).guests = c.guests := rfl
@[simp] theorem Core.onStripe_nextId (c : Core) (i : Nat) (f : Stripe → Stripe) : (c.onStripe i f).nextId = c.nextId := rfl

/-! ## Stripe.onLane -/

@[simp] theorem Stripe.onLane_role (t : Stripe) (l : Nat) (f : Thread → Thread) : (t.onLane l f).role = t.role := rfl
@[simp] theorem Stripe.onLane_counters (t : Stripe) (l : Nat) (f : Thread → Thread) : (t.onLane l f).counters = t.counters := rfl
@[simp] theorem Stripe.onLane_join (t : Stripe) (l : Nat) (f : Thread → Thread) : (t.onLane l f).join = t.join := rfl
@[simp] theorem Stripe.onLane_serial (t : Stripe) (l : Nat) (f : Thread → Thread) : (t.onLane l f).serial = t.serial := rfl
@[simp] theorem Stripe.onLane_xin (t : Stripe) (l : Nat) (f : Thread → Thread) : (t.onLane l f).xin = t.xin := rfl
@[simp] theorem Stripe.onLane_xgroup (t : Stripe) (l : Nat) (f : Thread → Thread) : (t.onLane l f).xgroup = t.xgroup := rfl
@[simp] theorem Stripe.onLane_xback (t : Stripe) (l : Nat) (f : Thread → Thread) : (t.onLane l f).xback = t.xback := rfl
@[simp] theorem Stripe.onLane_seq (t : Stripe) (l : Nat) (f : Thread → Thread) : (t.onLane l f).seq = t.seq := rfl
@[simp] theorem Stripe.onLane_parked (t : Stripe) (l : Nat) (f : Thread → Thread) : (t.onLane l f).parked = t.parked := rfl
@[simp] theorem Stripe.onLane_wait (t : Stripe) (l : Nat) (f : Thread → Thread) : (t.onLane l f).wait = t.wait := rfl

/-! ## Stripe.mapLanes -/

@[simp] theorem Stripe.mapLanes_role (t : Stripe) (f : Nat → Thread → Thread) : (t.mapLanes f).role = t.role := rfl
@[simp] theorem Stripe.mapLanes_counters (t : Stripe) (f : Nat → Thread → Thread) : (t.mapLanes f).counters = t.counters := rfl
@[simp] theorem Stripe.mapLanes_join (t : Stripe) (f : Nat → Thread → Thread) : (t.mapLanes f).join = t.join := rfl
@[simp] theorem Stripe.mapLanes_serial (t : Stripe) (f : Nat → Thread → Thread) : (t.mapLanes f).serial = t.serial := rfl
@[simp] theorem Stripe.mapLanes_xin (t : Stripe) (f : Nat → Thread → Thread) : (t.mapLanes f).xin = t.xin := rfl
@[simp] theorem Stripe.mapLanes_xgroup (t : Stripe) (f : Nat → Thread → Thread) : (t.mapLanes f).xgroup = t.xgroup := rfl
@[simp] theorem Stripe.mapLanes_xback (t : Stripe) (f : Nat → Thread → Thread) : (t.mapLanes f).xback = t.xback := rfl
@[simp] theorem Stripe.mapLanes_seq (t : Stripe) (f : Nat → Thread → Thread) : (t.mapLanes f).seq = t.seq := rfl
@[simp] theorem Stripe.mapLanes_parked (t : Stripe) (f : Nat → Thread → Thread) : (t.mapLanes f).parked = t.parked := rfl
@[simp] theorem Stripe.mapLanes_wait (t : Stripe) (f : Nat → Thread → Thread) : (t.mapLanes f).wait = t.wait := rfl

/-! ## Thread.setReg -/

@[simp] theorem Thread.setReg_status (t : Thread) (r : Nat) (v : Word) : (t.setReg r v).status = t.status := rfl
@[simp] theorem Thread.setReg_preds (t : Thread) (r : Nat) (v : Word) : (t.setReg r v).preds = t.preds := rfl
@[simp] theorem Thread.setReg_pc (t : Thread) (r : Nat) (v : Word) : (t.setReg r v).pc = t.pc := rfl
@[simp] theorem Thread.setReg_blocks (t : Thread) (r : Nat) (v : Word) : (t.setReg r v).blocks = t.blocks := rfl
@[simp] theorem Thread.setReg_gangs (t : Thread) (r : Nat) (v : Word) : (t.setReg r v).gangs = t.gangs := rfl
@[simp] theorem Thread.setReg_run (t : Thread) (r : Nat) (v : Word) : (t.setReg r v).run = t.run := rfl
@[simp] theorem Thread.setReg_begun (t : Thread) (r : Nat) (v : Word) : (t.setReg r v).begun = t.begun := rfl
@[simp] theorem Thread.setReg_lov (t : Thread) (r : Nat) (v : Word) : (t.setReg r v).lov = t.lov := rfl
@[simp] theorem Thread.setReg_priv (t : Thread) (r : Nat) (v : Word) : (t.setReg r v).priv = t.priv := rfl
@[simp] theorem Thread.setReg_ie (t : Thread) (r : Nat) (v : Word) : (t.setReg r v).ie = t.ie := rfl
@[simp] theorem Thread.setReg_pPriv (t : Thread) (r : Nat) (v : Word) : (t.setReg r v).pPriv = t.pPriv := rfl
@[simp] theorem Thread.setReg_dcode (t : Thread) (r : Nat) (v : Word) : (t.setReg r v).dcode = t.dcode := rfl
@[simp] theorem Thread.setReg_cause (t : Thread) (r : Nat) (v : Word) : (t.setReg r v).cause = t.cause := rfl
@[simp] theorem Thread.setReg_xpc (t : Thread) (r : Nat) (v : Word) : (t.setReg r v).xpc = t.xpc := rfl
@[simp] theorem Thread.setReg_txcause (t : Thread) (r : Nat) (v : Word) : (t.setReg r v).txcause = t.txcause := rfl
@[simp] theorem Thread.setReg_tx (t : Thread) (r : Nat) (v : Word) : (t.setReg r v).tx = t.tx := rfl
@[simp] theorem Thread.setReg_deferred (t : Thread) (r : Nat) (v : Word) : (t.setReg r v).deferred = t.deferred := rfl
@[simp] theorem Thread.setReg_world (t : Thread) (r : Nat) (v : Word) : (t.setReg r v).world = t.world := rfl
@[simp] theorem Thread.setReg_ctx (t : Thread) (r : Nat) (v : Word) : (t.setReg r v).ctx = t.ctx := rfl
@[simp] theorem Thread.setReg_ptb (t : Thread) (r : Nat) (v : Word) : (t.setReg r v).ptb = t.ptb := rfl
@[simp] theorem Thread.setReg_acquired (t : Thread) (r : Nat) (v : Word) : (t.setReg r v).acquired = t.acquired := rfl
@[simp] theorem Thread.setReg_done (t : Thread) (r : Nat) (v : Word) : (t.setReg r v).done = t.done := rfl

/-! ## Thread.mark -/

@[simp] theorem Thread.mark_status (t : Thread) (r : Nat) : (t.mark r).status = t.status := rfl
@[simp] theorem Thread.mark_g (t : Thread) (r : Nat) : (t.mark r).g = t.g := rfl
@[simp] theorem Thread.mark_preds (t : Thread) (r : Nat) : (t.mark r).preds = t.preds := rfl
@[simp] theorem Thread.mark_pc (t : Thread) (r : Nat) : (t.mark r).pc = t.pc := rfl
@[simp] theorem Thread.mark_blocks (t : Thread) (r : Nat) : (t.mark r).blocks = t.blocks := rfl
@[simp] theorem Thread.mark_gangs (t : Thread) (r : Nat) : (t.mark r).gangs = t.gangs := rfl
@[simp] theorem Thread.mark_run (t : Thread) (r : Nat) : (t.mark r).run = t.run := rfl
@[simp] theorem Thread.mark_begun (t : Thread) (r : Nat) : (t.mark r).begun = t.begun := rfl
@[simp] theorem Thread.mark_lov (t : Thread) (r : Nat) : (t.mark r).lov = t.lov := rfl
@[simp] theorem Thread.mark_priv (t : Thread) (r : Nat) : (t.mark r).priv = t.priv := rfl
@[simp] theorem Thread.mark_ie (t : Thread) (r : Nat) : (t.mark r).ie = t.ie := rfl
@[simp] theorem Thread.mark_pPriv (t : Thread) (r : Nat) : (t.mark r).pPriv = t.pPriv := rfl
@[simp] theorem Thread.mark_dcode (t : Thread) (r : Nat) : (t.mark r).dcode = t.dcode := rfl
@[simp] theorem Thread.mark_cause (t : Thread) (r : Nat) : (t.mark r).cause = t.cause := rfl
@[simp] theorem Thread.mark_xpc (t : Thread) (r : Nat) : (t.mark r).xpc = t.xpc := rfl
@[simp] theorem Thread.mark_txcause (t : Thread) (r : Nat) : (t.mark r).txcause = t.txcause := rfl
@[simp] theorem Thread.mark_tx (t : Thread) (r : Nat) : (t.mark r).tx = t.tx := rfl
@[simp] theorem Thread.mark_deferred (t : Thread) (r : Nat) : (t.mark r).deferred = t.deferred := rfl
@[simp] theorem Thread.mark_world (t : Thread) (r : Nat) : (t.mark r).world = t.world := rfl
@[simp] theorem Thread.mark_ctx (t : Thread) (r : Nat) : (t.mark r).ctx = t.ctx := rfl
@[simp] theorem Thread.mark_ptb (t : Thread) (r : Nat) : (t.mark r).ptb = t.ptb := rfl
@[simp] theorem Thread.mark_acquired (t : Thread) (r : Nat) : (t.mark r).acquired = t.acquired := rfl
@[simp] theorem Thread.mark_done (t : Thread) (r : Nat) : (t.mark r).done = t.done := rfl

/-! ## Thread.setPred -/

@[simp] theorem Thread.setPred_status (t : Thread) (p : Nat) (v : Bool) : (t.setPred p v).status = t.status := rfl
@[simp] theorem Thread.setPred_g (t : Thread) (p : Nat) (v : Bool) : (t.setPred p v).g = t.g := rfl
@[simp] theorem Thread.setPred_empty (t : Thread) (p : Nat) (v : Bool) : (t.setPred p v).empty = t.empty := rfl
@[simp] theorem Thread.setPred_pc (t : Thread) (p : Nat) (v : Bool) : (t.setPred p v).pc = t.pc := rfl
@[simp] theorem Thread.setPred_blocks (t : Thread) (p : Nat) (v : Bool) : (t.setPred p v).blocks = t.blocks := rfl
@[simp] theorem Thread.setPred_gangs (t : Thread) (p : Nat) (v : Bool) : (t.setPred p v).gangs = t.gangs := rfl
@[simp] theorem Thread.setPred_run (t : Thread) (p : Nat) (v : Bool) : (t.setPred p v).run = t.run := rfl
@[simp] theorem Thread.setPred_begun (t : Thread) (p : Nat) (v : Bool) : (t.setPred p v).begun = t.begun := rfl
@[simp] theorem Thread.setPred_lov (t : Thread) (p : Nat) (v : Bool) : (t.setPred p v).lov = t.lov := rfl
@[simp] theorem Thread.setPred_priv (t : Thread) (p : Nat) (v : Bool) : (t.setPred p v).priv = t.priv := rfl
@[simp] theorem Thread.setPred_ie (t : Thread) (p : Nat) (v : Bool) : (t.setPred p v).ie = t.ie := rfl
@[simp] theorem Thread.setPred_pPriv (t : Thread) (p : Nat) (v : Bool) : (t.setPred p v).pPriv = t.pPriv := rfl
@[simp] theorem Thread.setPred_dcode (t : Thread) (p : Nat) (v : Bool) : (t.setPred p v).dcode = t.dcode := rfl
@[simp] theorem Thread.setPred_cause (t : Thread) (p : Nat) (v : Bool) : (t.setPred p v).cause = t.cause := rfl
@[simp] theorem Thread.setPred_xpc (t : Thread) (p : Nat) (v : Bool) : (t.setPred p v).xpc = t.xpc := rfl
@[simp] theorem Thread.setPred_txcause (t : Thread) (p : Nat) (v : Bool) : (t.setPred p v).txcause = t.txcause := rfl
@[simp] theorem Thread.setPred_tx (t : Thread) (p : Nat) (v : Bool) : (t.setPred p v).tx = t.tx := rfl
@[simp] theorem Thread.setPred_deferred (t : Thread) (p : Nat) (v : Bool) : (t.setPred p v).deferred = t.deferred := rfl
@[simp] theorem Thread.setPred_world (t : Thread) (p : Nat) (v : Bool) : (t.setPred p v).world = t.world := rfl
@[simp] theorem Thread.setPred_ctx (t : Thread) (p : Nat) (v : Bool) : (t.setPred p v).ctx = t.ctx := rfl
@[simp] theorem Thread.setPred_ptb (t : Thread) (p : Nat) (v : Bool) : (t.setPred p v).ptb = t.ptb := rfl
@[simp] theorem Thread.setPred_acquired (t : Thread) (p : Nat) (v : Bool) : (t.setPred p v).acquired = t.acquired := rfl
@[simp] theorem Thread.setPred_done (t : Thread) (p : Nat) (v : Bool) : (t.setPred p v).done = t.done := rfl

/-! ## Thread.advance -/

@[simp] theorem Thread.advance_status (t : Thread) (b : Bool) : (t.advance b).status = t.status := rfl
@[simp] theorem Thread.advance_g (t : Thread) (b : Bool) : (t.advance b).g = t.g := rfl
@[simp] theorem Thread.advance_empty (t : Thread) (b : Bool) : (t.advance b).empty = t.empty := rfl
@[simp] theorem Thread.advance_preds (t : Thread) (b : Bool) : (t.advance b).preds = t.preds := rfl
@[simp] theorem Thread.advance_blocks (t : Thread) (b : Bool) : (t.advance b).blocks = t.blocks := rfl
@[simp] theorem Thread.advance_gangs (t : Thread) (b : Bool) : (t.advance b).gangs = t.gangs := rfl
@[simp] theorem Thread.advance_lov (t : Thread) (b : Bool) : (t.advance b).lov = t.lov := rfl
@[simp] theorem Thread.advance_priv (t : Thread) (b : Bool) : (t.advance b).priv = t.priv := rfl
@[simp] theorem Thread.advance_ie (t : Thread) (b : Bool) : (t.advance b).ie = t.ie := rfl
@[simp] theorem Thread.advance_pPriv (t : Thread) (b : Bool) : (t.advance b).pPriv = t.pPriv := rfl
@[simp] theorem Thread.advance_dcode (t : Thread) (b : Bool) : (t.advance b).dcode = t.dcode := rfl
@[simp] theorem Thread.advance_cause (t : Thread) (b : Bool) : (t.advance b).cause = t.cause := rfl
@[simp] theorem Thread.advance_xpc (t : Thread) (b : Bool) : (t.advance b).xpc = t.xpc := rfl
@[simp] theorem Thread.advance_txcause (t : Thread) (b : Bool) : (t.advance b).txcause = t.txcause := rfl
@[simp] theorem Thread.advance_tx (t : Thread) (b : Bool) : (t.advance b).tx = t.tx := rfl
@[simp] theorem Thread.advance_deferred (t : Thread) (b : Bool) : (t.advance b).deferred = t.deferred := rfl
@[simp] theorem Thread.advance_world (t : Thread) (b : Bool) : (t.advance b).world = t.world := rfl
@[simp] theorem Thread.advance_ctx (t : Thread) (b : Bool) : (t.advance b).ctx = t.ctx := rfl
@[simp] theorem Thread.advance_ptb (t : Thread) (b : Bool) : (t.advance b).ptb = t.ptb := rfl
@[simp] theorem Thread.advance_acquired (t : Thread) (b : Bool) : (t.advance b).acquired = t.acquired := rfl
/-! ## What an update changes -/

@[simp] theorem State.core_onCore_same (s : State) (u : Nat) (f : Core → Core) : (s.onCore u f).core u = f (s.core u) := by
  simp [State.core, State.onCore, State.setCore]

theorem State.core_onCore_other (s : State) (u v : Nat) (f : Core → Core) (h : v ≠ u) : (s.onCore u f).core v = s.core v := by
  simp [State.core, State.onCore, State.setCore, Tab.get_set_other _ _ _ _ _ h]

theorem State.core_onCore (s : State) (u v : Nat) (f : Core → Core) : (s.onCore u f).core v = if v = u then f (s.core u) else s.core v := by
  split
  · next h => subst h; simp
  · next h => exact State.core_onCore_other _ _ _ _ h

@[simp] theorem Core.stripe_onStripe_same (c : Core) (i : Nat) (f : Stripe → Stripe) : (c.onStripe i f).stripe i = f (c.stripe i) := by
  simp [Core.stripe, Core.onStripe]

theorem Core.stripe_onStripe_other (c : Core) (i j : Nat) (f : Stripe → Stripe) (h : j ≠ i) : (c.onStripe i f).stripe j = c.stripe j := by
  simp [Core.stripe, Core.onStripe, Tab.get_set_other _ _ _ _ _ h]

@[simp] theorem State.core_onStripe_same (s : State) (u i : Nat) (f : Stripe → Stripe) : (s.onStripe u i f).core u = (s.core u).onStripe i f := by
  simp [State.onStripe]

theorem State.core_onStripe_other (s : State) (u i v : Nat) (f : Stripe → Stripe) (h : v ≠ u) : (s.onStripe u i f).core v = s.core v :=
  State.core_onCore_other _ _ _ _ h

@[simp] theorem State.stripe_onStripe_same (s : State) (u i : Nat) (f : Stripe → Stripe) : (s.onStripe u i f).stripe u i = f (s.stripe u i) := by
  simp [State.stripe]

theorem State.stripe_onStripe_other (s : State) (u i v j : Nat) (f : Stripe → Stripe) (h : v ≠ u ∨ j ≠ i) : (s.onStripe u i f).stripe v j = s.stripe v j := by
  by_cases hv : v = u
  · subst hv
    simp [State.stripe, Core.stripe_onStripe_other _ _ _ _ (h.resolve_left fun h => h rfl)]
  · simp [State.stripe, State.core_onStripe_other _ _ _ _ _ hv]

@[simp] theorem State.core_onThread_same (s : State) (u i l : Nat) (f : Thread → Thread) :
    (s.onThread u i l f).core u = (s.core u).onStripe i fun t => t.onLane l f := by simp [State.onThread]

theorem State.core_onThread_other (s : State) (u i l v : Nat) (f : Thread → Thread) (h : v ≠ u) : (s.onThread u i l f).core v = s.core v :=
  State.core_onStripe_other _ _ _ _ _ h

@[simp] theorem Stripe.lane_onLane_same (t : Stripe) (l : Nat) (f : Thread → Thread) : (t.onLane l f).lane l = f (t.lane l) := by
  simp [Stripe.lane, Stripe.onLane]

theorem Stripe.lane_onLane_other (t : Stripe) (l k : Nat) (f : Thread → Thread) (h : k ≠ l) : (t.onLane l f).lane k = t.lane k := by
  simp [Stripe.lane, Stripe.onLane, Tab.get_set_other _ _ _ _ _ h]

theorem Stripe.lane_mapLanes (t : Stripe) (l : Nat) (f : Nat → Thread → Thread) (h : l < 32) : (t.mapLanes f).lane l = f l (t.lane l) := by
  simp [Stripe.lane, Stripe.mapLanes, Tab.get_tabulate _ _ _ _ h]

@[simp] theorem State.stripe_onThread_same (s : State) (u i l : Nat) (f : Thread → Thread) : (s.onThread u i l f).stripe u i = (s.stripe u i).onLane l f := by
  simp [State.onThread]

theorem State.stripe_onThread_other (s : State) (u i l v j : Nat) (f : Thread → Thread) (h : v ≠ u ∨ j ≠ i) :
    (s.onThread u i l f).stripe v j = s.stripe v j := State.stripe_onStripe_other _ _ _ _ _ _ h

@[simp] theorem State.thread_onThread_same (s : State) (u i l : Nat) (f : Thread → Thread) : (s.onThread u i l f).thread u i l = f (s.thread u i l) := by
  simp [State.thread]

theorem State.thread_onThread_other (s : State) (u i l v j k : Nat) (f : Thread → Thread) (h : v ≠ u ∨ j ≠ i ∨ k ≠ l) :
    (s.onThread u i l f).thread v j k = s.thread v j k := by
  by_cases hvj : v = u ∧ j = i
  · obtain ⟨rfl, rfl⟩ := hvj
    have hk : k ≠ l := by simpa using h
    simp [State.thread, Stripe.lane_onLane_other _ _ _ _ hk]
  · simp [State.thread, State.stripe_onThread_other _ _ _ _ _ _ _ (by omega : v ≠ u ∨ j ≠ i)]

@[simp] theorem State.slice_onSlice_same (s : State) (k : Nat) (f : Slice → Slice) : (s.onSlice k f).slice k = f (s.slice k) := by simp [State.slice, State.onSlice]
theorem State.slice_onSlice_other (s : State) (k j : Nat) (f : Slice → Slice) (h : j ≠ k) : (s.onSlice k f).slice j = s.slice j := by
  simp [State.slice, State.onSlice, Tab.get_set_other _ _ _ _ _ h]
@[simp] theorem State.part_onPart_same (s : State) (k : Nat) (f : Partition → Partition) : (s.onPart k f).part k = f (s.part k) := by simp [State.part, State.onPart]
theorem State.part_onPart_other (s : State) (k j : Nat) (f : Partition → Partition) (h : j ≠ k) : (s.onPart k f).part j = s.part j := by
  simp [State.part, State.onPart, Tab.get_set_other _ _ _ _ _ h]
@[simp] theorem State.func_onFunc_same (s : State) (k : Nat) (f : Function → Function) : (s.onFunc k f).func k = f (s.func k) := by simp [State.func, State.onFunc]
theorem State.func_onFunc_other (s : State) (k j : Nat) (f : Function → Function) (h : j ≠ k) : (s.onFunc k f).func j = s.func j := by
  simp [State.func, State.onFunc, Tab.get_set_other _ _ _ _ _ h]
@[simp] theorem State.bank_onBank_same (s : State) (k : Nat) (f : Bank → Bank) : (s.onBank k f).bank k = f (s.bank k) := by simp [State.bank, State.onBank]
theorem State.bank_onBank_other (s : State) (k j : Nat) (f : Bank → Bank) (h : j ≠ k) : (s.onBank k f).bank j = s.bank j := by
  simp [State.bank, State.onBank, Tab.get_set_other _ _ _ _ _ h]
@[simp] theorem State.frame_onFrame_same (s : State) (k : Nat) (f : Frame → Frame) : (s.onFrame k f).frame k = f (s.frame k) := by simp [State.frame, State.onFrame]
theorem State.frame_onFrame_other (s : State) (k j : Nat) (f : Frame → Frame) (h : j ≠ k) : (s.onFrame k f).frame j = s.frame j := by
  simp [State.frame, State.onFrame, Tab.get_set_other _ _ _ _ _ h]

/-! ## What an update of one table leaves in the others -/

@[simp] theorem State.slice_onCore (s : State) (u k : Nat) (f : Core → Core) : (s.onCore u f).slice k = s.slice k := rfl
@[simp] theorem State.part_onCore (s : State) (u k : Nat) (f : Core → Core) : (s.onCore u f).part k = s.part k := rfl
@[simp] theorem State.func_onCore (s : State) (u k : Nat) (f : Core → Core) : (s.onCore u f).func k = s.func k := rfl
@[simp] theorem State.bank_onCore (s : State) (u k : Nat) (f : Core → Core) : (s.onCore u f).bank k = s.bank k := rfl
@[simp] theorem State.frame_onCore (s : State) (u k : Nat) (f : Core → Core) : (s.onCore u f).frame k = s.frame k := rfl
@[simp] theorem State.core_onSlice (s : State) (u k : Nat) (f : Slice → Slice) : (s.onSlice k f).core u = s.core u := rfl
@[simp] theorem State.core_onPart (s : State) (u k : Nat) (f : Partition → Partition) : (s.onPart k f).core u = s.core u := rfl
@[simp] theorem State.core_onFunc (s : State) (u k : Nat) (f : Function → Function) : (s.onFunc k f).core u = s.core u := rfl
@[simp] theorem State.core_onBank (s : State) (u k : Nat) (f : Bank → Bank) : (s.onBank k f).core u = s.core u := rfl
@[simp] theorem State.core_onFrame (s : State) (u k : Nat) (f : Frame → Frame) : (s.onFrame k f).core u = s.core u := rfl

/-! ## Registers of a thread -/

@[simp] theorem Thread.reg_setReg_same (t : Thread) (r : Nat) (v : Word) : (t.setReg r v).reg r = v := by simp [Thread.reg, Thread.setReg]
theorem Thread.reg_setReg_other (t : Thread) (r q : Nat) (v : Word) (h : q ≠ r) : (t.setReg r v).reg q = t.reg q := by
  simp [Thread.reg, Thread.setReg, Tab.get_set_other _ _ _ _ _ h]
@[simp] theorem Thread.reg_mark (t : Thread) (r q : Nat) : (t.mark r).reg q = t.reg q := rfl
@[simp] theorem Thread.reg_advance (t : Thread) (b : Bool) (q : Nat) : (t.advance b).reg q = t.reg q := rfl
@[simp] theorem Thread.reg_setPred (t : Thread) (p : Nat) (v : Bool) (q : Nat) : (t.setPred p v).reg q = t.reg q := rfl
@[simp] theorem Thread.pc_advance (t : Thread) (b : Bool) : (t.advance b).pc = t.pc + 8 := rfl

end Sys2Proof.Machine
end

