-- ==== Sys2Proof/Laws/Ops.lean ====
section
/-!
SUPPORT. What the shared operations do: the checks of a word's operands, the end of a word, and the compute words built on them.
-/
namespace Sys2Proof.Machine

theorem State.curLanes_lt {s : State} {l : Nat} (h : l ∈ s.curLanes) : l < 32 := by
  simp only [State.curLanes, maskLanes, List.mem_filter, List.mem_range] at h
  exact h.1

theorem State.active_lt {s : State} {h : Hdr} {l : Nat} (hl : l ∈ s.active h) : l < 32 := State.curLanes_lt (List.mem_filter.mp hl).1

theorem Stripe.leaveSerial_lanes (t : Stripe) : (Stripe.leaveSerial t).lanes = t.lanes := by
  unfold Stripe.leaveSerial; split <;> rfl

theorem Stripe.leaveSerial_lane (t : Stripe) (l : Nat) : (Stripe.leaveSerial t).lane l = t.lane l := by
  simp [Stripe.lane, Stripe.leaveSerial_lanes]

theorem Stripe.leaveSerial_rest (t : Stripe) : { Stripe.leaveSerial t with serial := false } = { t with serial := false } := by
  unfold Stripe.leaveSerial; split <;> rfl

/-- Registers that are ready pass every test of R271. -/
theorem State.checkMapped_ok {s : State} {ls rs : List Nat} (hr : s.LanesReady ls rs) : s.checkMapped ls (fun _ => rs) = .ok () := by
  unfold State.checkMapped
  by_cases hb : s.curKind = .booth
  · have : ls.any (fun _ => rs.any fun r => decide (32 ≤ r)) = false := by
      rw [List.any_eq_false]
      intro l hl
      simp only [List.any_eq_true, decide_eq_true_eq, not_exists, not_and, Nat.not_le]
      intro r hm
      simpa [hb] using (hr l hl r hm).1
    simp only [hb, beq_self_eq_true, if_true, this]
    simp
  · have hb' : (s.curKind == Kind.booth) = false := by simpa using hb
    have : ls.find? (fun l => rs.any fun r => !(s.curThread l).mapped s.curKind r) = none := by
      rw [List.find?_eq_none]
      intro l hl
      simp only [List.any_eq_true, not_exists, not_and]
      intro r hm
      have := (hr l hl r hm).1
      rw [if_neg hb] at this
      simp [this]
    simp only [hb', this]
    simp

theorem State.checkSources_ok {s : State} {ls : List Nat} {srcs : List (Nat × Bool)} (hr : ∀ l ∈ ls, ∀ x ∈ srcs, (s.curThread l).empty.getLsbD x.1 = false) :
    s.checkSources ls (fun _ => srcs) = .ok () := by
  unfold State.checkSources
  have h1 : ls.findSome? (fun l => (srcs.find? fun x => x.2 && (s.curThread l).empty.getLsbD x.1).map fun x => (l, x.1)) = none := by
    rw [List.findSome?_eq_none_iff]
    intro l hl
    have : srcs.find? (fun x => x.2 && (s.curThread l).empty.getLsbD x.1) = none := by
      rw [List.find?_eq_none]
      intro x hx
      simp [hr l hl x hx]
    simp [this]
  have h2 : (ls.flatMap fun l => (srcs.filter fun x => (s.curThread l).empty.getLsbD x.1).map fun x => (l, x.1)) = [] := by
    rw [List.flatMap_eq_nil_iff]
    intro l hl
    rw [List.map_eq_nil_iff, List.filter_eq_nil_iff]
    intro x hx
    simp [hr l hl x hx]
  simp [h1, h2]

theorem State.checkDests_ok {s : State} {ls : List Nat} {dsts : List Nat} (hr : ∀ l ∈ ls, ∀ r ∈ dsts, (s.curThread l).empty.getLsbD r = false) :
    s.checkDests ls (fun _ => dsts) = .ok () := by
  unfold State.checkDests
  have h2 : (ls.flatMap fun l => (dsts.filter fun r => (s.curThread l).empty.getLsbD r).map fun r => (l, r)) = [] := by
    rw [List.flatMap_eq_nil_iff]
    intro l hl
    rw [List.map_eq_nil_iff, List.filter_eq_nil_iff]
    intro x hx
    simp [hr l hl x hx]
  simp [h2]

/-- The checks of a word pass when its registers are ready and its format is good. -/
theorem State.checkSem_ok {s : State} {ls : List Nat} {m : Sem} (hr : s.LanesReady ls m.named) (hf : ∀ l ∈ ls, m.badFormat (s.curThread l) = false) :
    s.checkSem ls (fun _ => m) = .ok () := by
  have h1 := State.checkMapped_ok hr
  have h2 : s.checkSources ls (fun _ => m.srcs) = .ok () :=
    State.checkSources_ok fun l hl x hx => (hr l hl x.1 (List.mem_append_left _ (List.mem_map_of_mem hx))).2
  have h3 : s.checkDests ls (fun _ => m.dsts) = .ok () :=
    State.checkDests_ok fun l hl r hx => (hr l hl r (List.mem_append_right _ hx)).2
  have h4 : ls.find? (fun l => m.badFormat (s.curThread l)) = none := by
    rw [List.find?_eq_none]
    intro l hl
    simp [hf l hl]
  unfold State.checkSem
  simp only [h1, h2, h3, h4]

/-- A compute word whose operands are ready has its effect. -/
theorem State.compute_ready {s : State} {h : Hdr} {m : Sem} (hr : s.RegsReady h m.named) (hf : ∀ l ∈ s.active h, m.badFormat (s.curThread l) = false) :
    s.compute h m = s.finish h.b fun _ t => if guardVal h t.preds then m.apply t t else t := by
  unfold State.compute
  rw [State.checkSem_ok hr hf]

/-! ## The end of a word -/

theorem State.onCur_core (s : State) (f : Stripe → Stripe) : (s.onCur f).core s.cur.unit = (s.core s.cur.unit).onStripe s.cur.stripe f := by
  simp [State.onCur, State.onStripe]

/-- A change of the issuing stripe that keeps lanes outside the group is a change of the group only. -/
theorem GroupOnly.onCur (s : State) (f : Stripe → Stripe) (hf : ∀ l, l < 32 → s.cur.lanes.getLsbD l = false → (f s.curStripe).lane l = s.curStripe.lane l) :
    GroupOnly s (s.onCur f) where
  rest := rfl
  cores u hu := State.core_onStripe_other s _ _ _ _ hu
  core := by rw [State.onCur_core]; rfl
  stripes i hi := State.stripe_onStripe_other s _ _ _ _ _ (.inr hi)
  lanes l hl hg := by
    have := hf l hl hg
    simpa [State.curThread, State.curStripe, State.onCur] using this
  bytes := by
    refine ⟨fun _ => rfl, fun u a => ?_⟩
    by_cases hu : u = s.cur.unit
    · subst hu; rw [State.onCur_core]; rfl
    · rw [show (s.onCur f).core u = s.core u from State.core_onStripe_other s _ _ _ _ hu]

theorem GroupOnly.trans {s t r : State} (h1 : GroupOnly s t) (h2 : GroupOnly t r) : GroupOnly s r := by
  have hc : t.cur = s.cur := by have := congrArg State.cur h1.rest; simpa using this
  refine ⟨?_, fun u hu => ?_, ?_, fun i hi => ?_, fun l hl hg => ?_, ?_⟩
  · have e1 := h1.rest
    have e2 := h2.rest
    have : { r with cores := s.cores } = ({ ({ r with cores := t.cores } : State) with cores := s.cores } : State) := rfl
    rw [this, e2, e1]
  · rw [h2.cores u (by rw [hc]; exact hu), h1.cores u hu]
  · have := h2.core
    rw [hc] at this
    rw [this, h1.core]
  · have := h2.stripes i (by rw [hc]; exact hi)
    rw [hc] at this
    rw [this, h1.stripes i hi]
  · have := h2.lanes l hl (by rw [hc]; exact hg)
    rw [this, h1.lanes l hl hg]
  · exact ⟨fun a => (h2.bytes.1 a).trans (h1.bytes.1 a), fun u a => (h2.bytes.2 u a).trans (h1.bytes.2 u a)⟩

theorem GroupOnly.ofQuads (s : State) (f : Core → Core) (hq : { f (s.core s.cur.unit) with quads := [] } = { s.core s.cur.unit with quads := [] }) :
    GroupOnly s (s.onCore s.cur.unit f) := by
  have hs : (f (s.core s.cur.unit)).stripes = (s.core s.cur.unit).stripes := by simpa using congrArg Core.stripes hq
  refine ⟨rfl, fun u hu => State.core_onCore_other s _ _ _ hu, ?_, fun i _ => ?_, fun l _ _ => ?_, fun _ => rfl, fun u a => ?_⟩
  · simp only [State.core_onCore_same]
    have := congrArg (fun c : Core => { c with stripes := [] }) hq
    simpa using this
  · simp [State.stripe, Core.stripe, hs]
  · simp [State.curThread, State.curStripe, State.stripe, Core.stripe, hs]
  · by_cases hu : u = s.cur.unit
    · subst hu
      have := congrArg Core.sram hq
      simp only [State.core_onCore_same]
      rw [show (f (s.core s.cur.unit)).sram = (s.core s.cur.unit).sram by simpa using this]
    · rw [State.core_onCore_other s _ _ _ hu]

theorem GroupOnly.stopGroup (s : State) : GroupOnly s s.stopGroup := GroupOnly.ofQuads s _ rfl
theorem GroupOnly.endTurn (s : State) : GroupOnly s s.endTurn := GroupOnly.ofQuads s _ rfl

theorem State.curStripe_onCur (s : State) (f : Stripe → Stripe) : (s.onCur f).curStripe = f s.curStripe := by
  simp [State.curStripe, State.onCur]

theorem State.curStripe_stopGroup (s : State) : s.stopGroup.curStripe = s.curStripe := by
  simp [State.curStripe, State.stopGroup, State.stripe, Core.stripe]

theorem State.curStripe_endTurn (s : State) : s.endTurn.curStripe = s.curStripe := by
  simp [State.curStripe, State.endTurn, State.stripe, Core.stripe]

/-- The end of a word says all it does: the lanes of the group take f and move on. -/
theorem LaneEffect.finish (s : State) (b : Bool) (f : Nat → Thread → Thread) : LaneEffect s (s.finish b f) b fun l t => (f l t).advance b := by
  have base : GroupOnly s (s.onCur fun t => t.mapLanes fun l th => if s.cur.lanes.getLsbD l then (f l th).advance b else th) := by
    refine GroupOnly.onCur s _ fun l hl hg => ?_
    rw [Stripe.lane_mapLanes _ _ _ hl]
    simp only [hg, Bool.false_eq_true, if_false]
  cases b with
  | false =>
    have e : s.finish false f = s.onCur fun t => t.mapLanes fun l th => if s.cur.lanes.getLsbD l then (f l th).advance false else th := rfl
    rw [e]
    refine ⟨base, fun l hl hg => ?_, ?_, fun _ => ⟨?_, ?_⟩⟩
    · simp only [State.curThread, State.curStripe_onCur]
      rw [Stripe.lane_mapLanes _ _ _ hl]
      simp only [hg, if_true]
    · rw [State.curStripe_onCur]; rfl
    · rw [State.curStripe_onCur]; rfl
    · rw [State.onCur_core]; rfl
  | true =>
    have e : s.finish true f = ((s.onCur fun t => t.mapLanes fun l th => if s.cur.lanes.getLsbD l then (f l th).advance true else th).onCur Stripe.leaveSerial).stopGroup := rfl
    rw [e]
    generalize hs1 : (s.onCur fun t => t.mapLanes fun l th => if s.cur.lanes.getLsbD l then (f l th).advance true else th) = s1 at base
    have hc : s1.curStripe = s.curStripe.mapLanes fun l th => if s.cur.lanes.getLsbD l then (f l th).advance true else th := by
      rw [← hs1, State.curStripe_onCur]
    have hlane : ∀ l, l < 32 → s1.curStripe.lane l = if s.cur.lanes.getLsbD l then (f l (s.curStripe.lane l)).advance true else s.curStripe.lane l := by
      intro l hl
      rw [hc, Stripe.lane_mapLanes _ _ _ hl]
    refine ⟨(base.trans (GroupOnly.onCur _ _ fun l _ _ => Stripe.leaveSerial_lane _ _)).trans (GroupOnly.stopGroup _), fun l hl hg => ?_, ?_, fun h => by simp at h⟩
    · simp only [State.curThread, State.curStripe_stopGroup, State.curStripe_onCur, Stripe.leaveSerial_lane, hlane l hl, hg, if_true]
    · rw [State.curStripe_stopGroup, State.curStripe_onCur]
      have := congrArg (fun t : Stripe => { t with lanes := [] }) (Stripe.leaveSerial_rest s1.curStripe)
      simp only at this
      rw [show ({ s1.curStripe.leaveSerial with lanes := [], serial := false } : Stripe) = { s1.curStripe with lanes := [], serial := false } from this, hc]
      rfl

/-- What ends a run: the stripe may leave serial mode and the group stops; nothing else. -/
theorem LaneEffect.endRun {s : State} (g : Stripe → Stripe) (f : Nat → Thread → Thread)
    (hg : ∀ l, l < 32 → (g s.curStripe).lane l = if s.cur.lanes.getLsbD l then f l (s.curStripe.lane l) else s.curStripe.lane l)
    (hr : { g s.curStripe with lanes := [], serial := false } = { s.curStripe with lanes := [], serial := false }) :
    LaneEffect s ((s.onCur g).onCur Stripe.leaveSerial).stopGroup true f := by
  have base : GroupOnly s (s.onCur g) := GroupOnly.onCur s _ fun l hl h0 => by rw [hg l hl]; simp [h0]
  have hc : (s.onCur g).curStripe = g s.curStripe := State.curStripe_onCur s g
  refine ⟨(base.trans (GroupOnly.onCur _ _ fun l _ _ => Stripe.leaveSerial_lane _ _)).trans (GroupOnly.stopGroup _), fun l hl h1 => ?_, ?_, fun h => by simp at h⟩
  · simp only [State.curThread, State.curStripe_stopGroup, State.curStripe_onCur, Stripe.leaveSerial_lane, hg l hl, h1, if_true]
  · rw [State.curStripe_stopGroup, State.curStripe_onCur, hc]
    have h1 := congrArg (fun t : Stripe => { t with lanes := [] }) (Stripe.leaveSerial_rest (g s.curStripe))
    exact Eq.trans h1 hr

/-- A branch word: every lane of the group takes f, its run ends (R329). -/
theorem LaneEffect.branch (s : State) (f : Nat → Thread → Thread) : LaneEffect s (s.branch f) true fun l t => { f l t with run := 0, done := false } :=
  LaneEffect.endRun _ _ (fun l hl => by rw [Stripe.lane_mapLanes _ _ _ hl]) rfl

/-- A compute word whose operands are ready did what it says. -/
theorem LaneEffect.compute {s : State} {h : Hdr} {m : Sem} (hr : s.RegsReady h m.named) (hf : ∀ l ∈ s.active h, m.badFormat (s.curThread l) = false) :
    LaneEffect s (s.compute h m) h.b fun _ => laneAfter h fun t => m.apply t t := by
  rw [State.compute_ready hr hf]
  exact LaneEffect.finish s h.b _

end Sys2Proof.Machine
end

