-- ==== Sys2Proof/Laws/Access.lean ====
section
/-!
SUPPORT. What an access may change on its way to its home: caches, translations, frames, poison and records, but no thread, no control register of a core and no word being issued.
-/
namespace Sys2Proof.Machine

/-- A core without its caches, its translations and its outgoing queue. -/
def Core.bare (c : Core) : Core := { c with tlb := [], quadTlb := [], walkAhead := [], walkCache := [], lines := [], outq := [], nextId := 0 }

/-- The word being issued, the clock and every core but for caches, translations and queues are as before. -/
structure Kept (s t : State) : Prop where
  cur  : t.cur = s.cur
  gtc  : t.gtc = s.gtc
  core : ∀ u, (t.core u).bare = (s.core u).bare

theorem Kept.refl (s : State) : Kept s s := ⟨rfl, rfl, fun _ => rfl⟩
theorem Kept.trans {s t r : State} (h1 : Kept s t) (h2 : Kept t r) : Kept s r := ⟨h2.cur.trans h1.cur, h2.gtc.trans h1.gtc, fun u => (h2.core u).trans (h1.core u)⟩

theorem Kept.stripes {s t : State} (h : Kept s t) (u : Nat) : (t.core u).stripes = (s.core u).stripes := by
  simpa [Core.bare] using congrArg Core.stripes (h.core u)
theorem Kept.thread {s t : State} (h : Kept s t) (u i l : Nat) : t.thread u i l = s.thread u i l := by
  simp [State.thread, State.stripe, Core.stripe, h.stripes u]
theorem Kept.stripe {s t : State} (h : Kept s t) (u i : Nat) : t.stripe u i = s.stripe u i := by
  simp [State.stripe, Core.stripe, h.stripes u]
theorem Kept.sram {s t : State} (h : Kept s t) (u : Nat) : (t.core u).sram = (s.core u).sram := by
  simpa [Core.bare] using congrArg Core.sram (h.core u)

/-- An update outside the cores keeps them. -/
theorem Kept.ofCores {s t : State} (h1 : t.cur = s.cur) (h2 : t.gtc = s.gtc) (h3 : t.cores = s.cores) : Kept s t := ⟨h1, h2, fun u => by simp [State.core, h3]⟩

theorem Kept.onCore (s : State) (u : Nat) (f : Core → Core) (h : ∀ c, (f c).bare = c.bare) : Kept s (s.onCore u f) := by
  refine ⟨rfl, rfl, fun v => ?_⟩
  rw [State.core_onCore]
  split
  · next e => rw [e, h]
  · rfl

theorem Kept.onSlice (s : State) (k : Nat) (f : Slice → Slice) : Kept s (s.onSlice k f) := Kept.ofCores rfl rfl rfl
theorem Kept.onPart (s : State) (k : Nat) (f : Partition → Partition) : Kept s (s.onPart k f) := Kept.ofCores rfl rfl rfl
theorem Kept.onBank (s : State) (k : Nat) (f : Bank → Bank) : Kept s (s.onBank k f) := Kept.ofCores rfl rfl rfl
theorem Kept.onFrame (s : State) (k : Nat) (f : Frame → Frame) : Kept s (s.onFrame k f) := Kept.ofCores rfl rfl rfl
theorem Kept.onFunc (s : State) (k : Nat) (f : Function → Function) : Kept s (s.onFunc k f) := Kept.ofCores rfl rfl rfl
theorem Kept.post (s : State) (p : Nat) (r : Record) : Kept s (s.post p r) := Kept.ofCores rfl rfl rfl
theorem Kept.noteFree (s : State) (sl w : Nat) : Kept s (s.noteFree sl w) := Kept.ofCores rfl rfl rfl

theorem Kept.attribute (s : State) (u : Nat) (r : Record) : Kept s (s.attribute u r) := by
  unfold State.attribute
  split
  · exact Kept.refl s
  · split
    · exact Kept.refl s
    · exact Kept.ofCores rfl rfl rfl

theorem Kept.deadRecord (s : State) (p sl loc : Nat) (w : Bool) : Kept s (s.deadRecord p sl loc w) := by
  unfold State.deadRecord
  simp only
  split
  · exact Kept.post ..
  · split
    · exact Kept.post ..
    · exact Kept.refl s

theorem Kept.channelPoison (s : State) (sl fr chan : Nat) : Kept s (s.channelPoison sl fr chan) := by
  unfold State.channelPoison
  split
  · exact Kept.refl s
  · refine Kept.trans (t := s.channelRecord sl fr) ?_ (Kept.onFrame ..)
    unfold State.channelRecord
    (repeat' split) <;> exact Kept.ofCores rfl rfl rfl

theorem Kept.fillLine (s : State) (p sl loc : Nat) : Kept s (s.fillLine p sl loc) := by
  unfold State.fillLine
  simp only
  split
  · exact Kept.refl s
  · split
    · exact Kept.refl s
    · refine Kept.trans (t := { s with latent := Tab.erase s.latent (lineKey sl loc), poison := Tab.set s.poison (lineKey sl loc) 0xFF }) (Kept.ofCores rfl rfl rfl) ?_
      split
      · exact Kept.channelPoison ..
      · exact Kept.noteFree ..
      · exact Kept.post ..

theorem Kept.writeBackLine (s : State) (b : Nat) (x : BankLine) : Kept s (s.writeBackLine b x) := Kept.ofCores rfl rfl rfl

theorem Kept.drainOne (s : State) (b : Nat) : Kept s (s.drainOne b) := by
  unfold State.drainOne State.popBuffer
  split
  · exact Kept.refl s
  · simp only
    split
    · exact (Kept.onBank ..).trans (Kept.deadRecord ..)
    · exact (Kept.onBank ..).trans (Kept.writeBackLine ..)

theorem Kept.claimWay {s t : State} {b line : Nat} (h : s.claimWay b line = some t) : Kept s t := by
  unfold State.claimWay at h
  split at h
  · exact Option.some.inj h ▸ Kept.onBank ..
  · split at h
    · obtain ⟨x, -, rfl⟩ := Option.map_eq_some_iff.mp h
      exact (Kept.drainOne ..).trans (Kept.onBank ..)
    · cases h

theorem Kept.touchLine (s : State) (sl loc k : Nat) (d c : Bool) : Kept s (s.touchLine sl loc k d c) := by
  unfold State.touchLine
  simp only
  split
  · split
    · exact Kept.onBank ..
    · exact Kept.refl s
  · split
    · exact Kept.onBank ..
    · split
      · next h => exact (Kept.claimWay h).trans (Kept.onBank ..)
      · split
        · exact Kept.onBank ..
        · exact Kept.refl s

theorem Kept.readHome (s : State) (p sl loc n : Nat) : Kept s (s.readHome p sl loc n).1 := by
  unfold State.readHome
  simp only
  split
  · exact Kept.deadRecord ..
  · simp only
    split
    · exact Kept.refl s
    · exact Kept.fillLine ..

theorem Kept.installHome (s : State) (sl loc : Nat) (c : Bool) : Kept s (s.installHome sl loc c) := by
  unfold State.installHome
  simp only
  split
  · exact Kept.touchLine ..
  · split
    · exact Kept.refl s
    · exact Kept.touchLine ..

theorem Kept.writeHome (s : State) (p sl loc k : Nat) (c : Bool) (bs : List Byte) : Kept s (s.writeHome p sl loc k c bs) := by
  unfold State.writeHome
  simp only
  split
  · exact Kept.deadRecord ..
  · refine Kept.trans (t := if bs.length = 128 then { s with latent := Tab.erase s.latent (lineKey sl loc) } else if s.resident sl loc then s else s.fillLine p sl loc) ?_ ?_
    · split
      · exact Kept.ofCores rfl rfl rfl
      · split
        · exact Kept.refl s
        · exact Kept.fillLine ..
    · generalize (if bs.length = 128 then _ else _ : State) = x
      refine Kept.trans ?_ (Kept.touchLine ..)
      exact ⟨rfl, rfl, fun _ => rfl⟩

theorem Kept.readPa (s : State) (p pa n : Nat) (c : Bool) : Kept s (s.readPa p pa n c).1 := by
  unfold State.readPa
  split
  · exact Kept.refl s
  · exact (Kept.readHome ..).trans (Kept.installHome ..)

theorem Kept.writePa (s : State) (p pa k : Nat) (c : Bool) (bs : List Byte) : Kept s (s.writePa p pa k c bs) := by
  unfold State.writePa
  split
  · exact Kept.refl s
  · exact Kept.writeHome ..

theorem Kept.keyCheck (s : State) (r : KeyReq) (pa : Nat) : Kept s (s.keyCheck r pa).1 := by
  unfold State.keyCheck
  split
  · exact Kept.refl s
  · split
    · simp only [State.takeFrame]
      split
      · exact Kept.ofCores rfl rfl rfl
      · exact Kept.refl s
    · exact Kept.refl s

theorem Kept.cacheWalk (s : State) (t : Tlb) (e : WalkEntry) : Kept s (s.cacheWalk t e) := by
  unfold State.cacheWalk
  split
  · exact Kept.onCore _ _ _ fun _ => rfl
  · exact Kept.onCore _ _ _ fun _ => rfl
  · exact Kept.onCore _ _ _ fun _ => rfl
  · exact Kept.onSlice ..
  · exact Kept.refl s

theorem Kept.keepTlb (s : State) (t : Tlb) (asid va : Nat) (e : TlbEntry) : Kept s (s.keepTlb t asid va e) := by
  unfold State.keepTlb
  split
  · exact Kept.onCore _ _ _ fun _ => rfl
  · exact Kept.onCore _ _ _ fun _ => rfl
  · exact Kept.onCore _ _ _ fun _ => rfl
  · exact Kept.onSlice ..
  · exact Kept.refl s

theorem Kept.readEntry (s : State) (p pa : Nat) : Kept s (s.readEntry p pa).1 := by
  unfold State.readEntry
  have h := Kept.keyCheck s { part := p, world := 0, pass := true, key := 0, isSealed := false } pa
  split
  · next e => rw [e] at h; exact h
  · next t e =>
    rw [e] at h
    split
    · exact h
    · have h2 := h.trans (Kept.readPa t p pa 8 false)
      split
      · next e2 => rw [e2] at h2; exact h2
      · next e2 => rw [e2] at h2; exact h2

theorem Kept.walk (lvl : Nat) (s : State) (r : Req) (va fr : Nat) : Kept s (s.walk r va lvl fr).1 := by
  induction lvl generalizing s fr with
  | zero =>
    unfold State.walk
    have h := Kept.readEntry s r.part (8192 * fr + 8 * lvlIndex 0 va)
    simp only
    split
    · exact Kept.refl s
    · split
      · next e => rw [e] at h; exact h
      · next e => rw [e] at h; (repeat' split) <;> exact h
  | succ l ih =>
    unfold State.walk
    have h := Kept.readEntry s r.part (8192 * fr + 8 * lvlIndex (l + 1) va)
    simp only
    split
    · exact Kept.refl s
    · split
      · next e => rw [e] at h; exact h
      · next t x e =>
        rw [e] at h
        split
        · exact h
        · split
          · exact h
          · split
            · exact h
            · split
              · exact h
              · exact (Kept.trans h (Kept.cacheWalk ..)).trans (ih _ _)

theorem Kept.setLeafBits (s : State) (p pa : Nat) (a b : BitVec 64) : Kept s (s.setLeafBits p pa a b) := by
  unfold State.setLeafBits
  simp only
  split
  · exact (Kept.readPa ..).trans (Kept.writePa ..)
  · exact Kept.readPa ..

theorem Kept.useLeaf (s : State) (r : Req) (va : Nat) (leaf : BitVec 64) (lvl pa : Nat) : Kept s (s.useLeaf r va leaf lvl pa).1 := by
  unfold State.useLeaf
  simp only
  split
  · exact Kept.refl s
  · generalize hx : (if r.setA = true then _ else _ : State × BitVec 64) = x
    have h1 : Kept s x.1 := by
      rw [← hx]
      split
      · exact Kept.setLeafBits ..
      · exact Kept.refl s
    split
    · exact h1
    · exact h1.trans (Kept.keepTlb ..)

theorem Kept.viaTable (s : State) (r : Req) (va lvl fr : Nat) : Kept s (s.viaTable r va lvl fr).1 := by
  unfold State.viaTable
  have h := Kept.walk lvl s r va fr
  split
  · next h1 => rw [h1] at h; exact h
  · next h1 => rw [h1] at h; exact h.trans (Kept.useLeaf ..)

/-- A translation changes no thread and no control register (R64, R66). -/
theorem Kept.translate (s : State) (r : Req) (va : Nat) : Kept s (s.translate r va).1 := by
  unfold State.translate
  simp only
  have root : Kept s (if s.badFrame r.part (bits r.ptb.toNat 51 13) = true then (s, Except.error (XFault.page 0x0A 3)) else s.viaTable r va 3 (bits r.ptb.toNat 51 13)).1 := by
    split
    · exact Kept.refl s
    · exact Kept.viaTable ..
  split
  · exact Kept.refl s
  · split
    · exact Kept.keepTlb ..
    · split
      · exact root
      · next lvl fr _ =>
        have h := Kept.viaTable s r va lvl fr
        split
        · next h1 => rw [h1] at h; exact h
        · exact root

theorem Kept.onAccess (c : Core) (id : Nat) (f : Access → Access) : (c.onAccess id f).bare = c.bare := rfl

/-- A packet on its way changes no thread. -/
theorem Kept.passOn (s : State) (k : Packet) : Kept s (s.passOn k) := by
  have drop : Kept s (s.onCore k.unit fun c => c.dropAccess k.id) := Kept.onCore _ _ _ fun _ => rfl
  have push (p : Nat) (f : Port → Port) : Kept s { s with ports := Tab.modify s.ports p {} f } := Kept.ofCores rfl rfl rfl
  unfold State.passOn
  simp only
  generalize (if k.response = true then sliceOf k.unit else k.slice) = dst
  split
  · split
    · exact push ..
    · split
      · exact drop
      · split
        · exact push ..
        · exact Kept.onCore _ _ _ fun _ => rfl
  · split
    · exact Kept.ofCores rfl rfl rfl
    · split
      · exact Kept.onCore _ _ _ fun _ => rfl
      · split
        · exact drop
        · exact Kept.onCore _ _ _ fun _ => rfl

/-- An access that enters a core's outgoing queue changes no thread. -/
theorem Kept.enqueue (s : State) (u p : Nat) (a : Access) : Kept s (s.enqueue u p a) := by
  unfold State.enqueue
  simp only
  split
  · exact Kept.onCore _ _ _ fun _ => rfl
  · refine Kept.trans ?_ (Kept.passOn ..)
    exact Kept.onCore _ _ _ fun _ => rfl

/-- Writing a trap record changes no thread and no control register (R421). -/
theorem Kept.writeTrapRecord {s t : State} {u i l pc : Nat} {tr : Trap} (h : s.writeTrapRecord u i l pc tr = some t) : Kept s t := by
  unfold State.writeTrapRecord at h
  simp only at h
  generalize hx : s.translate _ _ = x at h
  have h1 : Kept s x.1 := hx ▸ Kept.translate ..
  obtain ⟨s1, r⟩ := x
  cases r with
  | error e => simp at h
  | ok x =>
    simp only at h h1
    generalize hk : s1.keyCheck _ _ = k at h
    have h2 : Kept s k.1 := h1.trans (hk ▸ Kept.keyCheck ..)
    split at h
    · simp at h
    · have e := Option.some.inj h
      rw [← e]
      refine ((h2.trans (Kept.translate ..)).trans (Kept.onCore _ _ _ fun c => ?_)).trans (Kept.enqueue ..)
      simp [Core.bare]

end Sys2Proof.Machine
end

