-- ==== Sys2Proof/Laws/Elements.lean ====
section
/-!
SUPPORT. Elements of packed registers: reading an element of a register that was joined from elements (R206, R272).
-/
namespace Sys2Proof.Machine

theorem joinElems_lt (w : Nat) (es : List Nat) : joinElems w es < 2 ^ (w * es.length) := by
  induction es with
  | nil => simp [joinElems]
  | cons e r ih =>
    have h1 : e % 2 ^ w < 2 ^ w := Nat.mod_lt _ (Nat.two_pow_pos w)
    have h2 : 2 ^ (w * (r.length + 1)) = 2 ^ w * 2 ^ (w * r.length) := by rw [Nat.mul_add, Nat.mul_one, Nat.pow_add, Nat.mul_comm]
    simp only [joinElems, List.length_cons, h2]
    calc e % 2 ^ w + 2 ^ w * joinElems w r < 2 ^ w + 2 ^ w * joinElems w r := by omega
      _ = 2 ^ w * (joinElems w r + 1) := by rw [Nat.mul_add, Nat.mul_one, Nat.add_comm]
      _ ≤ 2 ^ w * 2 ^ (w * r.length) := Nat.mul_le_mul_left _ ih

/-- Element i of joined elements is the i-th of them, cut to the width. -/
theorem joinElems_elem (w : Nat) (es : List Nat) (i : Nat) (h : i < es.length) : joinElems w es / 2 ^ (w * i) % 2 ^ w = es[i] % 2 ^ w := by
  induction es generalizing i with
  | nil => simp at h
  | cons e r ih =>
    cases i with
    | zero => simp [joinElems]
    | succ j =>
      have hj : j < r.length := by simpa using h
      have e1 : w * (j + 1) = w + w * j := by rw [Nat.mul_add, Nat.mul_one, Nat.add_comm]
      have e2 : (e % 2 ^ w + 2 ^ w * joinElems w r) / 2 ^ w = joinElems w r := by
        rw [Nat.add_mul_div_left _ _ (Nat.two_pow_pos w), Nat.div_eq_of_lt (Nat.mod_lt _ (Nat.two_pow_pos w)), Nat.zero_add]
      rw [joinElems, e1, Nat.pow_add, ← Nat.div_div_eq_div_mul, e2, ih j hj]
      rfl

theorem tyWidth_cases (ty : Nat) : tyWidth ty = 32 ∨ tyWidth ty = 16 ∨ tyWidth ty = 8 ∨ tyWidth ty = 4 := by
  unfold tyWidth; split <;> simp

/-- An element of a register built from its elements, for the element widths of R206. -/
theorem elem_ofNat_joinElems (ty i : Nat) (f : Nat → Nat) (h : i < 32 / tyWidth ty) :
    elem (BitVec.ofNat 32 (joinElems (tyWidth ty) ((List.range (32 / tyWidth ty)).map f))) (tyWidth ty) i = f i % 2 ^ tyWidth ty := by
  have hl := joinElems_lt (tyWidth ty) ((List.range (32 / tyWidth ty)).map f)
  have h32 : tyWidth ty * (32 / tyWidth ty) = 32 := by rcases tyWidth_cases ty with h | h | h | h <;> rw [h]
  simp only [List.length_map, List.length_range, h32] at hl
  have := joinElems_elem (tyWidth ty) ((List.range (32 / tyWidth ty)).map f) i (by simpa using h)
  simp only [elem, BitVec.toNat_ofNat, Nat.mod_eq_of_lt hl, this, List.getElem_map, List.getElem_range]

theorem wrapNat_lt (x : Int) (n : Nat) : wrapNat x n < 2 ^ n := by
  have h : (0 : Int) < 2 ^ n := by exact_mod_cast Nat.two_pow_pos n
  have h1 := Int.emod_lt_of_pos x h
  have h0 := Int.emod_nonneg x (Int.ne_of_gt h)
  have h2 : ((2 ^ n : Nat) : Int) = (2 : Int) ^ n := by simp
  unfold wrapNat
  omega

/-- Each element of a per-element result (R272, R275). -/
theorem elem_perElem (ty i : Nat) (op : Int → Int → Int) (a b : Word) (h : i < 32 / tyWidth ty) :
    elem (perElem ty op a b) (tyWidth ty) i = wrapNat (op (elemInt ty (elem a (tyWidth ty) i)) (elemInt ty (elem b (tyWidth ty) i))) (tyWidth ty) := by
  rw [perElem, elem_ofNat_joinElems ty i _ h, Nat.mod_eq_of_lt (wrapNat_lt _ _)]

/-- Each element of a shift (R279). -/
theorem elem_shiftVal (op : ShiftOp) (ty i : Nat) (a b : Word) (h : i < 32 / tyWidth ty) :
    elem (shiftVal op ty a b) (tyWidth ty) i = shiftElem op (tyWidth ty) (elem a (tyWidth ty) i) (elem b (tyWidth ty) i) % 2 ^ tyWidth ty :=
  elem_ofNat_joinElems ty i _ h

end Sys2Proof.Machine
end

