-- ==== Sys2Proof/Tests/Slice0.lean ====
section
/-!
SUPPORT. Tests: terms that are not well-formed, words written out from the spec's encodings, and for every statement a state and operands that meet its hypotheses.
-/
open Sys2Proof Sys2Proof.Machine Sys2Proof.Slice0
namespace Sys2Proof.Tests
-- One theorem at a time: all of them at once need more threads than the memory limit has room for.
set_option Elab.async false

/-! ## Small states -/

/-- The header of a word without run boundary, guarded by p7. -/
def h7 : Hdr := { b := false, n := false, p := 7 }

/-- A stripe of 32 ready threads at a privilege, of role C. -/
def fullStripe (p : Priv) (role : BitVec 2) : Stripe := { lanes := Tab.tabulate 32 fun _ => { status := .ready, priv := p }, role := role }

/-- Core 0 of slice 0 in partition 0 with a team of one stripe, its first page mapped, and lanes m of stripe 0 issuing (log 11). -/
def sim (m : LaneMask) (p : Priv) (role : BitVec 2) : State :=
  let s := State.reset.withFetchWord 64 0
  { s.onStripe 0 0 fun _ => fullStripe p role with cur := { unit := 0, stripe := 0, lanes := m, pc := 0 } }

/-- One lane at privilege K. -/
def one : State := sim 1 .k 0
/-- Two lanes at privilege K. -/
def two : State := sim 3 .k 0

/-- Readiness of registers as a check. -/
def readyB (s : State) (ls rs : List Nat) : Bool :=
  ls.all fun l => rs.all fun r => (if s.curKind = .booth then decide (r < 32) else (s.curThread l).mapped s.curKind r) && !(s.curThread l).empty.getLsbD r

theorem lanesReady_of {s : State} {ls rs : List Nat} (h : readyB s ls rs = true) : s.LanesReady ls rs := by
  intro l hl r hr
  have h2 := List.all_eq_true.mp (List.all_eq_true.mp h l hl) r hr
  rw [Bool.and_eq_true, Bool.not_eq_true'] at h2
  refine ⟨?_, h2.2⟩
  split <;> simp_all

theorem ready_of {s : State} {h : Hdr} {rs : List Nat} (hb : readyB s (s.active h) rs = true) : s.RegsReady h rs := lanesReady_of hb

def rf (d a b c : BitVec 7) (x : BitVec 9) : FmtR := { hdr := h7, dst := d, sa := a, sb := b, sc := c, ma := 0, mb := 0, fa := false, fb := false, fc := false, x := x }
def ef (d a b c : BitVec 7) (i : BitVec 8) (x : BitVec 9) : FmtE := { hdr := h7, dst := d, sa := a, sb := b, sc := c, imm8 := i, fa := false, fb := false, fc := false, x := x }
def mf (d a b : BitVec 7) (o : BitVec 17) (x : BitVec 9) : FmtM := { hdr := h7, dst := d, sa := a, sb := b, off := o, fa := false, x := x }
def imf (d a : BitVec 7) (i : BitVec 24) (x : BitVec 9) : FmtI := { hdr := h7, dst := d, sa := a, imm := i, fa := false, x := x }
def bf (o : BitVec 38) (x : BitVec 9) : FmtB := { hdr := h7, off := o, bit9 := false, x := x }
/-- Guarded by p0. -/
def h0 : Hdr := { b := false, n := false, p := 0 }

/-- Lane 0 has p0 and lane 1 has not. -/
def splitLanes : State := two.onThread 0 0 0 fun t => { t with preds := 1 }

/-- A thread of another unit issues alone (log 11). -/
def atUnit (u : Nat) (p : Priv) : State :=
  { (State.reset.withFetchWord 64 0).onStripe u 0 fun _ => { lanes := [(0, { status := .ready, priv := p })] } with cur := { unit := u, stripe := 0, lanes := 1, pc := 0 } }

/-- The firmware core of function 0 of partition 0, whose world mask holds world 0. -/
def fwCore : State := ((atUnit 0x1600 .k).onFunc 0 fun f => { f with part := some 0 }).onPart 0 fun p => { p with wmask := 1 }

/-- Every bank of core 0 is scratchpad, and lane 0 has a pointer in g2:g3 and a value in g4. -/
def pointing (ptr : Nat) : State :=
  (one.onCore 0 fun c => { c with bmode := 0x5555555555555555 }).onThread 0 0 0 fun t => (t.setPair 2 (BitVec.ofNat 64 ptr)).setReg 4 0x11223344
/-- The scratchpad byte at an offset. -/
def spadAt (off : Nat) : Nat := 2 ^ 61 + off

/-- What a checked operation answers. -/
def got {σ α ε : Type} (r : σ × Except ε α) : Option (σ × α) := match r with
  | (s, .ok a) => some (s, a)
  | _ => none

theorem of_got {σ α ε : Type} {r : σ × Except ε α} {p : σ → α → Bool} (h : ((got r).any fun x => p x.1 x.2) = true) : ∃ s a, r = (s, .ok a) ∧ p s a = true := by
  obtain ⟨s, e | a⟩ := r
  · simp [got] at h
  · exact ⟨s, a, rfl, by simpa [got] using h⟩

def took {α ε : Type} (r : Except ε α) : Option α := match r with
  | .ok a => some a
  | _ => none

theorem of_took {α ε : Type} {r : Except ε α} {p : α → Bool} (h : (took r).any p = true) : ∃ a, r = .ok a ∧ p a = true := by
  obtain e | a := r
  · simp [took] at h
  · exact ⟨a, rfl, by simpa [took] using h⟩

/-- The bytes of a number at an address of the mapped page. -/
def withBytes (s : State) (va n v : Nat) : State := { s with mem := bytesSet s.mem (memKey 0 (1024 * 8192 + va)) (leBytes n v) }
/-- Registers of lane 0. -/
def withRegs (s : State) (rs : List (Nat × Nat)) : State := s.onThread 0 0 0 fun t => rs.foldl (fun t r => t.setReg r.1 (BitVec.ofNat 32 r.2)) t

/-! ## Words written out from the layouts of R201 and the opcode map -/

/-- The header of a word that ends its run, guarded by p7. -/
def hRun : Hdr := { b := true, n := false, p := 7 }
/-- Class 000, integer and logic (R222). -/
def words0a : List (BitVec 64 × Instr) := [
  (0x1C00060410000402, .iadd { rf 3 1 2 0 0x2 with fb := true }),
  (0x1C400A1BFFFFF800, .iaddI (imf 5 6 0xFFFFFE 0x0)),
  (0x1C01FF0108010007, .isub { rf 127 64 33 0 0x7 with ma := 1 }),
  (0x1C41020800000C01, .isubI (imf 1 2 0x3 0x1)),
  (0x1C020604104001C1, .iaddc (rf 3 1 2 4 0x1C1)),
  (0x1C03060410700041, .isubb (rf 3 1 2 7 0x41)),
  (0x1C04060410002004, .imul { rf 3 1 2 0 0x4 with mb := 2 }),
  (0x1C44122200000200, .imulI { imf 9 8 0x800000 0x0 with fa := true }),
  (0x1C05060410000001, .imulh (rf 3 1 2 0 0x1)),
  (0x1C06060410500203, .imad { rf 3 1 2 5 0x3 with fc := true }),
  (0x1C07080410600001, .imadw (rf 4 1 2 6 0x1)),
  (0x1C08060410000005, .imin (rf 3 1 2 0 0x5)),
  (0x1C480605FFFFFC01, .iminI (imf 3 1 0x7FFFFF 0x1)),
  (0x1C09060410000006, .imax (rf 3 1 2 0 0x6)),
  (0x1C49060400001400, .imaxI (imf 3 1 0x5 0x0)),
  (0x1C0A060400000002, .iabs (rf 3 1 0 0 0x2)),
  (0x1C0B060400000006, .ineg (rf 3 1 0 0 0x6)),
  (0x1C0C060410000045, .isat (rf 3 1 2 0 0x45)),
  (0x1C0D060410000001, .shl (rf 3 1 2 0 0x1)),
  (0x1C4D060400007C00, .shlI (imf 3 1 0x1F 0x0))]
theorem test_decode_words0a : ∀ e ∈ words0a, decode e.1 = .ok e.2 := by decide +kernel
/-- Class 000, integer and logic (R222). -/
def words0b : List (BitVec 64 × Instr) := [
  (0x1C0E060410000003, .shr (rf 3 1 2 0 0x3)),
  (0x1C4E060400008001, .shrI (imf 3 1 0x20 0x1)),
  (0x1C0F060410000000, .shra (rf 3 1 2 0 0x0)),
  (0x1C4F060400001C00, .shraI (imf 3 1 0x7 0x0)),
  (0x1C10060410000007, .rot (rf 3 1 2 0 0x7)),
  (0x1C50060400003400, .rotI (imf 3 1 0xD 0x0)),
  (0x1C110604104000C0, .shw (rf 3 1 2 4 0xC0)),
  (0x1C120604100B0000, .and { rf 3 1 2 0 0x0 with ma := 11 }),
  (0x1C520607FC03FC00, .andI (imf 3 1 0xFF00FF 0x0)),
  (0x1C13060410004000, .or { rf 3 1 2 0 0x0 with mb := 4 }),
  (0x1C530606AAAAA800, .orI (imf 3 1 0xAAAAAA 0x0)),
  (0x1C14060410000000, .xor (rf 3 1 2 0 0x0)),
  (0x1C54060400000400, .xorI (imf 3 1 0x1 0x0)),
  (0x1C15060410000000, .andn (rf 3 1 2 0 0x0)),
  (0x1C55060600000400, .andnI (imf 3 1 0x800001 0x0)),
  (0x1C160604104000E8, .lut3 (rf 3 1 2 4 0xE8)),
  (0x1C17060400000000, .popc (rf 3 1 0 0 0x0)),
  (0x1C18060400050000, .clz { rf 3 1 0 0 0x0 with ma := 5 }),
  (0x1C19060400000800, .brev { rf 3 1 0 0 0x0 with fa := true }),
  (0x1C1A060410000001, .bfx (rf 3 1 2 0 0x1))]
theorem test_decode_words0b : ∀ e ∈ words0b, decode e.1 = .ok e.2 := by decide +kernel
/-- Class 000, integer and logic (R222). -/
def words0c : List (BitVec 64 × Instr) := [
  (0x1C1B060410400000, .bfi (rf 3 1 2 4 0x0)),
  (0x1C1C0604104000C4, .dot4 (rf 3 1 2 4 0xC4)),
  (0x1C1D060410400087, .dot8 (rf 3 1 2 4 0x87)),
  (0x1C1E0C0410000141, .icmp (rf 6 1 2 0 0x141)),
  (0x1C5E0A0400002480, .icmpI (imf 5 1 0x9 0x80)),
  (0x1C1F060410500000, .sel (rf 3 1 2 5 0x0)),
  (0x1C20060400080000, .mov { rf 3 1 0 0 0x0 with ma := 8 }),
  (0x1C3007BD5B7DDE00, .movi { hdr := h7, dst := 3, imm := 0xDEADBEEF, x := 0 }),
  (0x1C31090000000200, .movh { hdr := h7, dst := 4, imm := 0x80000001, x := 0 }),
  (0x1C21081808000101, .lea (rf 4 6 1 0 0x101)),
  (0x1C61081BFFFFFC80, .leaI (imf 4 6 0xFFFFFF 0x80)),
  (0x1C22081808000080, .ptrmk (rf 4 6 1 0 0x80)),
  (0x1C230618000000C0, .ptrfld (rf 3 6 0 0 0xC0)),
  (0x1C24020838400080, .plut (rf 1 2 7 4 0x80))]
theorem test_decode_words0c : ∀ e ∈ words0c, decode e.1 = .ok e.2 := by decide +kernel
/-- Class 001, floating point and conversion (R223). -/
def words1a : List (BitVec 64 × Instr) := [
  (0x1C80060410000038, .fadd (rf 3 1 2 0 0x38)),
  (0x1C81060410000019, .fsub (rf 3 1 2 0 0x19)),
  (0x1C8206041000002A, .fmul (rf 3 1 2 0 0x2A)),
  (0x1C8306041040000B, .ffma (rf 3 1 2 4 0xB)),
  (0x1C84060410000008, .fmin (rf 3 1 2 0 0x8)),
  (0x1C8506041000000C, .fmax (rf 3 1 2 0 0xC)),
  (0x1C86060400000018, .frcp (rf 3 1 0 0 0x18)),
  (0x1C87060400000018, .frsq (rf 3 1 0 0 0x18)),
  (0x1C88060400000018, .fsqrt (rf 3 1 0 0 0x18)),
  (0x1C89060400000009, .fexp2 (rf 3 1 0 0 0x9)),
  (0x1C8A060400000009, .flog2 (rf 3 1 0 0 0x9)),
  (0x1C8B060400000009, .fsin (rf 3 1 0 0 0x9)),
  (0x1C8C060400000009, .fcos (rf 3 1 0 0 0x9)),
  (0x1C8D060400000009, .ftanh (rf 3 1 0 0 0x9)),
  (0x1C8E060400000009, .fclass (rf 3 1 0 0 0x9)),
  (0x1C8F060410000028, .fscale (rf 3 1 2 0 0x28)),
  (0x1C900A04100001C8, .fcmp (rf 5 1 2 0 0x1C8)),
  (0x1C9106041040001A, .fdot2 (rf 3 1 2 4 0x1A)),
  (0x1C98060410800009, .fcvt (rf 3 1 2 8 0x9)),
  (0x1C9906040020000A, .icvt (rf 3 1 0 2 0xA))]
theorem test_decode_words1a : ∀ e ∈ words1a, decode e.1 = .ok e.2 := by decide +kernel
/-- Class 001, floating point and conversion (R223). -/
def words1b : List (BitVec 64 × Instr) := [
  (0x1C9A060400800011, .fcvti (rf 3 1 0 8 0x11)),
  (0x1C9C0604106001C8, .npack (rf 3 1 2 6 0x1C8)),
  (0x1C9D06040060005B, .nunpack (rf 3 1 0 6 0x5B))]
theorem test_decode_words1b : ∀ e ∈ words1b, decode e.1 = .ok e.2 := by decide +kernel
/-- Class 010, load, store, AMO and fence (R224). -/
def words2a : List (BitVec 64 × Instr) := [
  (0x1D0008201FFFFD96, .ld (mf 4 8 3 0x1FFFF 0x196)),
  (0x1D01062000000100, .ldsx (mf 3 8 0 0x0 0x100)),
  (0x1D020820000021E3, .st (mf 4 8 0 0x8 0x1E3)),
  (0x1D03062028000840, .ldx (mf 3 8 5 0x2 0x40)),
  (0x1D04062028000080, .stx (mf 3 8 5 0x0 0x80)),
  (0x1D050620000002C0, .ldc { mf 3 8 0 0x0 0xC0 with fa := true }),
  (0x1D06002000010040, .pref (mf 0 8 0 0x40 0x40)),
  (0x1D07062028000118, .ldRem (mf 3 8 5 0x0 0x118)),
  (0x1D100C2000000100, .amoAdd (mf 6 8 0 0x0 0x100)),
  (0x1D110C2000000100, .amoMin (mf 6 8 0 0x0 0x100)),
  (0x1D120C2000000100, .amoMax (mf 6 8 0 0x0 0x100)),
  (0x1D130C2000000100, .amoAnd (mf 6 8 0 0x0 0x100)),
  (0x1D140C2000000100, .amoOr (mf 6 8 0 0x0 0x100)),
  (0x1D150C2000000100, .amoXor (mf 6 8 0 0x0 0x100)),
  (0x1D160C2000000100, .amoExch (mf 6 8 0 0x0 0x100)),
  (0x1D170C2000000100, .amoFadd (mf 6 8 0 0x0 0x100)),
  (0x1D18000000000038, .fence (mf 0 0 0 0x0 0x38)),
  (0x1D19000000005004, .waitc (ef 0 0 0 0 0x5 0x4)),
  (0x1D1A002000000800, .waitt { ef 0 8 0 0 0x0 0x0 with fa := true }),
  (0x1D1B3C0000000000, .rdgtc (rf 30 0 0 0 0x0))]
theorem test_decode_words2a : ∀ e ∈ words2a, decode e.1 = .ok e.2 := by decide +kernel
/-- Class 010, load, store, AMO and fence (R224). -/
def words2b : List (BitVec 64 × Instr) := [
  (0x1D1C000000000000, .invl1 (rf 0 0 0 0 0x0)),
  (0x1D08002018000000, .granset (ef 0 8 3 0 0x0 0x0)),
  (0x1D09002018000400, .granclr { ef 0 8 3 0 0x0 0x0 with fb := true })]
theorem test_decode_words2b : ∀ e ∈ words2b, decode e.1 = .ok e.2 := by decide +kernel
/-- Class 011, engines, channels and allotment (R225). -/
def words3 : List (BitVec 64 × Instr) := [
  (0x1D80060820600121, .sload (ef 3 2 4 6 0x0 0x121)),
  (0x1D81060820601000, .sstore (ef 3 2 4 6 0x1 0x0)),
  (0x1D82060820600000, .sgather (ef 3 2 4 6 0x0 0x0)),
  (0x1D830608206001FF, .sscatter (ef 3 2 4 6 0x0 0x1FF)),
  (0x1D84000800600000, .spref (ef 0 2 0 6 0x0 0x0)),
  (0x1D88060800001000, .bcopy (ef 3 2 0 0 0x1 0x0)),
  (0x1D89060800000000, .bfill (ef 3 2 0 0 0x0 0x0)),
  (0x1D9000240000F007, .chsend (ef 0 9 0 0 0xF 0x7)),
  (0x1D90002000002100, .chsendS (ef 0 8 0 0 0x2 0x100)),
  (0x1D9112000000300F, .chrecv (ef 9 0 0 0 0x3 0xF)),
  (0x1D91002000002100, .chrecvS (ef 0 8 0 0 0x2 0x100)),
  (0x1D92120000004000, .chpoll (ef 9 0 0 0 0x4 0x0)),
  (0x1D9800001801F0D0, .takeR (ef 0 0 3 0 0x1F 0xD0)),
  (0x1D99120000002080, .takeS (ef 9 0 0 0 0x2 0x80)),
  (0x1D9A120018402100, .takeK (ef 9 0 3 4 0x2 0x100)),
  (0x1D9C000018001000, .giveR (ef 0 0 3 0 0x1 0x0)),
  (0x1D9D000018001000, .giveS (ef 0 0 3 0 0x1 0x0)),
  (0x1D9E000018001000, .giveK (ef 0 0 3 0 0x1 0x0))]
theorem test_decode_words3 : ∀ e ∈ words3, decode e.1 = .ok e.2 := by decide +kernel
/-- Class 100, matrix and transactions (R226). -/
def words4 : List (BitVec 64 × Instr) := [
  (0x1E00000000000010, .mxclaim (ef 0 0 0 0 0x0 0x10)),
  (0x1E01000000403300, .mxfree { ef 0 0 0 4 0x3 0x100 with fc := true }),
  (0x1E02002000001000, .mxldb (ef 0 8 0 0 0x1 0x0)),
  (0x1E03122860E05100, .mxmul (ef 9 10 12 14 0x5 0x100)),
  (0x1E04064000000000, .mxdrain (ef 3 16 0 0 0x0 0x0)),
  (0x1E05000018000000, .mxzero (ef 0 0 3 0 0x0 0x0)),
  (0x1E06062028000000, .mxsave (ef 3 8 5 0 0x0 0x0)),
  (0x1E07062028000000, .mxrest (ef 3 8 5 0 0x0 0x0)),
  (0x1E08280028000003, .mxrd (ef 20 0 5 0 0x0 0x3)),
  (0x1E0900502800001F, .mxwr (ef 0 20 5 0 0x0 0x1F)),
  (0x1E10002018600000, .txbegin (ef 0 8 3 6 0x0 0x0)),
  (0x1E11000000000000, .txend (ef 0 0 0 0 0x0 0x0)),
  (0x1E11000000402180, .txendG (ef 0 0 0 4 0x2 0x180)),
  (0x1E120000000AB000, .txabort (ef 0 0 0 0 0xAB 0x0))]
theorem test_decode_words4 : ∀ e ∈ words4, decode e.1 = .ok e.2 := by decide +kernel
/-- Class 101, branch and divergence (R227). -/
def words5 : List (BitVec 64 × Instr) := [
  (0x9E80FFFFFFFFFC00, .bra { bf 0x3FFFFFFFFF 0x0 with hdr := hRun }),
  (0x9E81000000000400, .bru { bf 0x1 0x0 with hdr := hRun }),
  (0x9E820000BFFFFC01, .brd { bf 0x2FFFFF 0x1 with hdr := hRun }),
  (0x9E83000000000000, .join { rf 0 0 0 0 0x0 with hdr := hRun }),
  (0x9E84002000000000, .brx { rf 0 8 0 0 0x0 with hdr := hRun }),
  (0x9E85000000000800, .call { bf 0x2 0x0 with hdr := hRun }),
  (0x9E86007800000000, .ret { rf 0 30 0 0 0x0 with hdr := hRun }),
  (0x9E87000000000000, .exit { rf 0 0 0 0 0x0 with hdr := hRun }),
  (0x1E88000000000000, .nop (rf 0 0 0 0 0x0)),
  (0x1E89000000000000, .yield (rf 0 0 0 0 0x0))]
theorem test_decode_words5 : ∀ e ∈ words5, decode e.1 = .ok e.2 := by decide +kernel
/-- Class 110, gang, barrier, ring and launch (R228). -/
def words6 : List (BitVec 64 × Instr) := [
  (0x1F0000000001F000, .gjoin (ef 0 0 0 0 0x1F 0x0)),
  (0x1F01000000001000, .gleave (ef 0 0 0 0 0x1 0x0)),
  (0x1F02061400002021, .gvote (ef 3 5 0 0 0x2 0x21)),
  (0x1F03060410402103, .gshfl (ef 3 1 2 4 0x2 0x103)),
  (0x1F04060400002080, .gred (ef 3 1 0 0 0x2 0x80)),
  (0x1F05060000002070, .gelect (ef 3 0 0 0 0x2 0x70)),
  (0x1F0800001803F000, .barinit (ef 0 0 3 0 0x3F 0x0)),
  (0x1F09060000001000, .bararr (ef 3 0 0 0 0x1 0x0)),
  (0x1F0A000018001000, .barwait (ef 0 0 3 0 0x1 0x0)),
  (0x1F0B000000001000, .barsync (ef 0 0 0 0 0x1 0x0)),
  (0x1F0C000000001000, .bardrop (ef 0 0 0 0 0x1 0x0)),
  (0x1F100000000FF000, .ringinit (ef 0 0 0 0 0xFF 0x0)),
  (0x1F11000000021000, .rput (ef 0 0 0 0 0x21 0x0)),
  (0x1F12000000021001, .rget (ef 0 0 0 0 0x21 0x1)),
  (0x1F1300000000F000, .rfree (ef 0 0 0 0 0xF 0x0)),
  (0x1F18042860000000, .launch (ef 2 10 12 0 0x0 0x0)),
  (0x1F18042860000001, .launchPod (ef 2 10 12 0 0x0 0x1)),
  (0x1F19100000000050, .fetcht (ef 8 0 0 0 0x0 0x50)),
  (0x1F1A062050000000, .cancel (ef 3 8 10 0 0x0 0x0)),
  (0x1F1B061400000000, .nodesig (ef 3 5 0 0 0x0 0x0))]
theorem test_decode_words6 : ∀ e ∈ words6, decode e.1 = .ok e.2 := by decide +kernel
/-- Class 111, system (R229). -/
def words7 : List (BitVec 64 × Instr) := [
  (0x1F80080000014400, .rdsr (imf 4 0 0x51 0x0)),
  (0x1F81001400004000, .wrsr (imf 0 5 0x10 0x0)),
  (0x1F82000000008400, .trap (imf 0 0 0x21 0x0)),
  (0x1F83000000000000, .eret (rf 0 0 0 0 0x0)),
  (0x1F8400000003FC00, .bkpt (imf 0 0 0xFF 0x0)),
  (0x1F85060410000000, .wlatch (rf 3 1 2 0 0x0)),
  (0x1F86002018000000, .tlbinvPage (ef 0 8 3 0 0x0 0x0)),
  (0x1F86000018000001, .tlbinvAsid (ef 0 0 3 0 0x0 0x1)),
  (0x1F86000000000002, .tlbinvAll (ef 0 0 0 0 0x0 0x2)),
  (0x1F87000000000000, .halt (rf 0 0 0 0 0x0))]
theorem test_decode_words7 : ∀ e ∈ words7, decode e.1 = .ok e.2 := by decide +kernel
/-- A dual word: ADD g3, g4 in the low half and MOV g5, g6 in the high half (R217, R218). -/
theorem test_decode_dual : decode 0x41A1430000418400 = .ok (.dualWord { b := false, hi := { ps := 0, op := 0x0D, d := 5, s := 6, ms := 0, fs := false, t := 0 }, lo := { ps := 0, op := 1, d := 3, s := 4, ms := 0, fs := false, t := 0 } }) := by decide +kernel

/-! ## Witnesses: compute words -/

theorem test_ready_registers : one.RegsReady h7 (List.range 32) := ready_of (by decide +kernel)
theorem test_integer_words : (rf 30 0 2 28 1).ty.toNat ≤ 1 ∧ one.RegsReady h7 [0, 2, 28, 29, 30, 31] := ⟨by decide, ready_of (by decide +kernel)⟩
theorem test_compares : (rf 6 0 2 0 0x141).ty.toNat ≤ 1 ∧ (rf 6 0 2 0 0x141).q.toNat ≤ 5 := by decide
theorem test_plut : (Instr.plut (rf 1 2 7 4 0x80)).wellFormed = true := by decide
theorem test_float_types : ∀ ty ∈ [8, 9, 10, 11, 12], (rf 1 2 3 0 (BitVec.ofNat 9 ty)).ty.toNat = ty := by decide
theorem test_float_minmax : (Instr.fmin (rf 1 2 3 0 8)).wellFormed = true ∧ (Instr.fmax (rf 1 2 3 0 12)).wellFormed = true := by decide
theorem test_conversions : (∃ f : FmtR, (fcvtRow f.ty.toNat f.srcTy).isSome = true) ∧ ∃ f : FmtR, fcvtiRow f.ty.toNat f.srcTy = true := ⟨⟨rf 1 2 3 12 8, by decide⟩, ⟨rf 1 2 3 8 0, by decide⟩⟩
theorem test_rdgtc : (Instr.rdgtc (rf 30 0 0 0 0)).wellFormed = true ∧ one.RegsReady h7 [30, 31] := ⟨by decide, ready_of (by decide +kernel)⟩
/-- A descriptor that R167 admits, one that it does not (PR = 0), and one with E = 4, which NUNPACK to .i32 refuses. -/
def packed (d : Word) : State := one.onThread 0 0 0 fun t => t.setReg 6 d
theorem narrow_of {d : Word} {q : Nat} (b : Bool) (h : NarrowFormat b q d) (ha : (packed d).active h7 = [0]) (hr : ((packed d).curThread 0).reg 6 = d) : ∀ l ∈ (packed d).active h7, NarrowFormat b q (((packed d).curThread l).reg 6) := by
  intro l hl
  rw [ha, List.mem_singleton] at hl
  subst hl
  rw [hr]
  exact h
theorem test_npack_format : (∀ l ∈ (packed 0x80007100).active h7, NarrowFormat true 0 (((packed 0x80007100).curThread l).reg 6)) ∧
    (∀ l ∈ (packed 0xA0073900).active h7, NarrowFormat false 3 (((packed 0xA0073900).curThread l).reg 6)) ∧ (packed 0xA0073900).RegsReady h7 [1, 2, 6, 7, 3] :=
  ⟨narrow_of true (by constructor <;> decide) (by decide +kernel) (by decide +kernel), narrow_of false (by constructor <;> decide) (by decide +kernel) (by decide +kernel), ready_of (by decide +kernel)⟩
theorem test_npack_refused : LowestNot (packed 0) h7 0 (fun l => NarrowFormat true 0 (((packed 0).curThread l).reg 6)) := by
  refine ⟨by decide +kernel, fun h => ?_, fun k _ hk => absurd hk (Nat.not_lt_zero k)⟩
  exact absurd h.present.1 (by decide +kernel)
theorem test_nunpack_integer : LowestNot (packed 0xA0073900) h7 0 (fun l => NarrowFormat false 0 (((packed 0xA0073900).curThread l).reg 6) ∧ ((0 : BitVec 4) = 0 → bits (((packed 0xA0073900).curThread l).reg 6).toNat 11 9 = 0)) := by
  refine ⟨by decide +kernel, fun h => ?_, fun k _ hk => absurd hk (Nat.not_lt_zero k)⟩
  exact absurd (h.2 rfl) (by decide +kernel)
/-- IADD g3, g4 beside a guarded ISUB g5, g3. -/
def dualF : FmtD := { b := false, hi := { ps := 0, op := 1, d := 3, s := 4, ms := 0, fs := false, t := 0 }, lo := { ps := 1, op := 2, d := 5, s := 3, ms := 0, fs := false, t := 0 } }
theorem test_dual_word : (Instr.dualWord dualF).wellFormed = true ∧ ∀ l ∈ one.curLanes, ∀ h ∈ [dualF.hi, dualF.lo], ∀ r ∈ halfRegs h,
    (if one.curKind = .booth then r < 32 else (one.curThread l).mapped one.curKind r = true) ∧ (one.curThread l).empty.getLsbD r = false := by decide +kernel

/-! ## Witnesses: branches, special registers, traps -/

theorem test_bru_agrees : ∀ l ∈ two.curLanes, ∀ k ∈ two.curLanes, guardVal h7 (two.curThread l).preds = guardVal h7 (two.curThread k).preds := by decide +kernel
/-- A branch guarded by p0. -/
def bf0 (o : BitVec 38) (x : BitVec 9) : FmtB := { hdr := h0, off := o, bit9 := false, x := x }
theorem test_bru_differs : splitLanes.curLanes.head? = some 0 ∧ splitLanes.curLanes.find? (fun j => guardVal (bf0 4 0).hdr (splitLanes.curThread j).preds != guardVal (bf0 4 0).hdr (splitLanes.curThread 0).preds) = some 1 := by decide +kernel
/-- Eight entries on the join stack. -/
def nested (s : State) : State := s.onStripe 0 0 fun t => { t with join := List.replicate 8 { pc := 64, mask := 3 } }
theorem test_brd_pushes : splitLanes.cur.lanes ≠ 0 ∧ splitLanes.curStripe.serial = false ∧ splitLanes.curStripe.join.length < 8 ∧ (bf0 4 0).x.getLsbD 0 = false := by decide +kernel
theorem test_brd_seven_entries : (two.onStripe 0 0 fun t => { t with join := List.replicate 7 { pc := 64, mask := 3 } }).curStripe.join.length < 8 := by decide +kernel
theorem test_brd_full : (nested splitLanes).cur.lanes ≠ 0 ∧ 8 ≤ (nested splitLanes).curStripe.join.length ∧ (∀ l ∈ (nested splitLanes).curLanes, ((nested splitLanes).curThread l).lov < 255) := by decide +kernel
theorem test_brd_overflow : let s := (nested splitLanes).onThread 0 0 1 fun t => { t with lov := 255 }
    8 ≤ s.curStripe.join.length ∧ s.curLanes.find? (fun l => decide (255 ≤ (s.curThread l).lov)) = some 1 := by decide +kernel
theorem test_brd_ejects : splitLanes.cur.lanes ≠ 0 ∧ splitLanes.curStripe.serial = false ∧ splitLanes.curStripe.join.length < 8 ∧ (bf0 4 1).x.getLsbD 0 = true ∧
    minority (splitLanes.curLanes.filter fun l => guardVal (bf0 4 1).hdr (splitLanes.curThread l).preds) (splitLanes.curLanes.filter fun l => !guardVal (bf0 4 1).hdr (splitLanes.curThread l).preds) = [0] ∧
    splitLanes.mayEject [0] = true ∧ (split (bf0 4 1) splitLanes).boothFor splitLanes.cur.unit = some (3072, 0) ∧ 3072 ≠ splitLanes.cur.unit := by decide +kernel
theorem test_call_registers : one.RegsReady h7 [30, 31] := ready_of (by decide +kernel)
theorem test_brx_aligned_or_not : (∀ l ∈ one.active h7, ((one.curThread l).pair 2).toNat % 8 = 0) ∧
    ((one.onThread 0 0 0 fun t => t.setReg 2 4).active h7).find? (fun l => (((one.onThread 0 0 0 fun t => t.setReg 2 4).curThread l).pair 2).toNat % 8 != 0) = some 0 := by decide +kernel
/-- Lane 0 issues the JOIN of the top entry, which holds lanes 0 and 1; a says which have arrived. -/
def joining (a : LaneMask) : State := (one.onStripe 0 0 fun t => { t with join := [{ pc := 0, mask := 3, arrived := a }] }).onThread 0 0 1 fun t => { t with status := .joined }
theorem test_join_waits_and_completes : (joining 0).curStripe.serial = false ∧ (joining 0).curStripe.join = [{ pc := (joining 0).cur.pc, mask := 3, arrived := 0 }] ∧
    (3 : LaneMask) &&& ~~~(0 ||| (joining 0).cur.lanes) ≠ 0 ∧ (joining 2).curStripe.join = [{ pc := (joining 2).cur.pc, mask := 3, arrived := 2 }] ∧
    (3 : LaneMask) &&& ~~~(2 ||| (joining 2).cur.lanes) = 0 ∧ (∀ l ∈ (joining 2).curLanes, (3 : LaneMask).getLsbD l = true) := by decide +kernel
theorem test_join_passes : one.curStripe.serial = false ∧ ∀ e ∈ one.curStripe.join, ∀ l ∈ one.curLanes, e.mask.getLsbD l = false := by decide +kernel
theorem test_exit_and_yield : one.curKind ≠ .booth ∧ (∀ l ∈ one.active h7, (one.curThread l).deferred = none) ∧ one.active h7 ≠ [] ∧ one.active h0 = [] := by decide +kernel
theorem test_special_registers : one.curKind ≠ .booth ∧ srWide (imf 6 4 0x020 0).sr = some false ∧ srWide (imf 6 4 0x053 0).sr = some true ∧ (one.active h7).head? = some 0 ∧ one.curPriv ≠ .u := by decide +kernel
theorem test_special_registers_ready : one.RegsReady h7 [6, 7] ∧ one.LanesReady [0] [4, 5] := ⟨ready_of (by decide +kernel), lanesReady_of (by decide +kernel)⟩
theorem test_special_registers_host : (atUnit 0xE00 .k).curKind = .host ∧ ((atUnit 0xE00 .h).active h7).head? = some 0 ∧ (atUnit 0xE00 .h).curPriv = .h ∧ (sim 1 .u 0).curPriv = .u ∧ ((sim 1 .u 0).active h7).head? = some 0 := by decide +kernel
theorem test_trap_number : (Instr.trap (imf 0 0 255 0)).wellFormed = true ∧ (Instr.bkpt (imf 0 0 0 0)).wellFormed = true ∧ (one.active h7).head? = some 0 := by decide +kernel
/-- The page that holds the trap record is writable at K. -/
theorem test_trap_is_taken : ∃ r, one.curKind = .simt ∧ (∀ l ∈ one.curLanes, (one.curThread l).tx.depth = 0) ∧ one.curStripe.xin = false ∧
    one.writeTrapRecord one.cur.unit one.cur.stripe 0 one.cur.pc.toNat { cause := 0x19 } = some r :=
  (Option.isSome_iff_exists.mp (by decide +kernel : (one.writeTrapRecord one.cur.unit one.cur.stripe 0 one.cur.pc.toNat { cause := 0x19 }).isSome = true)).imp
    fun _ h => ⟨by decide +kernel, by decide +kernel, by decide +kernel, h⟩
/-- Trapped in its handler, at K. -/
def inHandler : State := one.onStripe 0 0 fun t => { t with xin := true, xgroup := 1 }
theorem test_trap_in_handler : inHandler.curKind = .simt ∧ (∀ l ∈ inHandler.curLanes, (inHandler.curThread l).tx.depth = 0 ∧ (inHandler.curThread l).deferred = none) ∧
    inHandler.curStripe.xin = true ∧ (inHandler.curThread 0).priv = (inHandler.curThread 0).priv.target ∧ (inHandler.active h7).head? = some 0 ∧ inHandler.curPriv ≠ .u := by decide +kernel
theorem test_halt : (atUnit 0xE00 .k).curKind = .host ∧ ((atUnit 0xE00 .k).active h7).head? = some 0 ∧ (atUnit 0xE00 .k).curPriv ≠ .u ∧ (atUnit 0xE00 .u).curPriv = .u ∧
    ((atUnit 0xE00 .u).active h7).head? = some 0 ∧ fwCore.curKind = .func ∧ (atUnit 0x1610 .k).curKind = .root ∧ (atUnit 0xC00 .u).curKind = .booth := by decide +kernel

/-- The firmware core with a unit in g2 and world w in g3. -/
def latching (u w : Nat) : State := fwCore.onThread 0x1600 0 0 fun t => (t.setReg 2 (BitVec.ofNat 32 u)).setReg 3 (BitVec.ofNat 32 w)
theorem test_wlatch_ready : (latching 1 0).curKind = .func ∧ (latching 1 0).active h7 = [0] ∧ ((latching 1 0).curThread 0).done = false := by decide +kernel
theorem test_wlatch_registers : (latching 1 0).RegsReady h7 [2, 3, 4] := ready_of (by decide +kernel)
/-- World 1 is not in the mask; core 0 has a team; core 1 is free. -/
theorem test_wlatch_clauses : (latching 1 1).partOf 1 = some 0 ∧ ((latching 1 1).part 0).wmask.getLsbD 1 = false ∧ ((latching 1 0).part 0).wmask.getLsbD 0 = true ∧
    kindOf 1 = .simt ∧ 1 ∈ (latching 1 0).coresOf (sliceOf 1) ∧ (latching 0 0).latchBusy 0 = true ∧ (latching 1 0).latchBusy 1 = false := by decide +kernel
theorem test_tlbinv : one.curKind = .simt ∧ (one.active h7).head? = some 0 ∧ one.curPriv ≠ .u ∧ (one.curThread 0).done = false := by decide +kernel
theorem test_tlbinv_registers : one.LanesReady [0] [2, 3, 4] := lanesReady_of (by decide +kernel)
theorem test_tlbinv_second : let s := one.onThread 0 0 0 fun t => { t with done := true }
    s.curKind = .simt ∧ (s.active h7).head? = some 0 ∧ (s.curThread 0).done = true ∧ ∀ v ∈ (s.core s.cur.unit).invals, v.stripe ≠ s.cur.stripe := by decide +kernel

/-! ## Witnesses: memory words -/

/-- ST.32 of g4 at g2:g3 with qualifiers. -/
def m32 (q : BitVec 9) : FmtM := mf 4 2 0 0 (0x100 ||| q)
theorem unhindered_of (s : State) (f : FmtM) (rs : List Nat) (rel : Option Nat)
    (h : (readyB s (s.active f.hdr) rs && (List.range 32).all (fun l => (s.curThread l).tx.depth == 0) && decide (s.active f.hdr ≠ []) && decide (s.granq = []) && decide (s.waitFor true rel = none)) = true) :
    Unhindered s f rs rel := by
  simp only [Bool.and_eq_true, decide_eq_true_eq, List.all_eq_true, List.mem_range, beq_iff_eq] at h
  obtain ⟨⟨⟨⟨h1, h2⟩, h3⟩, h4⟩, h5⟩ := h
  exact ⟨h3, h2, h4, lanesReady_of h1, h5⟩
theorem test_store_unhindered : Unhindered (pointing 0x100) (m32 0) ((m32 0).addrRegs true ++ (m32 0).dataRegs) (relOf (pointing 0x100) (m32 0)) := unhindered_of _ _ _ _ (by decide +kernel)
/-- Checks pass at a place, and hold there. -/
def passes (p : State) (f : FmtM) (k : AccKindReq) (scale : Nat) (good : State → List LaneAcc → Bool) : Prop :=
  ∃ s1 accs, p.resolve k (fun _ => false) (lanesAt p f true scale) = (s1, .ok accs) ∧ good s1 accs = true
/-- A store to the first byte behind the window, to a page below it, and to the first and the last word of the scratchpad. -/
theorem test_store_global : passes (pointing 0) (m32 0) ((pointing 0).accReq 4 true 0 false false) 1 fun s1 accs => decide (s1.clearingBank 4 accs = none) && accs.all fun a => decide (a.x.pa = windowEnd) := of_got (by decide +kernel)
def windowed : State := (pointing 0).onCore 0 fun c => { c with tlb := [{ vpn := 0, level := 0, asid := 0, leaf := BitVec.ofNat 64 (2 ^ 63 + 1023 * 8192 + 0xFC0) }] }
theorem test_store_window : passes windowed (m32 0) (windowed.accReq 4 true 0 false false) 1 fun s1 accs => decide (s1.clearingBank 4 accs = none) && accs.all fun a => decide (a.x.pa < windowEnd) := of_got (by decide +kernel)
def inSpad (off : Nat) (accs : List LaneAcc) : Bool := accs.all fun a => decide (a.place = .spad 0 off)
theorem test_store_spad_first : passes (pointing (spadAt 0)) (m32 0) ((pointing (spadAt 0)).accReq 4 true 0 false false) 1 fun s1 accs => decide (s1.clearingBank 4 accs = none) && inSpad 0 accs := of_got (by decide +kernel)
theorem test_store_spad_last : passes (pointing (spadAt 0x1FFFFC)) (m32 0) ((pointing (spadAt 0x1FFFFC)).accReq 4 true 0 false false) 1 fun s1 accs => decide (s1.clearingBank 4 accs = none) && inSpad 0x1FFFFC accs := of_got (by decide +kernel)
/-- A qualified store to an empty granule. -/
def emptyGranule : State := (pointing (spadAt 32)).onCore 0 fun c => c.setFull 2 false
theorem test_store_qualified : (m32 1).gq = 1 ∧ (m32 1).ord = 0 ∧ emptyGranule.active h7 = [0] ∧ (emptyGranule.core 0).full (32 / 16) = false ∧ emptyGranule.granq = [] := by decide +kernel
theorem test_store_qualified_checks : passes emptyGranule (m32 1) (emptyGranule.accReq 4 true 1 false false) 1 fun _ accs =>
    decide (accs.length = 1) && inSpad 32 accs && decide (emptyGranule.clearingBank 4 accs = none) := of_got (by decide +kernel)
theorem test_amo_unhindered : Unhindered (pointing 0x100) (m32 0) ((m32 0).addrRegs true ++ [4]) (relOf (pointing 0x100) (m32 0)) := unhindered_of _ _ _ _ (by decide +kernel)
/-- An AMO at memory and one at the scratchpad. -/
theorem test_amo_checks : ∀ ptr ∈ [0x100, spadAt 16], passes (pointing ptr) (m32 0) ((pointing ptr).accReq 4 true 0 false true) 1 fun s1 accs =>
    decide (s1.clearingBank 4 accs = none) && (got (s1.checkPoison 3 4 accs)).isSome := by
  intro ptr h
  simp only [List.mem_cons, List.not_mem_nil, or_false] at h
  rcases h with rfl | rfl <;> exact of_got (by decide +kernel)
theorem test_loads_unhindered : Unhindered (pointing 0x100) (m32 0) ((m32 0).addrRegs true ++ (m32 0).dataRegs) none := unhindered_of _ _ _ _ (by decide +kernel)
/-- A load from memory and one from the scratchpad, without and with an acquire at .part. -/
theorem test_load_checks : ∀ ptr ∈ [0x100, spadAt 16], ∀ q ∈ [(0 : BitVec 9), 0x18],
    let s := pointing ptr
    let f := m32 q
    let acq := acqAt s f
    let s0 := s.acquireEffect (if acq = 2 then 2 else 0) (s.active f.hdr)
    ∃ s1 accs, s0.resolve (s0.accReq 4 false 0 false false) (fun a => !false && (s0.lineHit acq 4 a).isSome) (lanesAt s f true 1) = (s1, .ok accs) ∧
      (decide (s1.clearingBank 4 accs = none) && (got (s1.checkPoison acq 4 accs)).isSome) = true := by
  intro ptr h q hq
  simp only [List.mem_cons, List.not_mem_nil, or_false] at h hq
  rcases h with rfl | rfl <;> rcases hq with rfl | rfl <;> exact of_got (by decide +kernel)
/-- LDC of memory. -/
theorem test_ldc_checks : passes (pointing 0x100) (m32 0) ((pointing 0x100).accReq 4 false 0 true false) 1 fun s1 accs =>
    decide (s1.clearingBank 4 accs = none) && (got (s1.checkPoison 0 4 accs)).isSome := of_got (by decide +kernel)
theorem test_load_qualified : ∃ s1 accs, (pointing (spadAt 32)).resolve ((pointing (spadAt 32)).accReq 4 false 1 false false) (fun a => ((pointing (spadAt 32)).lineHit 0 4 a).isSome) (lanesAt (pointing (spadAt 32)) (m32 1) true 1) = (s1, .ok accs) ∧
    (decide (accs.length = 1) && inSpad 32 accs && decide ((pointing (spadAt 32)).clearingBank 4 accs = none ∧ ((pointing (spadAt 32)).core 0).full 2 = true ∧ (((pointing (spadAt 32)).core 0).readSram 32 4).2 = false)) = true := of_got (by decide +kernel)
theorem test_ldsx_checks : ∃ accs, (pointing (spadAt 16)).checkPlaces ((pointing (spadAt 16)).accReq 4 false 0 false false) (lanesAt (pointing (spadAt 16)) (m32 0) true 1) = .ok accs ∧
    decide ((pointing (spadAt 16)).clearingBank 4 accs = none ∧ accs.findSome? ((pointing (spadAt 16)).ldsxHeld (m32 0)) = none) = true := of_took (by decide +kernel)
/-- LDSX of a page that nothing maps: its translation fails. -/
def unmapped : State := pointing 0x10000000
theorem test_ldsx_untranslated : (unmapped.checkPlaces (unmapped.accReq 4 false 0 false false) (lanesAt unmapped (m32 0) true 1)).toOption = some [{ lane := 0, ptr := 0x10000000, place := .global 0x10000000 }] ∧
    (unmapped.xlatLane (unmapped.accReq 4 false 0 false false) 0 0x10000000 false).2.toOption = none := by decide +kernel
theorem test_ldrem_unhindered : Unhindered (pointing 0x100) (mf 4 2 6 0 0x100) ((mf 4 2 6 0 0x100).addrRegs false ++ [6] ++ (mf 4 2 6 0 0x100).dataRegs) none := unhindered_of _ _ _ _ (by decide +kernel)
theorem test_ldrem_rank : (pointing 0x100).promotion = none ∧ ((pointing 0x100).active h7).head? = some 0 ∧ (pointing 0x100).coreOfRank (pointing 0x100).curPart ((((pointing 0x100).curThread 0).reg 6).toNat % 512) = some 0 ∧
    ((pointing 0x100).core 0).world = (pointing 0x100).worldOf 0 0 0 ∧ (pointing 0x100).coreOfRank (pointing 0x100).curPart 16 = none := by decide +kernel
theorem test_ldrem_checks : ∃ s1 accs, (pointing 0x100).resolve ((pointing 0x100).accReq 4 false 0 false false) (fun _ => false) (lanesAt (pointing 0x100) (mf 4 2 6 0 0x100) false 1) = (s1, .ok accs) ∧
    (decide (s1.clearingBank 4 accs = none) && (got (s1.checkPoison 3 4 accs)).isSome) = true := of_got (by decide +kernel)
theorem test_ldrem_acknowledged : ((pointing 0x100).onCore 0 fun c => { c with promos := [{ stripe := 0, lanes := 1, home := 0, ids := [], target := none, acked := true }] }).promotion = some { stripe := 0, lanes := 1, home := 0, ids := [], target := none, acked := true } := by decide +kernel

/-! ## Witnesses: fences, waits, granules -/

theorem test_fence_nothing_late : (one.active h7).filter (fun l => one.pending 0 0 l true true true) = [] ∧ one.active h7 ≠ [] := by decide +kernel
/-- A store is under way. -/
def storing : State := one.onCore 0 fun c => { c with outq := [{ id := 0, kind := .store, stripe := 0, lane := 0, pa := windowEnd, va := 0, key := 0, size := 4 }] }
theorem test_fence_late : (storing.active h7).filter (fun l => storing.pending 0 0 l true true true) ≠ [] := by decide +kernel
theorem test_waitc : one.curKind ≠ .booth ∧ Tab.get one.curStripe.counters 0 0 ≤ (ef 0 0 0 0 0 0).imm8.toNat % 64 ∧
    0 < Tab.get (one.onStripe 0 0 fun t => { t with counters := Tab.set t.counters 0 1 }).curStripe.counters 0 0 := by decide +kernel
theorem test_waitt : ((pointing 0).curThread 0).pair 2 = 0 ∧ (pointing 1).gtc < (((pointing 1).curThread 0).pair 2).toNat := by decide +kernel
theorem test_waitt_registers : (pointing 0).RegsReady h7 [2, 3] := ready_of (by decide +kernel)
/-- A range that ends with its bank, and one granule more. -/
def granules (off : Nat) (n : BitVec 32) : State := (pointing (spadAt off)).onThread 0 0 0 fun t => t.setReg 4 n
theorem test_granset_checks : ∃ accs, (granules 65520 1).checkPlaces { n := 16, need := .read, qual := true } (((granules 65520 1).active h7).map fun l => (l, (((granules 65520 1).curThread l).pair 2).toNat)) = .ok accs ∧
    (inSpad 65520 accs && decide ((granules 65520 1).clearingBank 16 (accs.filter fun a => (((granules 65520 1).curThread a.lane).reg 4).toNat != 0) = none)) = true := of_took (by decide +kernel)
theorem test_granset_range : 65520 / 65536 = (65520 + 16 * 1 - 1) / 65536 ∧ 65520 / 65536 ≠ (65520 + 16 * 2 - 1) / 65536 := by decide
theorem test_granset_leaves_bank : ((granules 65520 2).spaceOf { n := 16, need := .read, qual := true } 0 (spadAt 65520)).toOption = some (.spad 0 65520) ∧ spadAt 65520 % 16 = 0 ∧ (granules 65520 2).active h7 = [0] := by decide +kernel
theorem test_granset_registers : (granules 65520 2).RegsReady h7 [2, 3, 4] := ready_of (by decide +kernel)

/-! ## Witnesses: engine commands -/

/-- A tensor record of 4 rows of 64 one-byte elements with a box of one row, its pointer in g2:g3, a scratchpad pointer in g6:g7 and zero in g8:g9. -/
def staging : State := withRegs (withBytes (pointing 0x200) 0x200 64 (0x1000 + 10 * 2 ^ 64 + 64 * 2 ^ 96 + 4 * 2 ^ 128 + 64 * 2 ^ 256 + 64 * 2 ^ 384 + 2 ^ 400)) [(6, 0), (7, 2 ^ 29)]
def stageF : FmtE := ef 10 2 6 8 0 0
theorem test_stage_ready : staging.curKind = .simt ∧ staging.active h7 ≠ [] ∧ (∀ l ∈ staging.active h7, (staging.curThread l).tx.depth = 0) ∧ staging.curPriv ≠ .u ∧ (staging.core 0).stageWait = [] := by decide +kernel
theorem test_stage_registers : staging.RegsReady h7 [2, 3, 6, 7, 8, 9, 10] := ready_of (by decide +kernel)
theorem test_stage_checks : ∃ p, staging.readBlocks 4 [10] ((staging.active h7).map fun l => (l, ((staging.curThread l).pair 2).toNat)) = .ok p ∧
    ((List.range 5).all fun op =>
      let ops := p.2.map fun x => p.1.stageOp op stageF x.1 x.2
      decide (ops.length = 1) && ops.all fun o => !o.badRecord && decide (p.1.stageSpad stageF o = none) && !((staging.curThread o.lane).reg 9).getLsbD 31) = true := of_took (by decide +kernel)
theorem test_stage_room : Tab.get staging.curStripe.counters 0 0 + 1 ≤ 63 ∧ Tab.get (staging.onStripe 0 0 fun t => { t with counters := [(0, 62)] }).curStripe.counters 0 0 + 1 ≤ 63 ∧ (staging.core 0).stage.length + 1 ≤ 64 := by decide +kernel
/-- At U with role C the role fails; with role S or V it is the stage's or another's. -/
theorem test_stage_role : ¬ ((sim 1 .u 2).curPriv ≠ .u ∨ (sim 1 .u 2).curStripe.role.toNat = 1) ∧ (sim 1 .u 1).curStripe.role.toNat = 1 ∧ (sim 1 .u 2).cur.lanes ≠ 0 := by decide +kernel
theorem test_stage_kinds : (atUnit 0xE00 .u).curKind = .host ∧ (atUnit 0x1600 .k).curKind = .func ∧ (atUnit 0xC00 .u).curKind = .booth := by decide +kernel
/-- A block that copies (fill 0) or fills (fill 1) n bytes, its pointer in g2:g3. -/
def carting (fill n : Nat) : State := withBytes (pointing 0x200) 0x200 64 (0x400 + 0x800 * 2 ^ 128 + n * 2 ^ 256 + fill * 2 ^ 384)
theorem test_barrow_ready : (carting 0 64).curKind = .simt ∧ (carting 0 64).curPriv ≠ .u ∧ (carting 0 64).active h7 = [0] ∧ ((carting 0 64).curThread 0).tx.depth = 0 ∧ ((carting 0 64).core 0).barrowWait = [] ∧
    ptrSpace (((carting 0 64).curThread 0).pair 2).toNat = 0 ∧ Tab.get (carting 0 64).curStripe.counters 3 0 + 1 ≤ 63 ∧ ((carting 0 64).barrow 0 0).ops.length + 1 ≤ 256 := by decide +kernel
theorem test_barrow_registers : (carting 0 64).RegsReady h7 [2, 3, 10] := ready_of (by decide +kernel)
theorem test_barrow_checks : ∀ n ∈ [0, 1], ∃ p, (carting n 64).readBlocks 4 [10] (((carting n 64).active h7).map fun l => (l, (((carting n 64).curThread l).pair 2).toNat)) = .ok p ∧
    decide (p.1.barrowCheck (p.2.map fun x => barrowOp p.1 (n == 1) x.1 x.2) (fun _ => 0x200) = none) = true := by
  intro n hn
  simp only [List.mem_cons, List.not_mem_nil, or_false] at hn
  rcases hn with rfl | rfl <;> exact of_took (by decide +kernel)
/-- LEN 0 is refused. -/
theorem test_barrow_refused : ∃ p, (carting 0 0).readBlocks 4 [10] (((carting 0 0).active h7).map fun l => (l, (((carting 0 0).curThread l).pair 2).toNat)) = .ok p ∧
    decide (p.1.barrowCheck (p.2.map fun x => barrowOp p.1 false x.1 x.2) (fun _ => 0x200) = some { cause := 0x17, dcode := 0x0E, lane := 0, addr := 0x200 }) = true := of_took (by decide +kernel)

/-! ## Witnesses: channels -/

def chan (credits : Nat) (gone : Bool) : Channel := { delta := 1, ssz := 0, nsl := 1, bank := 0, off := 0, credits := credits, toUnit := 1, fromUnit := 1, peerGone := gone, senderGone := gone }
/-- Core 0 with channel 0, whose other ends are on core 1, and a scratchpad pointer in g2:g3. -/
def linked (credits : Nat) (gone : Bool) : State :=
  ((pointing (spadAt 256)).onCore 0 fun c => { c with chans := [(0, chan credits gone)] }).onCore 1 fun c => { c with bmode := 0x5555555555555555, chans := [(0, chan 1 false)] }
/-- CHSEND or CHRECV of four registers at g10, and of a pointer. -/
def chanF (s : Bool) : FmtE := if s then ef 0 2 0 0 0 0x100 else ef 10 10 0 0 0 3
theorem chanReady_of (s : State) (f : FmtE) (l : Nat) (ch : Channel) (rs : List Nat)
    (h : (decide (s.curKind = .simt) && decide (s.active f.hdr = [l]) && decide ((s.curThread l).tx.depth = 0) && decide ((s.curThread l).done = false) && readyB s (s.active f.hdr) rs &&
      decide (took (s.chanCheck f [l]) = some ch)) = true) : ChanReady s f l ch rs := by
  simp only [Bool.and_eq_true, decide_eq_true_eq] at h
  obtain ⟨⟨⟨⟨⟨h1, h2⟩, h3⟩, h4⟩, h5⟩, h6⟩ := h
  refine ⟨h1, h2, h3, h4, lanesReady_of h5, ?_⟩
  cases hc : s.chanCheck f [l] <;> simp_all [took]
theorem test_chsend_ready : ∀ b ∈ [false, true], ∀ c ∈ [0, 1], ∀ g ∈ [false, true], ChanReady (linked c g) (chanF b) 0 (chan c g) (sendRegs (chanF b)) := by
  simp only [List.mem_cons, List.not_mem_nil, or_false, forall_eq_or_imp, forall_eq]
  refine ⟨⟨⟨?_, ?_⟩, ?_, ?_⟩, ⟨?_, ?_⟩, ?_, ?_⟩ <;> exact chanReady_of _ _ _ _ _ (by decide +kernel)
theorem test_chsend_slot : (((linked 1 false).core 0).readSram (spadPtr (chanF true) (linked 1 false) 0) 16).2 = false ∧ Tab.get (linked 1 false).curStripe.counters 4 0 < 63 ∧
    Tab.find ((linked 1 false).core 1).chans 0 = some (chan 1 false) := by decide +kernel
theorem test_chrecv_ready : ∀ b ∈ [false, true], ChanReady (linked 1 false) (chanF b) 0 (chan 1 false) (recvRegs (chanF b)) := by
  simp only [List.mem_cons, List.not_mem_nil, or_false, forall_eq_or_imp, forall_eq]
  exact ⟨chanReady_of _ _ _ _ _ (by decide +kernel), chanReady_of _ _ _ _ _ (by decide +kernel)⟩
/-- The head slot is full, or its granule is not. -/
def emptySlot (gone : Bool) : State := (linked 1 gone).onCore 0 fun c => c.setFull 0 false
theorem test_chrecv_slot : ((linked 1 false).core 0).slotFull (chan 1 false) 0 = true ∧ ((linked 1 false).core 0).clearing = [] ∧ (((linked 1 false).core 0).readSram 0 16).2 = false ∧
    ((emptySlot false).core 0).slotFull (chan 1 false) 0 = false ∧ (chan 1 false).closed = false ∧ (chan 1 true).closed = true := by decide +kernel
theorem test_chrecv_empty_ready : ∀ g ∈ [false, true], ChanReady (emptySlot g) (chanF false) 0 (chan 1 g) (recvRegs (chanF false)) := by
  simp only [List.mem_cons, List.not_mem_nil, or_false, forall_eq_or_imp, forall_eq]
  exact ⟨chanReady_of _ _ _ _ _ (by decide +kernel), chanReady_of _ _ _ _ _ (by decide +kernel)⟩
theorem test_chpoll : (linked 1 false).curKind = .simt ∧ ((linked 1 false).active h7).head? = some 0 ∧ Tab.find ((linked 1 false).core 0).chans 0 = some (chan 1 false) ∧ Tab.find (one.core 0).chans 0 = none := by decide +kernel

/-! ## Witnesses: gangs -/

/-- Lane 0 is a member of gang 0 and the core's till belongs to its context. -/
def member : State := (one.onCore 0 fun c => { c with kown := 0x80000000 }).onThread 0 0 0 fun t => { t with gangs := 1 }
def gangF (x : BitVec 9) : FmtE := ef 10 2 4 6 0 x
theorem member_till : TillOk member (gangF 0) := by unfold TillOk; decide +kernel
theorem member_matrix (c : Bool) : MatrixMayIssue c member (gangF 0).hdr := by
  refine ⟨⟨by decide +kernel, by decide +kernel⟩, Or.inl (by decide +kernel), fun l hl => ⟨?_, fun _ => ?_⟩⟩
  · exact (by decide +kernel : ∀ l ∈ member.active (gangF 0).hdr, (member.curThread l).deferred = none) l hl
  · exact (by decide +kernel : ∀ l ∈ member.active (gangF 0).hdr, member.claimOk l = true) l hl
theorem member_depth : ∀ l ∈ member.active (gangF 0).hdr, (member.curThread l).tx.depth ≤ 1 := by decide +kernel
theorem test_gang_words_arrive : ∀ w ∈ gangRows, MayArrive w (gangF 0) member 0xFFFFFFFF := by
  intro w hw
  have hp : w.pre member (gangF 0) := by
    simp only [gangRows, List.mem_cons, List.not_mem_nil, or_false] at hw
    rcases hw with rfl | rfl | rfl | rfl | rfl | rfl | rfl | rfl | rfl | rfl | rfl | rfl | rfl | rfl <;>
      first | trivial | exact member_till | exact member_matrix _ | exact ⟨member_matrix _, member_till⟩
  have hb : ∀ w ∈ gangRows, (readyB member (member.active (gangF 0).hdr) (w.regs (gangF 0) ++ (w.mreg (gangF 0)).toList) &&
      (member.active (gangF 0).hdr).all fun l => decide (w.maskOf (gangF 0) (member.curThread l) = 0xFFFFFFFF) && decide (l < 32)) = true := by decide +kernel
  have h := hb w hw
  rw [Bool.and_eq_true] at h
  refine ⟨by decide +kernel, by decide +kernel, by decide +kernel, lanesReady_of h.1, fun l hl => ?_, by decide +kernel, hp⟩
  have hl2 := List.all_eq_true.mp h.2 l hl
  simp only [Bool.and_eq_true, decide_eq_true_eq] at hl2
  refine ⟨hl2.1, ?_⟩
  have : ∀ k, k < 32 → (0xFFFFFFFF : LaneMask).getLsbD k = true := by decide
  exact this l hl2.2
theorem test_gang_closed_before : Tab.find (member.core 0).gangs 0 = none := by decide +kernel
/-- A rendezvous of a word and mask that awaits lane 0. -/
def openFor (w : GangRow) : Rendezvous := { word := w.key (gangF 0), mask := 0xFFFFFFFF, parts := [(0, 0), (0, 1)], arrivals := [] }
theorem test_gang_open_before : ∀ w ∈ gangRows, (openFor w).word = w.key (gangF 0) ∧ (openFor w).mask = 0xFFFFFFFF ∧ ∀ l ∈ member.active h7, (openFor w).awaits 0 l = true := by decide +kernel
/-- A mask of 0 in the register that names it leaves the lane out; without its membership bit it is no member. -/
theorem test_gang_left_out : ∀ w ∈ gangRows, (w.mreg (gangF 0x100)).isSome = true → (w.maskOf (gangF 0x100) (member.curThread 0)).getLsbD 0 = false := by decide +kernel
theorem test_gang_no_member : (one.curThread 0).gangs.getLsbD 0 = false ∧ one.active h7 = [0] ∧ ∀ w ∈ gangRows, (w.maskOf (gangF 0) (one.curThread 0)).getLsbD 0 = true := by decide +kernel
theorem test_gleave : member.curKind = .simt ∧ (∀ l ∈ member.active h7, (member.curThread l).gangs.getLsbD 0 = true) ∧ (one.active h7).find? (fun l => !(one.curThread l).gangs.getLsbD 0) = some 0 := by decide +kernel

/-! ## Witnesses: barriers and rings -/

/-- Barrier 0 of the team with EXP n and ARR a. -/
def barred (n a : Nat) : State := one.onCore 0 fun c => { c with barriers := [(0, { exp := n, arr := a })] }
theorem test_barrier_at : (barred 2 0).curKind = .simt ∧ (barred 2 0).active h7 = [0] ∧ (barred 2 0).barrierOf 0 0 = some (false, 0) ∧ (barred 2 0).pending 0 0 0 false false false = false := by decide +kernel
theorem test_barrier_registers : (barred 2 0).RegsReady h7 [4, 10] := ready_of (by decide +kernel)
theorem test_barrier_arrivals : (barred 2 0).barrier 0 (false, 0) = { exp := 2 } ∧ 0 + 1 ≠ ((barred 2 0).barrier 0 (false, 0)).exp ∧ 1 + 1 = ((barred 2 1).barrier 0 (false, 0)).exp ∧ (0, 0, 0) ∉ ((barred 2 0).barrier 0 (false, 0)).who := by decide +kernel
/-- Two lanes arrive together; with EXP 0 and with an arrival already made one is too many. -/
theorem test_barrier_all : (took (((barred 2 0).barrier 0 (false, 0)).arriveAll 0 0 false [0, 1])).isSome = true ∧ took (((barred 0 0).barrier 0 (false, 0)).arriveAll 0 0 false [0]) = none := by decide +kernel
theorem test_arcade_barrier : (one.onCore 0 fun c => { c with team := some { launch := 0, stripes := 1, csz := 1, members := [0, 1] } }).barrierOf 0 32 = some (true, 0) ∧ one.barrierOf 0 32 = none := by decide +kernel
/-- BARINIT counts at the ends of their range, and BARWAIT tokens that have and have not passed. -/
theorem test_barinit : ((withRegs (barred 2 0) [(4, 512)]).curThread 0).reg 4 = 512 ∧ ((withRegs (barred 2 0) [(4, 513)]).curThread 0).reg 4 = 513 ∧ ((barred 2 0).curThread 0).reg 4 = 0 := by decide +kernel
theorem test_barwait : 0 < (((barred 2 0).barrier 0 (false, 0)).ph - ((withRegs (barred 2 0) [(4, 0xFFFFFFFF)]).curThread 0).reg 4).toNat ∧
    (((barred 2 0).barrier 0 (false, 0)).ph - ((withRegs (barred 2 0) [(4, 0xFFFFFFFF)]).curThread 0).reg 4).toNat < 2 ^ 31 ∧ ¬ 0 < (((barred 2 0).barrier 0 (false, 0)).ph - ((barred 2 0).curThread 0).reg 4).toNat := by decide +kernel
/-- Ring 0 with two slots: slot 1 is its last. -/
def ringed : State := one.onCore 0 fun c => { c with rings := [(0, { ns := 2, ph := 2 })] }
theorem test_rings : Tab.find (ringed.core 0).rings 0 = some { ns := 2, ph := 2 } ∧ ((ef 0 0 0 0 0x10 0).imm8.toNat / 16 < 2) ∧ (ringed.core 0).ring 0 = { ns := 2, ph := 2 } ∧ (2 : BitVec 16).getLsbD 1 = (ef 0 0 0 0 0x10 1).x.getLsbD 0 ∧
    (2 : BitVec 16).getLsbD 1 ≠ (ef 0 0 0 0 0x10 0).x.getLsbD 0 ∧ 2 ≤ (ef 0 0 0 0 0x20 0).imm8.toNat / 16 ∧ (∀ l ∈ ringed.active h7, ringed.pending 0 0 l false false false = false) := by decide +kernel

/-- A lane that waits on ring 2, and one that RINGINIT of that ring has woken. -/
theorem test_ring_waiter : onRing 2 (.waiting (.ring 2 0 true)) = true ∧ (({ status := .waiting (.ring 2 0 true) } : Thread).ringGone 2) = { status := .ready, done := true } ∧
    (∃ l ∈ (one.onThread 0 0 0 fun t => { t with done := true }).active h7, ((one.onThread 0 0 0 fun t => { t with done := true }).curThread l).done = true) := by decide +kernel

/-! ## Witnesses: transactions -/

/-- A log region of one entry at g2:g3, its capacity in g6 and the abort target in g8:g9; lane 0 is at depth d. -/
def txState (d n : Nat) : State :=
  (withRegs (pointing (spadAt 1024)) [(6, 1), (8, 64)]).onThread 0 0 0 fun t =>
    if d = 0 then t else { t with tx := { depth := d, log := 1024, cap := 1, count := n, target := 64, check := { g := (List.range 32).map t.reg, preds := t.preds } } }
def txF : FmtE := ef 0 2 6 8 0 0
theorem test_txbegin : (txState 0 0).curKind = .simt ∧ (txState 0 0).active h7 = [0] ∧ (txState 0 0).txCheck txF (((txState 0 0).active h7).filter fun l => ((txState 0 0).curThread l).tx.depth == 0) = none ∧
    (∀ d ∈ [0, 1, 7], ((txState d 0).curThread 0).tx.depth ≠ 8) ∧ ((txState 8 0).curThread 0).tx.depth = 8 := by decide +kernel
theorem test_txbegin_registers : (txState 0 0).RegsReady h7 [2, 3, 6, 8, 9] := ready_of (by decide +kernel)
theorem test_txabort : ((txState 1 0).curThread 0).tx.depth ≠ 0 ∧ ((txState 1 0).curThread 0).tx.check.g.length = 32 ∧ ((txState 0 0).curThread 0).tx.depth = 0 := by decide +kernel
theorem test_txend : (txState 2 0).commits = [] ∧ ((txState 2 0).curThread 0).tx.depth ≠ 1 ∧ ((txState 1 0).curThread 0).tx.count = 0 ∧ ((txState 1 1).curThread 0).tx.count ≠ 0 ∧ ((txState 1 1).curThread 0).pc = (txState 1 1).cur.pc ∧
    (txState 1 0).pending 0 0 0 true false false = false := by decide +kernel
theorem test_txend_translates : ∃ s1 es, ((txState 1 1).finishPlain false).txTranslateAll ((txState 1 1).member 0 0 0) ((txState 1 1).member 0 0 0).log = (s1, .ok es) ∧ decide (es.length = 1) = true := of_got (by decide +kernel)

/-! ## Witnesses: matrix words -/

/-- Core 0 with a block of n bytes at scratchpad offset 256, which g2:g3 names; a tile word of one tile in g4; the till is the context's, and the team has four tiles. -/
def matrixState (n v : Nat) : State :=
  withRegs ((pointing (spadAt 256)).onCore 0 fun c => { c with kown := 0x80000000, sram := bytesSet [] 256 (leBytes n v), team := some { launch := 0, stripes := 1, tiles := 4 } }) [(4, 0x10000)]
theorem matrixReady_of (s : State) (low : Nat) (rs : List Nat) (d : Bool)
    (h : (decide (s.curKind = .simt) && decide (s.active h7 = [low]) && decide ((s.curThread low).tx.depth = 0) && decide (s.curPriv ≠ .u) && decide ((s.curThread low).deferred = none) && s.claimOk low &&
      readyB s [low] rs && decide (s.matWait s.cur.unit s.cur.stripe d = none) && decide ((s.core s.cur.unit).matrix.stop = none)) = true) : MatrixReady s h7 low rs d := by
  simp only [Bool.and_eq_true, decide_eq_true_eq] at h
  obtain ⟨⟨⟨⟨⟨⟨⟨⟨h1, h2⟩, h3⟩, h4⟩, h5⟩, h6⟩, h7'⟩, h8⟩, h9⟩ := h
  refine ⟨h1, ⟨⟨by simp [h2], ?_⟩, Or.inl h4, ?_⟩, by simp [h2], lanesReady_of h7', h8, h9⟩
  · simpa [h2] using h3
  · simpa [h2] using (⟨h5, h6⟩ : _ ∧ _)
def ldbBlock : Nat := spadAt 4096 + (1 + 2 ^ 11) * 2 ^ 256
def mxF : FmtE := ef 10 2 4 0 0 0
theorem test_mxldb : MatrixReady (matrixState 64 ldbBlock) h7 0 [2, 3] false ∧ ptrOf mxF (matrixState 64 ldbBlock) 0 % 16 = 0 ∧ (matrixState 64 ldbBlock).ownSpad 0 0 (ptrOf mxF (matrixState 64 ldbBlock) 0) 64 = none :=
  ⟨matrixReady_of _ _ _ _ (by decide +kernel), by decide +kernel, by decide +kernel⟩
theorem test_mxldb_checks : ∃ bs, (matrixState 64 ldbBlock).ownBlock 0 (ptrOf mxF (matrixState 64 ldbBlock) 0) 64 = .ok bs ∧
    decide ((matrixState 64 ldbBlock).ldbCheck { (matrixState 64 ldbBlock).matOp 0 [0] with ptr := ptrOf mxF (matrixState 64 ldbBlock) 0, block := bs, args := [0] } = none) = true := of_took (by decide +kernel)
def drainBlock : Nat := 2 ^ (8 * 0x32) + 2 ^ (8 * 0x34)
theorem test_mxdrain : MatrixReady (matrixState 128 drainBlock) h7 0 [2, 3, 10] true ∧ (matrixState 128 drainBlock).tillOk 0 0 0 = true ∧ ptrOf mxF (matrixState 128 drainBlock) 0 % 128 = 0 ∧
    (matrixState 128 drainBlock).ownSpad 0 0 (ptrOf mxF (matrixState 128 drainBlock) 0) 128 = none := ⟨matrixReady_of _ _ _ _ (by decide +kernel), by decide +kernel, by decide +kernel, by decide +kernel⟩
theorem test_mxdrain_checks : ∃ bs, (matrixState 128 drainBlock).ownBlock 0 (ptrOf mxF (matrixState 128 drainBlock) 0) 128 = .ok bs ∧
    decide ((matrixState 128 drainBlock).drainCheck { (matrixState 128 drainBlock).matOp 7 [0] with ptr := ptrOf mxF (matrixState 128 drainBlock) 0, block := bs } = none) = true := of_took (by decide +kernel)
theorem test_mxzero_and_areas : MatrixReady (matrixState 1 0) h7 0 [2, 3, 4, 10] false ∧ (matrixState 1 0).tileWordCheck 0 (sbOf mxF (matrixState 1 0) 0) = none ∧ (matrixState 1 0).curPriv.atK = true ∧
    ptrSpace (ptrOf mxF (matrixState 1 0) 0) = 1 ∧ (matrixState 1 0).ownSpad 0 0 (ptrOf mxF (matrixState 1 0) 0) 4096 = none := ⟨matrixReady_of _ _ _ _ (by decide +kernel), by decide +kernel, by decide +kernel, by decide +kernel, by decide +kernel⟩
/-- An area in memory: space 0, rank 0. -/
theorem test_area_in_memory : let s := withRegs (matrixState 1 0) [(2, 0x400), (3, 0)]
    ptrSpace (ptrOf mxF s 0) = 0 ∧ ptrRank (ptrOf mxF s 0) = 0 ∧ ptrOf mxF s 0 % 128 = 0 := by decide +kernel
/-- At U a stripe of role V may not, and one of role M needs the claim. -/
def matrixUser (r : BitVec 2) : State := sim 1 .u r
theorem test_matrix_refused : (matrixUser 0).curPriv = .u ∧ (matrixUser 0).curStripe.role.toNat ≠ 2 ∧ (matrixUser 2).curStripe.role.toNat = 2 ∧ ((matrixUser 2).active h7).find? (fun l => !(matrixUser 2).claimOk l) = some 0 ∧
    (∀ l ∈ (matrixUser 2).active h7, ((matrixUser 2).curThread l).tx.depth = 0 ∧ ((matrixUser 2).curThread l).deferred = none) := by decide +kernel
/-- Two rows from row 30 are the tile's last; three leave it. -/
theorem test_mxrd_mxwr : MatrixReady (withRegs (matrixState 1 0) [(4, 30 * 1024)]) h7 0 [4] false ∧ 30 + ((1 : BitVec 9).toNat % 32 + 1) ≤ 32 ∧ 32 < 30 + ((2 : BitVec 9).toNat % 32 + 1) ∧ (matrixState 1 0).tillOk 0 0 0 = true :=
  ⟨matrixReady_of _ _ _ _ (by decide +kernel), by decide, by decide, by decide +kernel⟩
theorem test_mxrd_registers : (matrixState 1 0).RegsReady h7 [10, 11, 12] := ready_of (by decide +kernel)

/-! ## Witnesses: launches -/

/-- A record with a grid of one index at VA 0x400, named by g2:g3, and handle 0 in g6; its queue is enabled when q is 1. -/
def launching (q : Nat) : State :=
  ((withBytes (pointing 0x400) 0x400 256 (2 ^ 128 + 2 ^ 160 + 2 ^ 192)).onFunc 0 fun f => { f with part := some 0, qctl := [(0, BitVec.ofNat 64 q)] }).onPart 0 fun p => { p with funcs := 1, wmask := 1 }
/-- The package is in pod group 0. -/
def inPod (s : State) : State := { s with pod := { s.pod with joined := true, synced := true, config := some { index := 0, ports := [], reference := 0, groups := [{ number := 0, members := [0] }], bindings := [], routes := [], forwarded := 0, pubkey := [], bytes := [], sig := [] } } }
def launchF : FmtE := ef 10 2 6 8 0 0
theorem launchReady_of (s : State) (l : Nat) (rs : List Nat)
    (h : (decide (s.curKind = .simt) && decide (s.active h7 = [l]) && decide ((s.curThread l).tx.depth = 0) && readyB s (s.active h7) rs) = true) : LaunchReady s launchF l rs := by
  simp only [Bool.and_eq_true, decide_eq_true_eq] at h
  obtain ⟨⟨⟨h1, h2⟩, h3⟩, h4⟩ := h
  exact ⟨Or.inl h1, h2, h3, lanesReady_of h4⟩
theorem test_launch_ready : LaunchReady (launching 1) launchF 0 [2, 3, 6, 10] ∧ ((launching 1).curThread 0).done = false ∧ (∀ p ∈ [false, true], (launching 1).pending 0 0 0 true false p = false) ∧ recordTrap 64 [(0, ptrOf launchF (launching 1) 0)] = none ∧
    (∀ k ∈ (launching 1).funcs, ∀ n ∈ k.2.notifies, n.unit ≠ 0 ∨ n.stripe ≠ 0) := ⟨launchReady_of _ _ _ (by decide +kernel), by decide +kernel, by decide +kernel, by decide +kernel, by decide +kernel⟩
def launchChecks (s : State) (pod : Bool) (zero : Bool) : Prop :=
  ∃ p, s.readBlocks 16 [10] [(0, ptrOf launchF s 0)] = .ok p ∧
    (p.2.all (fun x => x.1 == 0) && decide (p.2.length = 1) && ((got (p.1.resolve (p.1.accReq 4 true 0 false false) (fun _ => false) (stampWords (ptrOf launchF s 0) 0))).any fun r =>
      p.2.all fun x => decide ((r.1.launchStatus 0 (sbOf launchF s 0).toNat x.2 pod = 0) = (zero = true)))) = true
theorem test_launch_accepted : launchChecks (launching 1) false true := of_took (by decide +kernel)
theorem test_launch_pod_accepted : launchChecks (inPod (launching 1)) true true := of_took (by decide +kernel)
theorem test_launch_refused : ∀ pod ∈ [false, true], launchChecks (launching 0) pod false := by
  simp only [List.mem_cons, List.not_mem_nil, or_false, forall_eq_or_imp, forall_eq]
  exact ⟨of_took (by decide +kernel), of_took (by decide +kernel)⟩
theorem test_launch_second : (((launching 1).onThread 0 0 0 fun t => { t with done := true }).curThread 0).done = true ∧ (atUnit 0x1600 .k).curKind = .func := by decide +kernel
/-- The team of core 0 runs launch 0, whose slice holds index 5 when it has started. -/
def fetching (started : Bool) : State :=
  ({ one with launches := [(0, { part := 0, func := 0, queue := 0, rcd := { bytes := leBytes 256 (3 * 2 ^ 128 + 4 * 2 ^ 160 + 2 ^ 192), ptb := 0, priv := .k, world := 0, src := 0, stamp := 0 }, started := started, next := 12, total := 12 })] }).onSlice 0 fun k => { k with chunks := [(0, 5, 6)] }
theorem test_fetcht : ((fetching true).core 0).team = some { launch := 0, stripes := 1 } ∧ (fetching true).fetchAnswer 0 = some (0, 5) ∧ (fetching false).fetchAnswer 0 = none ∧ (fetching true).curKind = .simt ∧ (fetching true).active h7 ≠ [] ∧
    (let b := (((fetching true).launch 0).map fun x => x.rcd.bytes).getD []; 0 < field b 0x10 4 ∧ 0 < field b 0x14 4) := by decide +kernel
theorem test_fetcht_registers : (fetching true).RegsReady h7 [10, 11, 12, 13] := ready_of (by decide +kernel)
/-- Status 1 when everything is dealt. -/
theorem test_fetcht_dealt : ((fetching true).onSlice 0 fun k => { k with chunks := [] }).fetchAnswer 0 = some (1, 0) := by decide +kernel
/-- CANCEL of launch 0, whose SRC and STAMP are zero as the record's, and with no launch. -/
def cancelling : State := { launching 1 with launches := (fetching true).launches }
theorem test_cancel : LaunchReady cancelling launchF 0 [2, 3, 6, 7, 10] ∧ recordTrap 8 [(0, ptrOf launchF cancelling 0)] = none := ⟨launchReady_of _ _ _ (by decide +kernel), by decide +kernel⟩
theorem test_cancel_finds : ∃ p, cancelling.readPieces 4 [10] (stampWords (ptrOf launchF cancelling 0) 0) = .ok p ∧
    (decide (p.2.length = 1) && p.2.all fun x => decide (x.1 = 0 ∧ field x.2 0 3 = 0 ∧ field x.2 4 8 = 0 ∧ p.1.launches.map Prod.fst = [0] ∧ (p.1.launches.all fun e => e.2.part == 0 && e.2.rcd.src == 0 && e.2.rcd.stamp == 0 && e.2.rcd.pod.isNone) = true)) = true := of_took (by decide +kernel)
theorem test_cancel_none : (launching 1).launches = [] ∧ (launching 1).pod.launches = [] := by decide +kernel
/-- A function of the partition with node 1 at n. -/
def nodes (n : Nat) : State := withRegs ((launching 1).onFunc 0 fun f => { f with nodes := [(1, n)] }) [(2, 1)]
theorem test_nodesig : LaunchReady (nodes 0) launchF 0 [2, 10] ∧ (nodes 0).assigned 0 0 = true ∧ (nodes 0).assigned 0 1 = false ∧ Tab.get ((nodes 0).func 0).nodes 1 0 = 0 ∧ 0 < Tab.get ((nodes 1).func 0).nodes 1 0 :=
  ⟨launchReady_of _ _ _ (by decide +kernel), by decide +kernel, by decide +kernel, by decide +kernel, by decide +kernel⟩

/-! ## Witnesses: turns, wake-ups, interrupts -/

/-- Quadrant 0 without a turn; the stripe granted last is n. -/
def idle (n : Nat) : State := one.onCore 0 fun c => { c with quads := [(0, { turn := none, last := n })] }
theorem test_turn_grant : (Tab.get ((idle 15).core 0).quads 0 {}).turn = none ∧ kindOf 0 ≠ .booth ∧ quadOf 0 0 = 0 ∧ (idle 15).stripeReady 0 0 = true ∧ (0 = (15 + 1 + 0) % 16) := by decide +kernel
/-- The last of the rotation. -/
theorem test_turn_grant_last : 0 = (0 + 1 + 15) % 16 ∧ (idle 0).stripeReady 0 0 = true ∧ ∀ j, j < 15 → quadOf 0 ((0 + 1 + j) % 16) = 0 → (idle 0).stripeReady 0 ((0 + 1 + j) % 16) = false := by decide +kernel
def sleeping (at_ : Nat) : State := one.onStripe 0 0 fun t => { t with wait := some (.time at_) }
theorem test_waitt_wake : ((sleeping 0).stripe 0 0).wait = some (.time 0) ∧ (0 ≤ (sleeping 0).gtc) ∧ (sleeping 1).gtc < 1 := by decide +kernel
/-- An event is routed to slot 0 of host core 0xE00, whose thread is halted. -/
def routed (st : Status) : State :=
  ((atUnit 0xE00 .k).onPart 0 fun p => { p with evt := 1, evtrt := BitVec.ofNat 64 (4 * 0xE00) }).onThread 0xE00 0 0 fun t => { t with status := st, ie := true }
theorem test_halt_wake : ((routed .halted).thread 0xE00 0 0).status = .halted ∧ (routed .halted).interruptPending 0xE00 0 = true := by decide +kernel
theorem test_interrupt_take : kindOf 0xE00 = .host ∧ (routed .ready).interruptPending 0xE00 0 = true ∧ ((routed .ready).thread 0xE00 0 0).status = .ready ∧ ((routed .ready).thread 0xE00 0 0).run = 0 ∧ ((routed .ready).thread 0xE00 0 0).ie = true ∧
    ((routed .ready).thread 0xE00 0 0).priv = .k ∧ ((routed .ready).stripe 0xE00 0).wait = none ∧ ((routed .ready).stripe 0xE00 0).parked = false ∧ ((routed .ready).stripe 0xE00 0).xin = false ∧ (Tab.get ((routed .ready).core 0xE00).quads 0 {}).turn = none := by decide +kernel

/-! ## Witnesses: accesses, packets, lines -/

/-- An access of core 0 to the first byte behind the window, whose packet has arrived. -/
def acc (k : AccKind) : Access := { id := 0, kind := k, stripe := 0, lane := 0, pa := windowEnd, va := 0, key := 0, size := 4, dst := some 6, arrived := true }
/-- It stands at bank 0, where its line is resident when r holds. -/
def atBank (k : AccKind) (r : Bool) : State :=
  let s := one.onCore 0 fun c => { c with outq := [acc k] }
  if r then s.onBank 0 fun b => { b with lines := [{ line := 65536, key := 0, dirty := false }] } else s
theorem atBank_of (k : AccKind) (s : State) (h : s.access 0 0 = some (acc k) ∧ s.homeOf ((s.partOf 0).getD 0) windowEnd = some (0, windowEnd) ∧ s.mayPerform 0 (acc k) (bankOf 0 windowEnd) = true ∧ (s.frame (frameKey 0 windowEnd)).dead = false ∧ (s.bank (bankOf 0 windowEnd)).failed = false ∧ s.keyOk ((acc k).keyReq ((s.partOf 0).getD 0)) 0 windowEnd = true ∧ s.inDrain 0 = false) :
    AtItsBank s 0 0 (acc k) 0 windowEnd := ⟨h.1, h.2.1, h.2.2.1, h.2.2.2.1, h.2.2.2.2.1, h.2.2.2.2.2.1, h.2.2.2.2.2.2⟩
theorem test_access_performed : ∀ k ∈ [AccKind.load, .store, .amo 0, .amo 7], AtItsBank (atBank k true) 0 0 (acc k) 0 windowEnd ∧ (((atBank k true).bank (bankOf 0 windowEnd)).lines.any fun x => x.line == windowEnd / 128) = true ∧
    (atBank k true).poisonOf (lineKey 0 windowEnd) &&& granMask windowEnd 4 = 0 := by
  simp only [List.mem_cons, List.not_mem_nil, or_false, forall_eq_or_imp, forall_eq]
  refine ⟨⟨?_, ?_, ?_⟩, ⟨?_, ?_, ?_⟩, ⟨?_, ?_, ?_⟩, ?_, ?_, ?_⟩ <;> first | exact atBank_of _ _ (by decide +kernel) | decide +kernel
def missing : State := (atBank .load false).onBank 0 fun b => { b with misses := [{ line := 65536, attached := [(0, 0)] }] }
theorem test_fill_arrival : (missing.bank 0).misses.find? (fun m => m.line == 65536) = some { line := 65536, attached := [(0, 0)] } ∧ (missing.bank 0).makeRoom missing.gtc 65536 ≠ none ∧ bankOf (0 / 4) (65536 * 128) = 0 := by decide +kernel
theorem test_fill_arrival_access : AtItsBank missing 0 0 (acc .load) 0 windowEnd := atBank_of _ _ (by decide +kernel)
def bypassing : State := (atBank .load false).onBank 0 fun b => { b with bypassed := [(0, 0)] }
theorem test_bypassed_read : (bypassing.bank 0).bypassed[0]? = some (0, 0) ∧ ((bypassing.bank 0).wbuf.any fun x => x.line == windowEnd / 128) = false ∧ bankOf 0 windowEnd = 0 := by decide +kernel
theorem test_bypassed_access : AtItsBank bypassing 0 0 (acc .load) 0 windowEnd := atBank_of _ _ (by decide +kernel)
def returning (spec : Bool) : State := one.onCore 0 fun c => { c with outq := [{ acc .load with performed := true, value := 7, spec := spec }] }
theorem test_load_data_return : ∀ b ∈ [false, true], ∃ a, (returning b).access 0 0 = some a ∧ a.performed = true ∧ a.held = false ∧ a.kind ≠ .store ∧ a.dst = some 6 ∧ a.poisoned = false := by
  intro b hb
  exact ⟨{ acc .load with performed := true, value := 7, spec := b }, by revert b; decide +kernel, rfl, rfl, nofun, rfl, rfl⟩
def gran (data : Option Nat) : GranWait := { unit := 0, stripe := 0, lane := 0, group := 1, target := 0, off := 32, size := 4, needs := some (data.isNone), leaves := data.isSome, data := data, code := 4, dst := 6, ptr := spadAt 32 }
def atPort (data : Option Nat) : State := { (pointing (spadAt 32)).onCore 0 fun c => c.setFull 2 data.isNone with granq := [gran data] }
theorem test_granule_access : ∀ d ∈ [none, some 5], (atPort d).granq.find? (fun g => g.unit == 0 && g.stripe == 0 && g.lane == 0 && g.value.isNone) = some (gran d) ∧ (atPort d).granFree (gran d) = true ∧ (atPort d).granFirst (gran d) = true ∧
    (((atPort d).core 0).readSram 32 4).2 = false := by decide +kernel
/-- Two packets of classes 0 and 3 wait; n grants have been made. -/
def arbitrating (n : Nat) : State := { one with ports := [(0, { packets := [{ input := 0, cls := 0, unit := 0, id := 0 }, { input := 3, cls := 3, unit := 0, id := 1 }], grants := n })] }
theorem test_packet_arbitrate : (Tab.get (arbitrating 15).ports 0 {}).packets ≠ [] ∧ (∀ x ∈ (Tab.get (arbitrating 15).ports 0 {}).packets, x.cls < 4 ∧ x.input < 4) ∧ (Tab.get (arbitrating 15).ports 0 {}).grants % 16 = 15 ∧
    (∃ x ∈ (Tab.get (arbitrating 15).ports 0 {}).packets, x.cls = 0) ∧ (Tab.get (arbitrating 14).ports 0 {}).grants % 16 ≠ 15 := by decide +kernel
theorem test_no_partition_drains : ∀ n, ((arbitrating 15).part n).draining = false := by
  have h : (arbitrating 15).parts.map (fun e => (e.1, e.2.draining)) = [(0, false)] := by decide +kernel
  intro n
  unfold State.part Tab.get
  revert h
  generalize (arbitrating 15).parts = ps
  match ps with
  | [] => simp
  | (k, v) :: [] =>
    intro h
    simp only [List.map_cons, List.map_nil, List.cons.injEq, Prod.mk.injEq] at h
    unfold Tab.find
    split
    · exact h.1.2
    · rfl
  | _ :: _ :: _ => simp
def refusedLoad (k : AccKind) : State := one.onCore 0 fun c => { c with outq := [{ acc k with refused := true }] }
theorem test_negative_response : ∀ k ∈ [AccKind.load, .store], (refusedLoad k).access 0 0 = some { acc k with refused := true } := by decide +kernel
/-- FWCTL while the slice runs, and while it drains. -/
theorem test_fwctl : (one.slice 0).fwctl.getLsbD 8 = true ∧ (one.slice 0).fwctl.getLsbD 9 = false ∧ (one.slice 1).fwctl.getLsbD 8 = false := by decide +kernel
def drainingPart (infl : Bool) : State :=
  ((one.onSlice 0 fun k => { k with fwctl := k.fwctl ||| 0x200 }).onPart 0 fun p => { p with draining := true }).onCore 0 fun c => { c with outq := if infl then [acc .load] else [] }
theorem test_firewall_drain : ((drainingPart false).slice 0).drain = true ∧ (∀ e ∈ (drainingPart false).parts, e.2.removing ≠ some 0) ∧ ((drainingPart false).slice 0).part = some 0 ∧ ((drainingPart false).part 0).draining = true ∧
    (∃ m ∈ ((drainingPart true).part 0).members, (drainingPart true).inflOf m.2 ≠ 0) ∧ (∀ m ∈ ((drainingPart false).part 0).members, (drainingPart false).inflOf m.2 = 0) := by decide +kernel
/-- A dirty line in the buffer of bank 0 with its counter at n. -/
def writingBack (n : Nat) : State := { one.onBank 0 fun b => { b with wbuf := [{ line := 65536, key := 0, dirty := true }] } with metas := [(65536, { counter := n })] }
theorem test_line_write_back : ((writingBack 0).bank 0).wbuf = [{ line := 65536, key := 0, dirty := true }] ∧ ((writingBack 0).frame (frameKey 0 (65536 * 128))).dead = false ∧
    (Tab.get (writingBack (2 ^ 56 - 2)).metas 65536 {}).counter < 2 ^ 56 - 1 ∧ 2 ^ 56 - 1 ≤ (Tab.get (writingBack (2 ^ 56 - 1)).metas 65536 {}).counter := by decide +kernel
/-- Frame 1,024 with no accepted access and with one, and a frame outside the partition. -/
theorem test_mcfrel : one.homeOf 0 ((BitVec.ofNat 64 windowEnd).toNat / 2 ^ 13 % 2 ^ 27 * 8192) = some (0, windowEnd) ∧ one.accepted 0 (windowEnd / 8192) = [] ∧ (atBank .load true).accepted 0 (windowEnd / 8192) ≠ [] ∧
    one.homeOf 0 ((BitVec.ofNat 64 (2 ^ 39)).toNat / 2 ^ 13 % 2 ^ 27 * 8192) = none := by decide +kernel
def releasingFrame (s : State) : State := s.onSlice 0 fun k => { k with releases := [(1024, [(0, 0)])] }
theorem test_frame_release : ((releasingFrame one).slice 0).releases.find? (fun r => r.1 == 1024) = some (1024, [(0, 0)]) ∧ (0, 0) ∉ (releasingFrame one).accepted 0 1024 ∧ (0, 0) ∈ (releasingFrame (atBank .load true)).accepted 0 1024 := by decide +kernel
theorem test_pseudo_channel : (one.slice 0).spareUsed = false ∧ ((one.onSlice 0 fun k => { k with spareUsed := true }).slice 0).spareUsed = true ∧ one.resident 0 windowEnd = false := by decide +kernel
theorem test_sram_uncorrectable : kindOf 0 = .simt ∧ ((pointing 0).core 0).mode (2 / 4096) ≠ 0 := by decide +kernel

/-! ## Witnesses: stage and barrow operations -/

/-- A one-dimensional operation over 16 bytes from base, in elements of 2^(e-1) bytes, next to the scratchpad at 64. -/
def stageOp1 (op base e : Nat) : StageOp :=
  { tag := 0, op := op, stripe := 0, lane := 0, pc := 0, priv := .k, world := 0, ctx := 0, ptb := 0x1000, org0 := 0, org1 := 0, spad := 64,
    record := leBytes 64 (base + (1 + 8 * e) * 2 ^ 64 + 2 ^ (5 - e) * 2 ^ 96 + 2 ^ (5 - e) * 2 ^ 384) }
def staged (o : StageOp) : State := ((pointing 0).onCore 0 fun c => { c with stage := [o], walkAhead := c.tlb }).onStripe 0 0 fun t => { t with counters := [(0, 1)] }
theorem lastGranule_of (o : StageOp) (r : Row)
    (h : (decide (((staged o).core 0).stageHead 0 = some o ∧ o.got = [] ∧ o.gotBad = false) && decide (o.fault = none ∧ o.poisonRest = false ∧ o.orphan = false) && decide (o.next % 16 = 0 ∧ o.footprint = o.next + 16) &&
      decide (took ((staged o).stageRow 0 o (o.next / o.tensor.pitch)) = some r) && decide (o.spad % 16 = 0 ∧ o.tensor.unit ≤ 16) &&
      (!(((staged o).core 0).clearing.contains ((o.spad + o.next) / 16 / 4096)) && !(staged o).portBusy 0 (o.spad + o.next) 16)) = true)
    (ha : ((staged o).core 0).stage = [o]) : LastGranule (staged o) 0 0 o r := by
  simp only [Bool.and_eq_true, decide_eq_true_eq, Bool.not_eq_true'] at h
  obtain ⟨⟨⟨⟨⟨h1, h2⟩, h3⟩, h4⟩, h6⟩, h5⟩ := h
  refine ⟨h1.1, h1.2, fun x hx _ _ => ?_, h2, h3, ?_, h6, h5⟩
  · rw [ha, List.mem_singleton] at hx; rw [hx]
  · cases hc : (staged o).stageRow 0 o (o.next / o.tensor.pitch) <;> simp_all [took]
theorem test_stage_last_granule : ∀ op ∈ [0, 1], LastGranule (staged (stageOp1 op 0x1000 1)) 0 0 (stageOp1 op 0x1000 1) ((stageOp1 op 0x1000 1).row 0 0) := by
  simp only [List.mem_cons, List.not_mem_nil, or_false, forall_eq_or_imp, forall_eq]
  exact ⟨lastGranule_of _ _ (by decide +kernel) (by decide +kernel), lastGranule_of _ _ (by decide +kernel) (by decide +kernel)⟩
theorem test_stage_load_moves : let o := stageOp1 0 0x1000 1
    let s := staged o
    let m := s.loadGranule (s.stageCtx 0 o) o (o.row 0 0) (o.next % o.tensor.pitch) (16 / o.tensor.unit)
    s.stageTurn 0 = some 0 ∧ o.loads = true ∧ m.stop.isNone = true ∧ m.bs.length = 16 := by decide +kernel
theorem test_stage_store_moves : let o := stageOp1 1 0x1000 1
    let s := staged o
    let g := (o.spad + o.next) / 16
    (s.core 0).full g = true ∧ ((s.onCore 0 fun c => c.setFull g false).core 0).full g = false ∧ s.stageTurn 0 = some 0 ∧ o.reach (o.row 0 0) o.next = o.next + 16 ∧ (s.storeGranule (s.stageCtx 0 o) o (o.row 0 0) (o.next % o.tensor.pitch) (16 / o.tensor.unit) ((s.core 0).readSram (16 * g) 16).1 ((s.core 0).readSram (16 * g) 16).2).stop.isNone = true := by decide +kernel
theorem test_stage_retire : ((staged { stageOp1 0 0x1000 1 with complete := true, ring := some (0, 0) }).core 0).stage.find? (fun o => o.stripe == 0) = some { stageOp1 0 0x1000 1 with complete := true, ring := some (0, 0) } := by decide +kernel
/-- The walk ahead of one 16-byte element, at a mapped address and through a pointer that names a rank. -/
theorem test_walk_ahead : ∀ base ∈ [0x1000, 2 ^ 52 + 0x1000], let o := stageOp1 0 base 5
    let s := staged o
    (s.core 0).stageHead 0 = some o ∧ (s.partOf 0).isSome = true ∧ s.inDrain 0 = false ∧ o.fault = none ∧ o.poisonRest = false ∧ o.op ≠ 4 ∧ max o.walked o.next / 16 * 16 < o.footprint ∧ (s.aheadPages 0 o o.next 16).length ≤ 64 ∧ o.tensor.unit = 16 ∧
      took (s.stageRow 0 o (0 / o.tensor.pitch)) = some (o.row 0 0) ∧ o.unitAt (o.row 0 0) 0 = .mem 0x1000 true true ∧ o.unitPtr 0x1000 = some base := by decide +kernel
theorem test_walk_ahead_places : let o := stageOp1 0 0x1000 5
    let s := staged o
    let c := s.stageCtx 0 o
    took (s.checkPtr 0 c.part c.world c.priv 0x1000 16 false) = some (.global 0x1000) ∧ (took (s.checkPtr 0 c.part c.world c.priv (2 ^ 52 + 0x1000) 16 false)).isNone = true ∧
      (got (s.translate { part := c.part, ptb := c.ptb, priv := c.priv, need := .read, tlb := c.tlb, setA := false } 0x1000)).isSome = true := by decide +kernel
/-- A barrow operation that copies 64 bytes to an address, with time t when it names one. -/
def barrowOp1 (dst ctl t : Nat) (done : Bool) : BarrowOp :=
  { tag := 0, fill := false, unit := 0, stripe := 0, lane := 0, pc := 0, priv := .k, world := 0, ctx := 0, ptb := 0x1000, block := leBytes 64 (0x400 + dst * 2 ^ 128 + 64 * 2 ^ 256 + t * 2 ^ 320 + ctl * 2 ^ 384), started := true, complete := done }
def carted (o : BarrowOp) : State := ((pointing 0).onSlice 0 fun k => { k with barrows := [(0, { ops := [o], tlb := ((pointing 0).core 0).tlb })] }).onStripe 0 0 fun t => { t with counters := [(3, 1)] }
theorem test_barrow_start : ∀ t ∈ [0, 1], (carted (barrowOp1 0x800 0x2000 t false)).barrowHead 0 0 = some (barrowOp1 0x800 0x2000 t false) ∧ (barrowOp1 0x800 0x2000 t false).ctl.testBit 13 = true ∧
    field (barrowOp1 0x800 0x2000 t false).block 0x28 8 = t ∧ (carted (barrowOp1 0x800 0x2000 t false)).gtc = 0 := by decide +kernel
/-- The copy of 64 bytes to a mapped address, and to one that nothing maps. -/
def copies (dst : Nat) (ok : Bool) : Prop :=
  let o := barrowOp1 dst 0 0 false
  let s := carted o
  (s.barrowRead 0 0 o 64).2.stop.isNone = true ∧ ((s.barrowRead 0 0 o 64).1.writeRun 64 (s.barrowCtx 0 0 o) o.dst o.next (s.barrowRead 0 0 o 64).2.bs (s.barrowRead 0 0 o 64).2.bad).2.isNone = ok
theorem test_barrow_transfer : copies 0x800 true ∧ copies 0x10000000 false := ⟨⟨by decide +kernel, by decide +kernel⟩, by decide +kernel, by decide +kernel⟩
theorem test_barrow_transfer_head : let o := barrowOp1 0x800 0 0 false
    (carted o).barrowHead 0 0 = some o ∧ o.poisonRest = false ∧ o.dst.kind < 2 ∧ o.dst.far = false ∧ o.src.far = false ∧ min (o.len - o.next) 64 = 64 := by decide +kernel
theorem test_barrow_retire : let o := barrowOp1 0x800 0 0 true
    ((carted o).barrow 0 0).ops.find? ((carted o).barrowDone 0) = some o ∧ (carted (barrowOp1 0x800 0 0 false)).barrowDone 0 (barrowOp1 0x800 0 0 false) = false := by decide +kernel
theorem test_engres : one.partOf 0 = some 0 ∧ one.partOf 18 = none ∧ (one.slice 0).part = some 0 := by decide +kernel

/-! ## Witnesses: matrix operations -/

def ran (r : SpadRead) : Option (List Byte) := match r with
  | .ok b => some b
  | _ => none
theorem of_ran {s : State} {u off n : Nat} {bs : List Byte} (h : ran (s.engRun u off n) = some bs) : RunIs s u off n bs := by
  unfold RunIs
  cases hr : s.engRun u off n <;> simp_all [ran]

def matOp1 (op blk : Nat) (args : List Nat) : MatOp :=
  { tag := 256, op := op, stripe := 0, lanes := 1, lane := 0, pc := 0, priv := .k, world := 0, ctx := 0, ptb := 0x1000, ptr := spadAt 256, block := leBytes 128 blk, args := args }
def matrixed (o : MatOp) : State := ((pointing 0).onCore 0 fun c => { c with matrix := { queue := [o] }, team := some { launch := 0, stripes := 1, tiles := 4 } }).onStripe 0 0 fun t => { t with counters := [(1, 1), (2, 1)] }
/-- A load of one row of B at scratchpad 4,096, unsealed, without scales. -/
def ldbOp : MatOp := matOp1 0 ldbRow [0]
where ldbRow : Nat := spadAt 4096 + (1 + 2 ^ 11) * 2 ^ 256
theorem test_mxldb_perform : AtEngine (matrixed ldbOp) 0 ldbOp [] ∧ ldbOp.lctl.testBit 16 = false ∧ ldbOp.orphan = false ∧ ((matrixed ldbOp).thread 0 0 0).alive = true := by unfold AtEngine; decide +kernel
theorem test_mxldb_runs : ∃ d, RunIs (matrixed ldbOp) 0 (ptrOff (ldbOp.at 0 8)) ldbOp.ldbRead d ∧ RunIs (matrixed ldbOp) 0 (ptrOff (ldbOp.at 0x18 8)) ldbOp.ldbScales [] := ⟨List.replicate 32 0, of_ran (by decide +kernel), of_ran (by decide +kernel)⟩
def poisonAt (r : SpadRead) : Option Nat := match r with
  | .poison a => some a
  | _ => none
theorem test_mxldb_poisoned : let s := (matrixed ldbOp).onCore 0 fun c => c.setPoisoned 256 true
    poisonAt (s.engRun 0 (ptrOff (ldbOp.at 0 8)) ldbOp.ldbRead) = some 4096 ∧ RunIs s 0 (ptrOff (ldbOp.at 0x10 8)) 0 [] := ⟨by decide +kernel, of_ran (by decide +kernel)⟩
/-- A product of one row of A with 32 elements of one column, and the same operation with no step left. -/
def mulOp (next : Nat) : MatOp := { matOp1 1 (spadAt 0 + 32 * 2 ^ (8 * 0x28)) [1, 1] with next := next }
theorem test_mxmul_kstep : let o := mulOp 0
    ((matrixed o).core 0).matrix.queue = [o] ∧ o.ks * o.next < o.klen ∧ o.arg 1 ≤ 32 ∧ (Descr.ofNat (o.fmt.toNat % 2 ^ 32)).nt = false ∧
      (o.stepRuns 0 32).all (fun x => (ran ((matrixed o).engRun 0 x.2.1 x.2.2)).isSome) = true := by decide +kernel
theorem test_mxmul_done : (mulOp 1).klen ≤ (mulOp 1).ks * (mulOp 1).next ∧ (mulOp 1).mctl.testBit 18 = false := by decide +kernel
theorem test_matrix_op_perform : ∀ op ∈ [2, 3, 5, 6, 8], ((matrixed (matOp1 op 0 [0, 1, 1, 6])).core 0).matrix.queue = [matOp1 op 0 [0, 1, 1, 6]] ∧ (matOp1 op 0 [0, 1, 1, 6]).fault = none := by decide +kernel
/-- MXSAVE of tile 0 to the scratchpad. -/
theorem test_mxsave_place : let o := matOp1 3 0 [0, 1]
    (got ((matrixed o).engPlace ((matrixed o).matCtx 0 o) (o.rowPtr o.next) 128 true)).map (fun x => x.2) = some (.spad 0 256) := by decide +kernel
/-- A drain of one element to the scratchpad at 512. -/
def drainOp : MatOp := { matOp1 7 (spadAt 512 + 2 ^ (8 * 0x32) + 2 ^ (8 * 0x34)) [] with tag := 0 }
def drained (o : MatOp) : State := (pointing 0).onCore 0 fun c => { c with matrix := { drain := [o] }, team := some { launch := 0, stripes := 1, tiles := 4 } }
theorem test_drain_apply : (drained drainOp).drainHead 0 = some drainOp ∧ drainOp.orphan = false ∧ drainOp.poisonRest = false ∧ drainOp.unitRows drainOp.next = [0] ∧ ((drained drainOp).arrays 0 drainOp 0).isSome = true ∧
    (got ((drained drainOp).drainPlaces ((drained drainOp).matCtx 0 drainOp) drainOp [0])).map (fun x => x.2) = some [(0, .spad 0 512)] ∧ drainOp.aop = 0 := by decide +kernel
theorem test_drain_retire : ((drained { drainOp with complete := true }).core 0).matrix.drain = [{ drainOp with complete := true }] ∧ (∀ o ∈ ((drained drainOp).core 0).matrix.drain, o.complete = false) := by decide +kernel

/-! ## Witnesses: gangs, allotments, messages -/

def arr : Arrival := { stripe := 0, lane := 0, a := 1, b := 0, dst := 6, pd := 1 }
def meeting (w : Nat) (as : List Arrival) : Rendezvous := { word := w, mask := 0xFFFFFFFF, parts := [(0, 0)], arrivals := as }
def gathered (w : Nat) (as : List Arrival) : State := one.onCore 0 fun c => { c with gangs := [(0, meeting w as)], matrix := { c.matrix with claim := if w = 0x201 then some 0 else none } }
theorem test_gang_rendezvous : ∀ w ∈ [0x200, 0x201, 0x302 * 4096], Tab.find ((gathered w [arr]).core 0).gangs 0 = some (meeting w [arr]) ∧ (meeting w [arr]).complete = true ∧ (meeting w [arr]).ranked = [arr] ∧ (meeting w []).complete = false := by decide +kernel
theorem test_gang_claimed : ((gathered 0x201 [arr]).core 0).matrix.claim = some 0 ∧ ((gathered 0x200 [arr]).core 0).matrix.claim = none ∧ ((gathered 0x302 [arr]).thread 0 0 0).alive = true ∧ arr.dst < 128 := by decide +kernel
def taking (kind : Nat) (give : Bool) (a n : Nat) : State := one.onCore 0 fun c => { c with takes := [{ kind := kind, give := give, arg := a, count := n, parts := [arr] }], team := some { launch := 0, stripes := 1, pool := 16, used := 8, taken := [0, 1] } }
theorem test_take_grant : ∀ p ∈ [(0, false, 1, 0), (0, true, 1, 0), (1, false, 0, 0), (2, false, 0, 3), (2, true, 0x10000, 0)], (taking p.1 p.2.1 p.2.2.1 p.2.2.2).nextTaking 0 p.1 = some { kind := p.1, give := p.2.1, arg := p.2.2.1, count := p.2.2.2, parts := [arr] } := by decide +kernel
theorem test_take_waits : (taking 0 false 0xFFF 0).nextTaking 0 0 = none ∧ (taking 0 false 1 0).nextTaking 0 1 = none := by decide +kernel
theorem test_take_distinct : Distinct [arr] ∧ (((taking 2 false 0 3).core 0).team.bind fun x => x.freeRun 3) = some 2 := ⟨⟨by decide, by decide⟩, by decide +kernel⟩
theorem test_bank_return : let s := one.onCore 0 fun c => { c with leaving := [3], clearing := [2], clearAt := [(2, 1)] }
    3 ∈ (s.core 0).leaving ∧ s.bankBusy 0 3 = false ∧ s.gtc < Tab.get (s.core 0).clearAt 2 0 := by decide +kernel
def sending (clearing : Bool) : State := (linkedTo.onCore 0 fun c => { c with clearing := if clearing then [0] else [] })
where linkedTo : State := (pointing 0).onCore 0 fun c => { c with chans := [(0, { delta := 1, ssz := 0, nsl := 1, bank := 0, off := 0, credits := 1, toUnit := 1, fromUnit := 1, flight := [{ stripe := 0, slot := 1, bytes := leBytes 16 5 }], returns := 1 })] }
theorem test_channel_events : ∀ b ∈ [false, true], ((Tab.find ((sending b).core 0).chans 0).map fun ch => (ch.flight.length, ch.returns, ch.bank)) = some (1, 1, 0) ∧ (((sending b).core 0).clearing.contains 0) = b := by decide +kernel
/-- A promotion of one load that has, or has not, its value. -/
def promoting (sent val : Bool) : State := one.onCore 0 fun c =>
  { c with promos := [{ stripe := 0, home := 0, ids := [0], target := none, sent := sent }], outq := [{ id := 0, kind := .load, stripe := 0, lane := 0, pa := windowEnd, va := 0, key := 0, size := 4, dst := some 6, held := true, performed := val }] }
theorem test_promotions : ((promoting false true).core 0).promos.find? (fun p => p.stripe == 0 && !p.sent) = some { stripe := 0, home := 0, ids := [0], target := none } ∧
    ((promoting true true).core 0).promos.find? (fun p => p.stripe == 0 && p.sent && !p.acked) = some { stripe := 0, home := 0, ids := [0], target := none, sent := true } ∧
    (((promoting false false).access 0 0).map Access.performed) = some false ∧ (((promoting true true).access 0 0).map Access.performed) = some true ∧ (promoting true true).promoServed { stripe := 0, home := 0, ids := [0], target := none, sent := true } = true := by decide +kernel
def invalidating (s : State) : State := s.onCore 0 fun c => { c with invals := [{ stripe := 0, lanes := 1, kind := 2, items := [], before := [(0, 0)] }] }
theorem test_tlbinv_complete : ((invalidating one).core 0).invals.find? (fun v => v.stripe == 0) = some { stripe := 0, lanes := 1, kind := 2, items := [], before := [(0, 0)] } ∧
    (∃ a ∈ ((invalidating (promoting false false)).core 0).outq, a.id = 0 ∧ a.performed = false) ∧ (∀ a ∈ ((invalidating one).core 0).outq, a.id = 0 → a.performed = true) := by decide +kernel
theorem test_wlatch_complete : let s (at_ : Nat) := one.onCore 1 fun c => { c with latching := some 5, latchAt := at_ }
    ((s 0).core 1).latching = some 5 ∧ (s 0).rootUp = true ∧ ((s 0).core 1).latchAt ≤ (s 0).gtc ∧ (s 1).gtc < ((s 1).core 1).latchAt := by decide +kernel

/-! ## Witnesses: commits, booth threads -/

def txEntry (i pa rval : Nat) : TxEntry := { idx := i, va := pa - windowEnd, wval := 7, rval := BitVec.ofNat 32 rval, wmask := 0xF, rd := true, pa := pa }
/-- A commit of lane 0 over banks 0 and 1, in which every read of the entry in bank 0 was r. -/
def commit2 (r : Nat) (ans : Tab (Option Nat)) (d : Option Bool) (acted : List Nat) : Commit :=
  { id := 0, unit := 0, stripe := 0, lane := 0, entries := [(0, [txEntry 0 windowEnd r]), (1, [txEntry 1 (windowEnd + 128) 0])], answers := ans, decided := d, acted := acted, count := 2 }
def committing (c : Commit) (res : List Reservation) : State := { (txState 1 1).onBank 0 fun b => { b with reserved := res } with commits := [c], nextTx := 1 }
theorem test_tx_prepare : ∀ r ∈ [0, 1], (committing (commit2 r [] none []) []).commit 0 = some (commit2 r [] none []) ∧ (commit2 r [] none []).entries.find? (fun e => e.1 == 0) = some (0, [txEntry 0 windowEnd r]) ∧ Tab.find (commit2 r [] none []).answers 0 = none ∧
    (∀ e ∈ [txEntry 0 windowEnd r], ((committing (commit2 r [] none []) []).bank 0).against 0 e = false) ∧
    ((committing (commit2 r [] none []) []).txValidate ((committing (commit2 r [] none []) []).txPart (commit2 r [] none [])) [txEntry 0 windowEnd r]).2 = if r = 0 then none else some 0 := by decide +kernel
def otherReads : List Reservation := [{ pa := windowEnd, size := 4, write := false, tx := 9 }]
theorem test_tx_prepare_held : ∃ e ∈ [txEntry 0 windowEnd 0], ((committing (commit2 0 [] none []) otherReads).bank 0).against 0 e = true := by decide +kernel
theorem test_tx_decide : (∃ e ∈ (commit2 0 [(0, none)] none []).entries, Tab.find (commit2 0 [(0, none)] none []).answers e.1 = none) ∧ (∀ e ∈ (commit2 0 [(0, none), (1, some 2)] none []).entries, Tab.find (commit2 0 [(0, none), (1, some 2)] none []).answers e.1 ≠ none) := by decide +kernel
theorem test_tx_commit_write : ∀ ok ∈ [true, false], ∀ a ∈ [[], [1]], (committing (commit2 0 [(0, none), (1, none)] (some ok) a) []).commit 0 = some (commit2 0 [(0, none), (1, none)] (some ok) a) ∧ 0 ∉ a ∧ ((committing (commit2 0 [] none []) []).thread 0 0 0).tx.depth ≠ 0 := by decide +kernel
def commit1 (r : Nat) : Commit := { commit2 r [] none [] with entries := [(0, [txEntry 0 windowEnd r])], count := 1 }
theorem test_tx_single_bank : ∀ r ∈ [0, 1], (committing (commit1 r) []).commit 0 = some (commit1 r) ∧ ((committing (commit1 r) []).txValidate ((committing (commit1 r) []).txPart (commit1 r)) [txEntry 0 windowEnd r]).2 = if r = 0 then none else some 0 := by decide +kernel
theorem test_tx_write_back : one.homeOf 0 (txEntry 0 windowEnd 0).pa = some (0, windowEnd) ∧ (one.frame (frameKey 0 windowEnd)).dead = false ∧ (txEntry 0 windowEnd 0).wmask ≠ 0 := by decide +kernel
/-- Booth 3,072 serves lane 0 of core 0 in slot 0. -/
def guest (arrived : Bool) (due : Nat) : Guest := { home := 0, stripe := 0, lane := 0, joinPc := 0, arrived := arrived, due := due }
def boothState (g : Guest) (st : Status) : State :=
  ((one.onCore 3072 fun c => { c with guests := [(0, g)], quads := [(0, { turn := none, last := 15 })] }).onThread 3072 0 0 fun t => { t with status := st, pc := 0 }).onThread 0 0 0 fun t => { t with status := .ejected 3072 0 }
theorem test_handover : ∀ d ∈ [0, 1], Tab.find ((boothState (guest false d) .ready).core 3072).guests 0 = some (guest false d) ∧ (guest false 0).due ≤ (boothState (guest false 0) .ready).gtc ∧ (boothState (guest false 1) .ready).gtc < (guest false 1).due := by decide +kernel
theorem test_booth_turn : let s := boothState { guest true 0 with joinPc := 64 } .ready
    (Tab.get (s.core 3072).quads 0 {}).turn = none ∧ kindOf 3072 = .booth ∧ 0 = (15 + 1 + 0) % 16 ∧ s.stripeReady 3072 0 = true := by decide +kernel
theorem test_booth_return : let s := boothState (guest true 0) .ready
    Tab.find (s.core 3072).guests 0 = some (guest true 0) ∧ (s.thread 3072 0 0).pc = (guest true 0).joinPc ∧ (s.stripe 3072 0).join = [] ∧ (s.core 3072).inTurn 0 = false ∧ (∀ r, r < 32 → (s.thread 3072 0 0).empty.getLsbD r = false) ∧ s.commits = [] ∧ 0 ≠ 3072 := by decide +kernel
/-- Sent home, and marked away from its join PC. -/
theorem test_repatriate : let g1 : Guest := { guest true 0 with returning := true }
    let g2 : Guest := { guest true 0 with marked := true, timeout := true, joinPc := 64 }
    Tab.find ((boothState g1 .ready).core 3072).guests 0 = some g1 ∧ Tab.find ((boothState g2 .ready).core 3072).guests 0 = some g2 ∧ ((boothState g2 .ready).thread 3072 0 0).pc ≠ g2.joinPc ∧ ((boothState g2 .ready).thread 3072 0 0).run = 0 ∧ ((boothState g1 .ready).thread 3072 0 0).tx.depth = 0 := by decide +kernel
theorem test_booth_time_limit : let g : Guest := { guest true 0 with start := some 0 }
    Tab.find ((boothState g .ready).core 3072).guests 0 = some g ∧ ((boothState g .ready).core 0).ejto ≠ 0 ∧ (boothState g .ready).gtc < 0 + clkTicks ((boothState g .ready).core 0).ejto.toNat ∧
      0 + clkTicks ((boothState g .ready).core 0).ejto.toNat ≤ { boothState g .ready with gtc := 20000 }.gtc := by decide +kernel
theorem test_hand_back : let g : Guest := { guest true 0 with returning := true, back := true }
    Tab.find ((boothState g .ready).core 3072).guests 0 = some g ∧ g.due ≤ (boothState g .ready).gtc ∧ (boothState g .ready).pending 3072 0 0 true false false = false ∧ g.trap = none ∧ g.pages = [] := by decide +kernel
theorem test_booth_failure : kindOf 3072 = .booth ∧ ((boothState (guest true 0) .ready).core 3072).failed = false ∧ ((boothState (guest true 0) .ready).core 3072).guests = [(0, guest true 0)] ∧ kindOf 0 = .simt := by decide +kernel

/-! ## Witnesses: records and registers -/

def rec1 : Record := { stamp := 0, src := 0, cause := 0x13 }
/-- The fault queue of partition 0: enabled or not, with n records held. -/
def faulting (en : Bool) (n : Nat) : State := one.onPart 0 fun p => { p with fq := { base := BitVec.ofNat 64 windowEnd, ctl := if en then 0x1C else 0, made := [rec1], held := List.replicate n rec1 } }
theorem test_fault_post : ((faulting true 0).part 0).fq.made = [rec1] ∧ ((faulting true 0).part 0).fq.held = [] ∧ (faulting true 0).fqFits 0 rec1 = true ∧ (faulting false 0).fqFits 0 rec1 = false ∧ rec1.ncont = 0 ∧ rec1.cont = [] ∧
    (faulting true 0).homeOf 0 (((faulting true 0).part 0).fq.slot ((faulting true 0).part 0).fq.head.toNat) = some (0, windowEnd) := by decide +kernel
/-- The last record that is held, and the first that is dropped. -/
theorem test_fault_held : rec1.size = 1 ∧ (((faulting false 511).part 0).fq.held.map Record.size).sum + rec1.size ≤ 512 ∧ 512 < (((faulting false 512).part 0).fq.held.map Record.size).sum + rec1.size := by decide +kernel
theorem test_fault_flush : ((faulting true 1).part 0).fq.held = [rec1] ∧ (faulting true 1).fqFits 0 rec1 = true ∧ (faulting false 1).fqFits 0 rec1 = false := by decide +kernel
/-- Core 0's stripe 0 is parked after batch 5. -/
theorem test_pfres : let s := one.onStripe 0 0 fun t => { t with parked := true, seq := 6 }
    let v : BitVec 64 := 5 * 2 ^ 28
    v.toNat % 2 ^ 14 = 0 ∧ v.toNat / 2 ^ 24 % 16 = 0 ∧ s.partOf 0 = some 0 ∧ (s.stripe 0 0).parked = true ∧ (s.stripe 0 0).seq ≠ 0 ∧ ((s.stripe 0 0).seq - 1) % 256 = v.toNat / 2 ^ 28 % 256 ∧ (one.stripe 0 0).parked = false := by decide +kernel
theorem test_queue_register : 0x100000 + 0x10000 * 0 + 0x2000 + 8 * 63 < 0x110000 ∧ ((launching 1).func 0).part = some 0 ∧ ((launching 1).part 0).funcs.getLsbD 0 = true := by decide +kernel
/-- A record of which START is n, and a joined package that knows its launch. -/
def podRec (n : Nat) : PodRecord := { bytes := leBytes 256 (2 ^ 128 + 2 ^ 160 + 2 ^ 192 + n * 2 ^ (8 * 0xD8)) }
def podRun : PodLaunch := { rcd := (podRec 0).bytes, src := 0, stamp := 0, members := [0, 1], total := 8 }
def podded : State := let s := inPod (launching 1); { s with pod := { s.pod with launches := [(0, podRun)] } }
theorem test_crier : podded.pod.config ≠ none ∧ podded.pod.joined = true ∧ recStart (podRec 1024).bytes = 1024 ∧ ¬ recStart (podRec 1024).bytes < podded.gtc + 1024 ∧ recStart (podRec 1023).bytes < podded.gtc + 1024 ∧
    podded.podOf (recSrc (podRec 1023).bytes) (recStamp (podRec 1023).bytes) = some 0 ∧ Tab.find podded.pod.launches 0 = some podRun ∧ one.pod.config = none := by decide +kernel

/-! ## Witnesses: function registers and launches -/

/-- A launch of the record of one index, in a state and with changes. -/
def run1 (f : Launch → Launch) : Launch := f { part := 0, func := 0, queue := 0, rcd := { bytes := leBytes 256 (2 ^ 128 + 2 ^ 160 + 2 ^ 192), ptb := 0x1000, priv := .k, world := 0, src := 0, stamp := 0 } }
/-- Function 0 of partition 0 with that launch at the head of queue 0, and core 1 free. -/
def headed (f : Launch → Launch) : State := { (launching 1).onFunc 0 fun fn => { fn with queues := [(0, [0])] } with launches := [(0, run1 f)], nextLaunch := 1 }
theorem test_node_write : ((launching 1).func 0).part = some 0 := by decide +kernel
theorem test_lpre : (headed id).headOf 0 0 = some 0 ∧ (headed id).launch 0 = some (run1 id) ∧ (run1 id).state ≠ .dealing ∧ (run1 fun x => { x with state := .dealing, total := 1 }).state = .dealing ∧
    (headed fun x => { x with state := .dealing, total := 1 }).undispensed 0 (run1 fun x => { x with state := .dealing, total := 1 }) ≠ 0 ∧ (run1 id).func = 0 := by decide +kernel
def note : Notify := { queue := 0, rcd := (run1 id).rcd, unit := 0, stripe := 0, lane := 0, dst := 6, va := 0x4F4, pa := windowEnd + 0x4F4, key := 0, there := true }
def notified (n : Nat) (resetting : Bool) : State := ((headed id).onFunc 0 fun f => { f with notifies := [note], queues := [(0, List.replicate n 0)], resetting := resetting }).onStripe 0 0 fun t => { t with wait := some (.answer 1) }
theorem test_fnrst : (run1 id).teams = [] ∧ (run1 id).disp = 0 ∧ ((headed id).func 0).saved = [] ∧ (run1 fun x => { x with teams := [0] }).teams ≠ [] ∧ ((notified 0 false).func 0).notifies = [note] ∧ ((notified 0 false).stripe 0 0).wait = some (.answer 1) ∧ ((notified 0 false).thread 0 0 0).alive = true := by decide +kernel
theorem test_fnrst_end : ((notified 0 true).func 0).resetting = true ∧ ((notified 0 false).func 0).resetting = false ∧ (∃ e ∈ (notified 0 true).cores, ∃ x, e.2.team = some x ∧ x.func = 0) := by
  refine ⟨by decide +kernel, by decide +kernel, ?_⟩
  have h : ((notified 0 true).cores.any fun e => (e.2.team.map fun x => x.func == 0).getD false) = true := by decide +kernel
  obtain ⟨e, he, h2⟩ := List.any_eq_true.mp h
  refine ⟨e, he, ?_⟩
  cases ht : e.2.team with
  | none => simp [ht] at h2
  | some x => exact ⟨x, rfl, by simpa [ht] using h2⟩
/-- A queue of 31 launches takes the notify and one of 32 does not. -/
theorem test_notify_accept : ((notified 31 false).func 0).notifies = [note] ∧ ((notified 31 false).func 0).up = true ∧ note.pod = false ∧ ¬ 32 ≤ (Tab.get ((notified 31 false).func 0).queues 0 []).length ∧ 32 ≤ (Tab.get ((notified 32 false).func 0).queues 0 []).length := by decide +kernel
theorem test_param_fetch : ∃ s1 ps, (headed id).readVa (run1 id).ctx (recPsize (run1 id).rcd.bytes / 8) (recParp (run1 id).rcd.bytes) = (s1, .ok ps) ∧
    decide ((run1 id).state = .queued ∧ (run1 id).rcd.pod = none ∧ recFirst (run1 id).rcd.bytes = some 0 ∧ recStart (run1 id).rcd.bytes = 0) = true := of_got (by decide +kernel)
theorem test_at_head : (headed id).gtc = 0 ∧ AtHead (run1 id) 0 := ⟨by decide +kernel, by decide, by decide, by decide, by decide⟩
/-- The record whose NEXT is outside its grid. -/
theorem test_outside_grid : recFirst (leBytes 256 (2 ^ 128 + 2 ^ 160 + 2 ^ 192 + 2 ^ (8 * 0xE8))) = none := by decide +kernel
def placing : State := (headed fun x => { x with state := .placing, total := 1 }).onPart 0 fun p => { p with decide := true }
theorem test_one_to_place : OneToPlace placing 0 0 0 1 (run1 fun x => { x with state := .placing, total := 1 }) where
  due := by decide +kernel
  one := ⟨by decide +kernel, by decide +kernel, by
    have h : placing.func 0 = { (placing.func 0) with saved := [], queues := [(0, [0])] } := by decide +kernel
    have h2 : placing.launch 0 = some (run1 fun x => { x with state := .placing, total := 1 }) := by decide +kernel
    unfold State.waiters
    rw [h]
    simp [h2]⟩
  calm := ⟨by decide +kernel, by decide +kernel⟩
  launch := by decide +kernel
  core := by decide +kernel
theorem test_no_decision : ((headed id).part 0).decide = false := by decide +kernel
def aged (t0 : Nat) : State := { (headed fun x => { x with state := .placing, total := 1, t0 := t0 }).onFunc 0 fun f => { f with qctl := [(0, BitVec.ofNat 64 (5 * 2 ^ 32 + 1))] } with gtc := 6 }
theorem test_head_ageing : (aged 0).headOf 0 0 = some 0 ∧ (Tab.get ((aged 0).func 0).qctl 0 0).toNat / 2 ^ 32 = 5 ∧ 0 + 5 < (aged 0).gtc ∧ (aged 1).gtc ≤ 1 + 5 ∧ [1] ∈ (aged 0).groups 0 (2 ^ recCsz (run1 id).rcd.bytes) := by decide +kernel
theorem test_dispense_start : recStart (run1 id).rcd.bytes ≤ (headed id).gtc ∧ (headed id).gtc < recStart (podRec 1).bytes := by decide +kernel
/-- 65 indices left to deal to slice 0, a remnant, and none. -/
theorem test_chunk_request : ∀ p ∈ [(([] : List (Nat × Nat)), 0, 65), ([(3, 70)], 65, 65), ([], 65, 65)],
    let x := run1 fun x => { x with state := .dealing, started := true, remnants := p.1, next := p.2.1, total := p.2.2, teams := [0] }
    x.started = true ∧ x.rcd.pod = none ∧ (∃ u ∈ x.teams, sliceOf u = 0) ∧ (((headed id).slice 0).chunks.filter fun c => c.1 == 0).length < 2 := by decide +kernel

/-! ## Witnesses: launches that end, pods -/

/-- A root table at frame 1,025 that maps VA page 0 to frame 1,024 through frames 1,026 to 1,028. -/
def tabled (s : State) : State :=
  [(1025, 2 ^ 63 + 1026 * 8192), (1026, 2 ^ 63 + 1027 * 8192), (1027, 2 ^ 63 + 1028 * 8192), (1028, 2 ^ 63 + 2 ^ 62 + 1024 * 8192 + 0xFC0)].foldl
    (fun s e => ({ s with mem := bytesSet s.mem (memKey 0 (e.1 * 8192)) (leBytes 8 e.2) }).setPoison (lineKey 0 (e.1 * 8192)) 0) s
def rootPtb : BitVec 64 := BitVec.ofNat 64 (1025 * 8192 + 0x1000)
def ended (cmpl : Nat) (f : Launch → Launch) : State :=
  tabled (headed fun x => f { x with state := .draining, rcd := { x.rcd with ptb := rootPtb, bytes := leBytes 256 (2 ^ 128 + 2 ^ 160 + 2 ^ 192 + cmpl * 2 ^ (8 * 0xE0)) } })
theorem test_launch_complete : (((ended 0 id).launch 0).any fun x => decide (x.rcd.pod = none ∧ x.state = .draining ∧ x.teams = [] ∧ (ended 0 id).savedOf 0 = false ∧ (ended 0 id).flushing x = false ∧ recCmpl x.rcd.bytes = 0)) = true := by decide +kernel
/-- The completion slot at VA 0x1000 can be written. -/
theorem test_completion_slot : ((got ((ended 0x1000 id).engWrite ((((ended 0x1000 id).launch 0).getD (run1 id)).ctx) 0x1000 (slotBytes 0 0 0 0 0 1 0 0 0) false)).isSome) = true := by decide +kernel
theorem test_preempt_requeue : (headed fun x => { x with preempt := true }).savedOf 0 = false ∧ (run1 fun x => { x with preempt := true }).teams = [] ∧ (0, 0, 1) = recCoord (run1 id).rcd.bytes 1 := by decide +kernel
theorem test_cancel_effect : (run1 fun x => { x with cancelAt := some 0 }).cancelAt = some 0 ∧ (0 ≤ (headed id).gtc) ∧ (headed id).gtc < 1 ∧ (run1 id).state ≠ .draining := by decide +kernel
/-- A swappable team whose quantum of 5 ticks has passed, another queue's head waiting; and the team once it is chosen. -/
def quantum (saving : Bool) : State :=
  { ((headed fun x => { x with state := .placing, total := 1 }).onFunc 0 fun f => { f with swpq := 5 }).onCore 0 fun c => { c with team := some { launch := 9, stripes := 1, swappable := true, saving := saving }, quads := [] } with gtc := 5 }
theorem test_quant_expiry : (((quantum false).core 0).team.map Team.swappable) = some true ∧ ({ quantum false with launches := [(0, run1 fun x => { x with reserved := [0] })] }).saveCause 0 = some none ∧ ({ quantum false with gtc := 4 }).saveCause 0 = none := by decide +kernel
theorem test_context_save : (quantum true).drained 0 = true ∧ (((quantum true).core 0).team.map Team.saving) = some true ∧ (∀ e ∈ ((quantum true).core 0).stripes, ∀ l ∈ e.2.lanes, l.2.tx.depth = 0) := by decide +kernel
def bound (en : Nat) : State :=
  let s := ((inPod (launching en)).onFunc 0 fun f => { f with qptb := [(0, rootPtb)] })
  { s with pod := { s.pod with launches := [(0, podRun)], inbox := [podRec 1024], config := s.pod.config.map fun c => { c with bindings := [{ group := 0, part := 0, func := 0, queue := 0 }] } } }
theorem test_record_due : RecordDue (bound 1) 0 (podRec 1024) ∧ (bound 1).podOf (recSrc (podRec 1024).bytes) (recStamp (podRec 1024).bytes) = some 0 ∧ (bound 1).gtc + 1024 < recStart (podRec 1025).bytes ∧ (bound 1).pod.cancels = [] :=
  ⟨⟨by decide +kernel, by decide +kernel, fun x hx a b _ _ _ _ => (by decide +kernel : ∀ x ∈ (bound 1).pod.inbox, recEarlier x.bytes (podRec 1024).bytes = false) x hx⟩, by decide +kernel, by decide +kernel, by decide +kernel⟩
theorem test_queue_takes : QueueTakes (bound 1) { group := 0, part := 0, func := 0, queue := 0 } (podRec 1024).bytes ∧ QueueServes (bound 1) { group := 0, part := 0, func := 0, queue := 0 } (podRec 1024).bytes :=
  ⟨⟨by decide +kernel, by decide +kernel, by decide +kernel, by decide +kernel, by decide +kernel⟩, by decide +kernel, by decide +kernel, by decide +kernel⟩
theorem test_queue_disabled : ¬ QueueTakes (bound 0) { group := 0, part := 0, func := 0, queue := 0 } (podRec 1024).bytes := fun h => absurd h.2.1 (by decide +kernel)
theorem test_pod_params : ∃ s1 ps, (taken (bound 1) 0).readVa (memberCtx (bound 1) { group := 0, part := 0, func := 0, queue := 0 } (podRec 1024).bytes) (recPsize (podRec 1024).bytes / 8) (recParp (podRec 1024).bytes) = (s1, .ok ps) ∧ decide (ps = []) = true := of_got (by decide +kernel)
/-- A member other than this package, while indices, a remnant or nothing is left, and after a cancel. -/
theorem test_pod_chunk : Tab.find podded.pod.launches 0 = some podRun ∧ podRun.complete = false ∧ 1 ∈ podRun.members ∧ 1 ≠ podded.packageIdx ∧ podRun.stopped podded.gtc = false ∧ podRun.next < podRun.total ∧
    ({ podRun with next := 8 }).total ≤ ({ podRun with next := 8 }).next ∧ ({ podRun with cancelAt := some 0 }).stopped podded.gtc = true ∧ Tab.find podRun.reports 1 = none ∧ 1 ∉ podRun.lost := by decide +kernel
def ownShare : State := { podded with launches := [(0, run1 fun x => { x with podWant := true, rcd := { x.rcd with pod := some 0 } })] }
theorem test_pod_own_chunk : ownShare.packageIdx ∈ podRun.members ∧ (ownShare.launches.find? (fun e => e.2.rcd.pod == some 0)).map Prod.fst = some 0 ∧ (run1 fun x => { x with podWant := true }).podWant = true := by decide +kernel
theorem test_pod_member_lost : let p := { podRun with next := 8, reports := [(0, emptyReport false false)] }
    podded.podMine p = true ∧ p.exhausted 1000000 = true ∧ (∀ x ∈ p.members, x ≠ 1 → (Tab.find p.reports x).isSome = true) ∧ p.heard + 1000000 ≤ { podded with gtc := 1000000 }.gtc ∧ { podded with gtc := 999999 }.gtc < p.heard + 1000000 := by decide +kernel
theorem test_pod_silent : (ownShare.launch 0).any (fun x => decide (x.rcd.pod = some 0 ∧ x.state ≠ .draining)) = true := by decide +kernel
theorem test_pod_cancel : podRun.src = (0 : BitVec 24).toNat ∧ podRun.stamp = (0 : BitVec 64).toNat := by decide
def podEnd (nflt cmpl : Nat) : PodLaunch :=
  { podRun with members := [0], ptb := rootPtb, priv := .k, rcd := leBytes 256 (2 ^ 128 + 2 ^ 160 + 2 ^ 192 + cmpl * 2 ^ (8 * 0xE0)), reports := [(0, { emptyReport false false with nflt := nflt, first := if nflt = 0 then none else some (leBytes 64 5) })] }
theorem test_pod_complete : podded.podMine (podEnd 0 0) = true ∧ (∀ m ∈ (podEnd 0 0).members, (Tab.find (podEnd 0 0).reports m).isSome = true) ∧ recCmpl (podEnd 0 0).rcd = 0 ∧ (podEnd 1 0).first = some (leBytes 64 5) ∧ 0 < (((podEnd 1 0).members.map (podEnd 1 0).share).map fun x => x.2.2).sum ∧
    recCmpl (podEnd 0 0x1000).rcd ≠ 0 ∧ (podEnd 0 0x1000).lost = [] ∧ (podEnd 0 0x1000).stopped 0 = false := by decide +kernel
theorem test_pod_slot_and_table : ((got ((tabled podded).engWrite (podCtx (podEnd 0 0x1000)) 0x1000 (slotBytes 0 0 0 0 0 1 0 0 0) false)).any fun r => (got (r.1.engWrite (podCtx (podEnd 0 0x1000)) 0x1040 ((podEnd 0 0x1000).entry 0) false)).isSome) = true := by decide +kernel
/-- Flits: too short, and the header fields that a good one is read by. Whether a flit's CRC, a signature or a key is good is a free function's value. -/
theorem test_flits : ¬ ([] : List Byte).length = 256 ∧ (2 ^ 32 * 5 : Nat) / 2 ^ 32 % 2 ^ 16 = 5 ∧ (Tab.get one.pod.links 0 {}).rxSeq = 0 ∧ (Tab.get one.pod.links 0 {}).key = none := by decide +kernel
/-- The offset of a time exchange, halved downwards: 5 ticks is in step and 6 is not. -/
theorem test_time_exchange : ∀ p ∈ [((5 : Int), (10 : Int)), (5, 11), (-1, -1)], 2 * p.1 ≤ p.2 ∧ p.2 < 2 * p.1 + 2 := by decide
theorem test_pod_joined : podded.pod.config ≠ none ∧ podded.pod.joined = true ∧ (let s := { podded with pod := { podded.pod with joined := false } }; s.pod.joined = false ∧ s.pod.config ≠ none) := by decide +kernel

/-! ## Witnesses: failures, boot, requests -/

theorem test_function_core : (one.func 0).up = true ∧ ((one.onFunc 0 fun f => { f with up := false }).func 0).up = false ∧ (recentCrashes one 0).length < 4 ∧ 4 ≤ (recentCrashes (one.onFunc 0 fun f => { f with crashes := [0, 0, 0] }) 0).length := by decide +kernel
theorem test_root_core : one.rootUp = true ∧ ({ one with rootUp := false }).rootUp = false := by decide +kernel
/-- A grow from slice 0 to slices 0 and 1 that has moved its first 1,025 units; unit 1,025 goes to the other slice. -/
def growing (u : Nat) : State := one.onPart 0 fun p => { p with members := [(0, 0), (1, 1)], oldMembers := [(0, 0)], migwm := BitVec.ofNat 64 (2 ^ 63 + u) }
theorem test_migrate_unit : ∃ so lo sn ln, MovesNext (growing 1025) 0 so lo sn ln := ⟨0, 1025 * 8192, 1, 512 * 8192, by decide +kernel, ⟨1025, by decide +kernel, by decide +kernel⟩, by decide +kernel⟩
theorem test_migrate_stops : (one.part 0).migwm.getLsbD 63 = false ∧ (growing 1025).accepted 0 1025 = [] := by decide +kernel
theorem test_boot_retry : let s (g : Option Nat) := one.onPart 0 fun p => { p with retryAt := g }
    ((s none).part 0).retryAt = none ∧ ((s (some 0)).part 0).retryAt = some 0 ∧ (s (some 1)).gtc < 1 := by decide +kernel
theorem test_unit_failure : kindOf 0 = .simt ∧ (one.core 0).failed = false ∧ 18 * sliceOf 0 + 9 * arcadeOf 0 + ((one.slice 0).coreSpare[arcadeOf 0]?).getD 8 = 8 ∧ (one.core 8).failed = false ∧ ((one.onCore 8 fun c => { c with failed := true }).core 8).failed = true ∧
    (one.core 0).team = some { launch := 0, stripes := 1 } ∧ (one.slice 0).subs = [] ∧ kindOf 0xE00 = .host ∧ (one.core 0xE00).failed = false := by decide +kernel
theorem test_power_on : State.reset.bootStage [] = 1 := by decide +kernel
def releasedPackage : State := { one with boot := { one.boot with released := true } }
theorem test_manifest : releasedPackage.manifestBad [] = some 1 ∧ releasedPackage.boot.released = true ∧ one.boot.released = false := by decide +kernel
theorem test_partition_reset : (one.part 0).valid = true ∧ (State.reset.part 0).valid = false := by decide +kernel
def noImage : SignedImage := { magic := 0, flags := 0, loadPA := 0, entry := 0, pubkey := [], sig := [], reserved := [], payload := [] }
def bootable (r : Nat) : State := one.onPart 0 fun p => { p with retries := r }
theorem test_network_boot : Boots (bootable 7) 0 ∧ (bootable 7).kernelOk 0 noImage = false ∧ ((bootable 7).part 0).retries < 8 ∧ 8 ≤ ((bootable 8).part 0).retries := ⟨⟨by decide +kernel, by decide +kernel, by decide +kernel, by decide +kernel⟩, by decide +kernel, by decide +kernel, by decide +kernel⟩
def resizing (join part : List Nat) : State := one.onPart 0 fun p => { p with pstat := 1, joining := join.map fun x => (1, x), parting := part, members := [(0, 0), (2, 2)] }
theorem test_resize : MayJoin (resizing [1] []) 0 1 ∧ MayLeave (resizing [] [2]) 0 2 ∧ (resizing [] [2]).occupied 2 = false ∧ MayLeave (resizing [] [0]) 0 0 ∧ (resizing [] [0]).occupied 0 = true :=
  ⟨by unfold MayJoin NoResize; decide +kernel, by unfold MayLeave NoResize; decide +kernel, by decide +kernel, by unfold MayLeave NoResize; decide +kernel, by decide +kernel⟩
/-- A request block of a code with its parameters behind the window. -/
def asking (code params : Nat) : State := (withBytes one 0 256 (code + params)).onPart 0 fun p => { p with reqs := [windowEnd], wmask := 1 }
def askBlock (code params : Nat) : List Byte := leBytes 256 (code + params)
theorem asks_of (code params : Nat) (h : (asking code params).request 0 = some (windowEnd, askBlock code params) ∧ field (askBlock code params) 0 4 = code ∧ (asking code params).rootUp = true ∧ (asking code params).physWait 4 0 windowEnd 256 true = none ∧ ∀ e ∈ (asking code params).parts, e.2.adding = none ∧ e.2.removing = none) :
    Asks (asking code params) 0 windowEnd code (askBlock code params) := ⟨⟨h.1, h.2.2.1, fun _ => h.2.2.2.1⟩, h.2.1, h.2.2.2.2⟩
/-- KEYSET and KEYCLR of slot 1, the slot of the last frame, one that is none and slot 0; WORLD 0 is in the mask. -/
theorem test_keyset : ∀ slot ∈ [0, 1, 255, 256], ∀ code ∈ [1, 2], Asks (asking code (slot * 2 ^ 64)) 0 windowEnd code (askBlock code (slot * 2 ^ 64)) := by
  have h : ∀ slot ∈ [0, 1, 255, 256], ∀ code ∈ [1, 2], (asking code (slot * 2 ^ 64)).request 0 = some (windowEnd, askBlock code (slot * 2 ^ 64)) ∧ field (askBlock code (slot * 2 ^ 64)) 0 4 = code ∧ (asking code (slot * 2 ^ 64)).rootUp = true ∧
      (asking code (slot * 2 ^ 64)).physWait 4 0 windowEnd 256 true = none ∧ ∀ e ∈ (asking code (slot * 2 ^ 64)).parts, e.2.adding = none ∧ e.2.removing = none := by decide +kernel
  exact fun slot hs code hc => asks_of _ _ (h slot hs code hc)
theorem test_keyset_slots : (asking 1 (2 ^ 64)).slotFrames 0 1 = 0 ∧ 0 < ((asking 1 (2 ^ 64)).onFrame 1024 fun f => { f with owner := some 1 }).slotFrames 0 1 := by decide +kernel
/-- The other requests: an output behind the window or within it, host thread 0 or 4 of core 0xE00, window 0 over one page, stream 0 of slot 0. -/
theorem test_requests : ∀ e ∈ [(3, windowEnd * 2 ^ 384), (3, 0), (4, 0), (5, 0), (6, 0xE00 * 2 ^ 64), (6, 0xE00 * 2 ^ 64 + 4 * 2 ^ 96), (7, 8192 * 2 ^ 192), (8, 0), (8, 16 * 2 ^ 96), (0, 0), (9, 0)],
    (asking e.1 e.2).request 0 = some (windowEnd, askBlock e.1 e.2) ∧ field (askBlock e.1 e.2) 0 4 = e.1 ∧ (asking e.1 e.2).rootUp = true ∧ (asking e.1 e.2).physWait 4 0 windowEnd 256 true = none ∧ ∀ x ∈ (asking e.1 e.2).parts, x.2.adding = none ∧ x.2.removing = none := by decide +kernel
theorem test_request_outputs : (asking 3 (windowEnd * 2 ^ 384)).fwCan 0 windowEnd 512 = true ∧ (asking 3 0).fwCan 0 0 512 = false ∧ Idle (asking 6 (0xE00 * 2 ^ 64)) 0 0xE00 ∧
    8192 ≤ ((asking 7 0).part 0).size ∧ Tab.find ((asking 8 0).part 0).members 0 = some 0 ∧ Tab.find ((asking 8 0).part 0).members 1 = none ∧ ((asking 8 0).stream 0 0).pending = none := by unfold Idle; decide +kernel
theorem test_request_resizing : ¬ NoResize ((asking 1 0).onPart 0 fun p => { p with adding := some 1 }) ∧ ({ asking 1 0 with rootUp := false }).rootUp = false := by unfold NoResize; decide +kernel
theorem test_meter : let s := { one.onPart 0 fun p => { p with bootAt := some 0 } with gtc := 1000000000 }
    (s.part 0).bootAt ≠ none ∧ (s.part 0).meterFrom + 1000000000 ≤ s.gtc ∧ (s.part 0).meterLog.length < 65536 ∧ (one.part 0).bootAt = none ∧ ({ s with gtc := 999999999 }).gtc < (s.part 0).meterFrom + 1000000000 := by decide +kernel

/-! ## Ill-formed terms, one for each check of R230 -/

/-- Events are no words; odd pair, misaligned quad, modifier, type, Q, rounding, order and size codes, register run past g127, gang operation code (R202, R206, R208, R215, R237, R263, R335). -/
theorem test_illegal_terms : ∀ i ∈ ([.turnGrant 0 0, .movh { hdr := h7, dst := 3, imm := 1, x := 0 }, .imadw (rf 3 1 2 6 1), .fetcht (ef 6 0 0 0 0 0), .mov { rf 3 1 0 0 0 with ma := 12 }, .iadd { rf 3 1 2 0 2 with mb := 15 },
    .iadd (rf 3 1 2 0 8), .icmp (rf 6 1 2 0 0x180), .flog2 (rf 3 1 0 0 0x18), .fcvt (rf 3 1 0 8 8), .ptrmk (rf 4 6 1 0 0xC0), .ld (mf 3 9 0 0 0x100), .ld (mf 3 8 0 0 0x180), .ld (mf 4 8 0 0 0x1C0 |> fun f => { f with dst := 6 }),
    .ld (mf 3 8 0 0 0x120), .amoFadd (mf 6 8 0 0 0x140), .st (mf 3 8 0 0 0x040), .fence (mf 0 0 0 0 0), .waitc (ef 0 0 0 0 0 5), .chrecv (ef 125 0 0 0 0 3), .gvote (ef 3 5 0 0 0 4), .gred (ef 3 1 0 0 0 0x16), .rdsr (imf 5 0 0x051 0), .rdsr (imf 4 0 0x0FF 0),
    .bra (bf 0 0), .join { rf 0 0 0 0 0 with hdr := { hRun with p := 1 } }] : List Instr), i.wellFormed = false := by decide +kernel
/-- Reserved register, predicate, modifier, policy and X fields, immediates above their range, granule codes, the guard bit of a B word, and a form bit of another row (R202 to R204, R209, R211, R263). -/
theorem test_reserved_terms : ∀ i ∈ ([.popc (rf 3 1 2 0 0), .icmp (rf 8 1 2 0 0), .popc { rf 3 1 0 0 0 with mb := 1 }, .popc { rf 3 1 0 0 0 with fc := true }, .popc (rf 3 1 0 0 0x40), .fmin (rf 3 1 2 0 0x18), .lut3 (rf 3 1 2 4 0x100),
    .dot4 (rf 3 1 2 4 0x104), .iaddI (imf 3 1 0 0x10), .movi { hdr := h7, dst := 3, imm := 1, x := 1 }, .ld (mf 3 8 0 0 0x103), .st (mf 3 8 0 0 0x102), .pref (mf 1 8 0 0 0), .trap (imf 0 0 256 0), .wrsr (imf 1 5 0x010 0), .rdsr (imf 4 0 0x1051 0),
    .bra { bf 0 0 with hdr := hRun, bit9 := true }, .brd { bf 0 2 with hdr := hRun }, .mxclaim (ef 0 0 0 0 32 0), .mxclaim (ef 0 0 0 4 0 0), .sload (ef 3 2 4 6 0 0x21), .sload (ef 3 2 4 6 1 0), .giveR (ef 0 0 3 0 0 0x80), .barsync (ef 0 0 0 0 64 0),
    .chsend (ef 0 8 0 0 2 0x100), .txend (ef 0 0 0 0 0 0x80), .launch (ef 2 10 12 0 0 1), .tlbinvAll (ef 0 0 0 0 0 0)] : List Instr), i.wellFormed = false := by decide +kernel
/-- The halves of a dual word: an OP7 that is not dual-eligible, a T code, and one destination for two writes (R218, R221). -/
theorem test_dual_terms : ∀ h ∈ [({ ps := 0, op := 0x7F, d := 3, s := 4, ms := 0, fs := false, t := 0 } : Half), { ps := 0, op := 6, d := 3, s := 4, ms := 0, fs := false, t := 1 }, { ps := 0, op := 1, d := 5, s := 4, ms := 0, fs := false, t := 0 }],
    (Instr.dualWord { b := false, hi := h, lo := { ps := 0, op := 1, d := 5, s := 4, ms := 0, fs := false, t := 0 } }).wellFormed = false := by decide +kernel
/-- A word without a row and a word with both faults are ILLEGAL; one with a reserved bit is RESERVED (R11). -/
theorem test_refused_words : decode 0x1C25000000000000 = .illegal ∧ decode 0x1C17060408000040 = .reserved ∧ decode 0x1C00060410000408 = .illegal ∧ decode 0x1F86000000000003 = .illegal := by decide +kernel

/-! ## Witnesses: the machine -/

/-- Core 0 fetches IADD.i16x2 g3, g1, g2 at PC 0 (log 11). -/
def atWord : State := State.reset.withFetchWord 64 0x1C00060410000402
theorem test_step_issues : Issues atWord atWord 0 0 false ∧ atWord.openGroup 0 0 false = some { unit := 0, stripe := 0, lanes := 1, pc := 0 } := ⟨Or.inl ⟨by decide +kernel, by decide +kernel, rfl⟩, by decide +kernel⟩
/-- The state in which that word is fetched. -/
def opening : State := ({ atWord with cur := { unit := 0, stripe := 0, lanes := 1, pc := 0 } } : State).beginWord.startGuest
theorem test_step_fetches : ∃ t, Fetches opening t 0x1C00060410000402 := by
  obtain ⟨s1, x, h1, h2⟩ := of_got (r := opening.translate { part := opening.curPart, ptb := opening.ptbOf opening.cur.unit opening.cur.stripe 0, priv := opening.curPriv, need := .fetch, tlb := opening.curTlb } opening.cur.pc.toNat)
    (p := fun s1 x => decide (0x800000 ≤ x.pa) &&
      (let r := s1.keyCheck { part := opening.curPart, world := s1.worldOf opening.cur.unit opening.cur.stripe 0, pass := s1.curPriv.atK && (s1.curKind == .host || s1.curKind == .func || s1.curKind == .root), key := x.key, isSealed := x.isSealed } x.pa
       r.2 && decide (r.1.homeWait opening.curPart x.pa 8 false true = none) && ((r.1.homeOf opening.curPart x.pa).any fun h => let q := r.1.readHome opening.curPart h.1 h.2 8
         !q.2.2 && (BitVec.ofNat 64 (leNat (bytesGet q.1.mem (memKey h.1 h.2) 8)) == 0x1C00060410000402)))) (by decide +kernel)
  simp only [Bool.and_eq_true, decide_eq_true_eq] at h2
  obtain ⟨hp, ⟨hk, hr⟩, h3⟩ := h2
  generalize hh : State.homeOf _ _ _ = o at h3
  obtain _ | ⟨sl, loc⟩ := o
  · simp at h3
  simp only [Option.any_some, Bool.and_eq_true, Bool.not_eq_true', beq_iff_eq] at h3
  obtain ⟨hq, hw⟩ := h3
  exact ⟨_, by decide +kernel, s1, _, _, x, sl, loc, _, h1, hp, Prod.ext rfl hk, hr, hh, Prod.ext rfl (Prod.ext rfl hq), rfl, hw.symm⟩
/-- The step after it has written 2 + 3 and 1 + 1 per half, and the group is at the next word. -/
theorem test_step_runs : (match step (atWord.onThread 0 0 0 fun t => (t.setReg 1 0x00020001).setReg 2 0x00030001) with
    | .next t => (t.thread 0 0 0).reg 3 == 0x00050002 && (t.thread 0 0 0).pc == 8
    | _ => false) = true := by decide +kernel
/-- An event of the agenda: a store of MASK in the firewall of slice 0. -/
theorem test_step_event : ({ State.reset with agenda := [.event (.fwctlWrite 0 1)] }).agenda = .event (.fwctlWrite 0 1) :: [] ∧
    (match step { State.reset with agenda := [.event (.fwctlWrite 0 1)] } with | .next t => t.agenda == [] | _ => false) = true := by decide +kernel
theorem test_reset_answers : (match step State.reset with | .next t => decide (t.gtc < 2 ^ 64 ∧ t.regWrites = []) && Memory.wf t.mem | _ => false) = true := by decide +kernel
theorem test_reset_invariant : State.reset.Inv ∧ Memory.wf State.reset.mem = true := by
  refine ⟨⟨by decide, rfl, ?_⟩, by decide⟩
  intro u g h
  simp [State.core, State.reset, Tab.get, Tab.find] at h
theorem test_reset_events : (∃ t, exec (.partitionReset 0) State.reset = .next t) ∧ (∃ t, exec .rootCoreRestart State.reset = .next t) ∧ (∃ t, exec (.fnrst 0) State.reset = .next t) := ⟨⟨_, rfl⟩, ⟨_, rfl⟩, ⟨_, rfl⟩⟩
theorem test_well_formed_words : (Instr.iadd (rf 3 1 2 0 2)).wellFormed = true ∧ decode 0x1C00060410000002 = .ok (.iadd (rf 3 1 2 0 2)) := by decide +kernel

/-! ## Witnesses: gang words of a gang's only participant -/

theorem alone_of (s : State) (f : FmtE) (l : Nat) (rs : List Nat) (mr : Option Nat)
    (h : (decide (s.curKind = .simt) && decide (s.cur.stripe < 16) && decide (s.active f.hdr = [l]) && decide ((s.curThread l).status = .ready) && readyB s (s.active f.hdr) (rs ++ mr.toList) &&
      (mr.elim 0xFFFFFFFF (s.curThread l).reg).getLsbD l && (s.curThread l).gangs.getLsbD (gangNo f) &&
      ((List.range 16).all fun j => (List.range 32).all fun k => !((s.thread s.cur.unit j k).alive && (s.thread s.cur.unit j k).gangs.getLsbD (gangNo f)) || (j == s.cur.stripe && k == l)) &&
      decide (Tab.find (s.core s.cur.unit).gangs (gangNo f) = none)) = true) : Alone s f l rs mr := by
  simp only [Bool.and_eq_true, decide_eq_true_eq] at h
  obtain ⟨⟨⟨⟨⟨⟨⟨⟨h1, h2⟩, h3⟩, h4⟩, h5⟩, h6⟩, h7⟩, h8⟩, h9⟩ := h
  refine ⟨h1, h2, h3, h4, ready_of h5, h6, h7, fun j k hj hk ha hg _ => ?_, h9⟩
  have := List.all_eq_true.mp (List.all_eq_true.mp h8 j (List.mem_range.mpr hj)) k (List.mem_range.mpr hk)
  simpa [ha, hg] using this
/-- GVOTE, GSHFL, GRED, GELECT, MXCLAIM, MXFREE, TXEND.g. -/
theorem test_alone : Alone member (gangF 0) 0 [10, 2, 4, 6] none ∧ Alone member (gangF 0x100) 0 [10, 2, 4] (maskReg (gangF 0)) := ⟨alone_of _ _ _ _ _ (by decide +kernel), alone_of _ _ _ _ _ (by decide +kernel)⟩
theorem test_alone_masked : Alone (withRegs member [(6, 1)]) (gangF 0x100) 0 [10, 2, 4] (maskReg (gangF 0x100)) := alone_of _ _ _ _ _ (by decide +kernel)
def claiming : State := member.onMatrix 0 fun m => { m with claim := some 0 }
theorem test_alone_claim : Alone claiming (gangF 0) 0 [] (maskReg (gangF 0)) ∧ (claiming.core 0).matrix.claim = some (gangNo (gangF 0)) ∧ MatrixMayIssue false claiming (gangF 0).hdr := by
  refine ⟨alone_of _ _ _ _ _ (by decide +kernel), by decide +kernel, ⟨by decide +kernel, by decide +kernel⟩, Or.inl (by decide +kernel), fun l hl => ⟨?_, by simp⟩⟩
  exact (by decide +kernel : ∀ l ∈ claiming.active (gangF 0).hdr, (claiming.curThread l).deferred = none) l hl
/-- One row of INT8 A times a valid slot of 32 by 32 INT8 elements into tile 0. -/
def multiplying : State :=
  let d := 2 ^ 31 + 7 * 2 ^ 12 + 2 ^ 8
  withRegs (claiming.onCore 0 fun c => { c with bmode := 0x5555555555555555, sram := bytesSet [] 256 (leBytes 128 (spadAt 0 + 32 * 2 ^ 64 + 32 * 2 ^ (8 * 0x28))), team := some { launch := 0, stripes := 1, tiles := 4 }, matrix := { c.matrix with slots := [(0, { valid := true, ecls := 1, kcnt := 32 })] } }) [(2, d), (3, d), (4, 256), (5, 2 ^ 29), (6, 1), (7, 1)]
def mulF : FmtE := ef 0 2 4 6 0 0
theorem test_alone_multiplies : Alone multiplying mulF 0 [2, 3, 4, 5, 6, 7] none := alone_of _ _ _ _ _ (by decide +kernel)
theorem test_multiply_may_issue : MatrixMayIssue true multiplying mulF.hdr ∧ TillOk multiplying mulF := by
  refine ⟨⟨⟨by decide +kernel, by decide +kernel⟩, Or.inl (by decide +kernel), fun l hl => ⟨?_, fun _ => ?_⟩⟩, by unfold TillOk; decide +kernel⟩
  · exact (by decide +kernel : ∀ l ∈ multiplying.active mulF.hdr, (multiplying.curThread l).deferred = none) l hl
  · exact (by decide +kernel : ∀ l ∈ multiplying.active mulF.hdr, multiplying.claimOk l = true) l hl
theorem test_multiply_ready : MulReady multiplying (mulOpOf multiplying mulF 0) :=
  ⟨by decide +kernel, by decide +kernel, by decide +kernel, by decide +kernel, by decide +kernel, by decide +kernel, by decide +kernel⟩
/-- Lane 0 is in an empty transaction. -/
def ending : State := member.onThread 0 0 0 fun t => { t with tx := { depth := 1, log := 1024, cap := 1, target := 64 } }
theorem test_alone_ends : Alone ending (gangF 0) 0 [] none ∧ (ending.curThread 0).tx.depth = 1 ∧ (ending.curThread 0).tx.count = 0 ∧ ending.pending 0 0 0 true false false = false ∧ ending.commits = [] :=
  ⟨alone_of _ _ _ _ _ (by decide +kernel), by decide +kernel, by decide +kernel, by decide +kernel, by decide +kernel⟩
/-- Two blocks' worth of units are in the pool, block 0 is mapped, g4 asks for block 1; bank 0 is cache; tiles 0 to 3 are the record's. -/
def pool (n : Nat) : Team := { launch := 0, stripes := 1, tiles := 4, pool := n, used := 1, taken := [8] }
def taker (n v : Nat) : State := (withRegs (member.onCore 0 fun c => { c with team := some (pool n) }) [(4, v)]).onThread 0 0 0 fun t => { t with blocks := 1 }
def takeF (x : BitVec 9) : FmtE := ef 10 0 4 0 0 x
theorem test_alone_takes : (∀ v ∈ [1, 2], Alone (taker 2 v) (takeF 0) 0 [4, 10] none) ∧ (∀ v ∈ [1, 2], ((taker 2 v).core 0).takes = [] ∧ ((taker 2 v).core 0).team = some (pool 2)) ∧
    (pool 2).used + ((taker 2 2).curThread 0).unmapped 2 ≤ (pool 2).pool ∧ ((taker 2 1).curThread 0).blocks.getLsbD 0 = true ∧ ((taker 2 1).curThread 0).empty = 0 := by
  refine ⟨fun v hv => ?_, by decide +kernel, by decide +kernel, by decide +kernel, by decide +kernel⟩
  simp only [List.mem_cons, List.not_mem_nil, or_false] at hv
  rcases hv with rfl | rfl <;> exact alone_of _ _ _ _ _ (by decide +kernel)
/-- Banks 0 to 2: scratchpad, cache, scratchpad. -/
def banked : State := (taker 2 2).onCore 0 fun c => { c with bmode := 0x11 }
theorem test_alone_banks : Alone banked (takeF 0) 0 [4, 10] none ∧ (banked.core 0).mode 1 = 0 ∧ (banked.core 0).mode 0 ≠ 0 ∧ (banked.core 0).mode 2 = 1 ∧ (banked.core 0).takes = [] ∧
    2 ∉ (banked.core 0).leaving ∧ banked.bankBusy 0 2 = false ∧ ((banked.curThread 0).reg 4).toNat % 32 = 2 :=
  ⟨alone_of _ _ _ _ _ (by decide +kernel), by decide +kernel⟩
/-- One tile, from 4 on; tile 8 goes back. -/
theorem test_alone_tiles : TillOk (taker 2 1) (takeF 0) ∧ (pool 2).freeRun 1 = some 4 ∧ ((taker 2 1).curThread 0).reg 4 = 1 ∧ Alone (taker 2 (8 + 2 ^ 16)) (takeF 0) 0 [4] none ∧
    (∀ k ∈ giveTiles (8 + 2 ^ 16), k ∈ (pool 2).taken ∧ ((taker 2 (8 + 2 ^ 16)).core 0).tileBusy k = false) ∧ bits (8 + 2 ^ 16) 21 16 = 1 :=
  ⟨by unfold TillOk; decide +kernel, by decide +kernel, by decide +kernel, alone_of _ _ _ _ _ (by decide +kernel), by decide +kernel, by decide +kernel⟩
/-- A .try form that finds nothing: the pool is used up, no bank is cache, 32 tiles are not in one run. -/
def poor : State := (taker 1 0x20).onCore 0 fun c => { c with bmode := 0x5555555555555555, team := some { pool 1 with tiles := 1000 } }
theorem test_alone_tries : Alone poor (takeF 0x80) 0 [4, 10] none ∧ (takeF 0x80).x.getLsbD 7 = true ∧ (pool 1).pool < (pool 1).used + (poor.curThread 0).unmapped 0x20 ∧ (∀ b, b < 32 → (poor.core 0).mode b ≠ 0) ∧
    TillOk poor (takeF 0x80) ∧ ((poor.core 0).team.bind fun m => m.freeRun 32) = none ∧ (poor.core 0).team.isSome = true :=
  ⟨alone_of _ _ _ _ _ (by decide +kernel), by decide +kernel, by decide +kernel, by decide +kernel, by unfold TillOk; decide +kernel, by decide +kernel, by decide +kernel⟩

/-! ## Witnesses: the clauses that stand beside those above -/

theorem test_nunpack_registers : two.RegsReady h7 [1, 2, 3, 6] := ready_of (by decide +kernel)
/-- A load is under way. -/
def loading : State := one.onCore 0 fun c => { c with outq := [acc .load] }
/-- JOIN of lane 0 with a load under way, and with none. -/
def atJoin (s : State) : State := s.onStripe 0 0 fun t => { t with join := [{ pc := 0, mask := 1 }] }
theorem test_join_arrival : (atJoin loading).curStripe.serial = false ∧ (atJoin loading).curStripe.join = [{ pc := 0, mask := 1 }] ∧ (atJoin loading).cur.pc = 0 ∧ (atJoin loading).curLanes = [0] ∧
    (atJoin loading).pending 0 0 0 false false false = true ∧ (atJoin one).pending 0 0 0 false false false = false := by decide +kernel
/-- Group A has taken more clk of the turn than group B, whose word comes next, or as many. -/
theorem test_yield_clk : (∀ n ∈ [1, 2], (Tab.get ((one.onCore 0 fun c => { c with quads := [(0, { turn := some { stripe := 0, a := 1, b := 2, ca := n, cb := 1 }, last := 0 })] }).core 0).quads 0 {}).turn = some { stripe := 0, a := 1, b := 2, ca := n, cb := 1 }) ∧ one.cur.groupB = false ∧ one.cur.quad = 0 := by decide +kernel
/-- Data that is back, clean or poisoned. -/
theorem test_load_back : ((one.onCore 0 fun c => { c with outq := [{ acc .load with performed := true, back := true, value := 7 }] }).access 0 0) = some { acc .load with performed := true, back := true, value := 7 } ∧
    ((one.onCore 0 fun c => { c with outq := [{ acc .load with performed := true, back := true, poisoned := true, spec := true }] }).access 0 0) = some { acc .load with performed := true, back := true, poisoned := true, spec := true } := by decide +kernel
theorem test_fill_arrival_bank : (missing.bank 0).failed = false ∧ ((missing.bank 0).setLines 65536).length ≤ 16 ∧ (missing.access 0 0).map Access.pa = some windowEnd ∧ missing.homeOf ((missing.partOf 0).getD 0) windowEnd = some (0, windowEnd) ∧
    bankOf 0 windowEnd = 0 ∧ windowEnd / 128 = 65536 := by decide +kernel
/-- At the uplink of core 0's arcade a request for slice 0 leaves, with its mask and without; at the bank port it enters, and a response comes back at the core's port. -/
def onTheWay (port dst : Nat) (resp : Bool) (route : List (Nat × Nat)) : State :=
  { (atBank .load true) with ports := [(port, { packets := [{ input := 0, cls := 1, unit := 0, id := 0, slice := dst, response := resp, route := route }] })] }
theorem test_packet_ways : (∀ e ∈ [(uplinkPort 0 0, 0, false, [(0, 1)]), (uplinkPort 0 0, 1, false, []), (0, 0, false, []), (0, 1, false, []), (uplinkPort 0 0, 0, true, [(7, 1)]), (uplinkPort 0 0, 0, true, [])],
      (∀ x ∈ (Tab.get (onTheWay e.1 e.2.1 e.2.2.1 e.2.2.2).ports e.1 {}).packets, x.cls < 4 ∧ x.input < 4 ∧ x.route.head?.map Prod.fst ≠ some e.1) ∧ ((onTheWay e.1 e.2.1 e.2.2.1 e.2.2.2).access 0 0).isSome = true) ∧
    ({ input := 0, cls := 1, unit := 0, id := 0 } : Packet).leaves (uplinkPort 0 0) = true ∧ ({ input := 0, cls := 1, unit := 0, id := 0 } : Packet).leaves 0 = false ∧ one.mayLeave 0 0 = true ∧ one.mayLeave 0 1 = false ∧
    one.mayEnter (one.stamp { input := 0, cls := 1, unit := 0, id := 0 }) 0 = true ∧ one.mayEnter { input := 0, cls := 1, unit := 0, id := 0 } 0 = false ∧ one.inDrain 0 = false := by decide +kernel
/-- A notify at its last port, the notify that it stands for, and a link that has failed. -/
theorem test_packet_notify : let s := { ((launching 1).onFunc 0 fun k => { k with notifies := [{ note with there := false }] }) with ports := [(5, { packets := [{ input := 0, cls := 2, unit := 0, id := 0, notify := true }] })] }
    s.linkLost 5 = false ∧ (∃ n, Tab.find s.funcs 0 = some n ∧ (∃ x ∈ n.notifies, x.unit = 0 ∧ 32 * x.stripe + x.lane = 0)) ∧ ({ s with lostUnits := [linkUnit 0] }).linkLost 320 = true := by decide +kernel
/-- A written line of channel 0, resident and not, with the spare in use for channel 3 and unused. -/
def onChannel (used r : Bool) : State := { (atBank .load r).onSlice 0 fun k => { k with spareUsed := used, lostChans := if used then [3] else [] } with metas := [(65536, { clear := false }), (65539, { clear := false })] }
theorem test_pseudo_channel_lines : (∀ b ∈ [false, true], 0 ∉ ((onChannel b b).slice 0).lostChans ∧ 16 ∉ ((onChannel b b).slice 0).lostChans ∧ (onChannel b b).resident 0 (65536 % 2 ^ 28 * 128) = b) ∧ 65536 % 16 = 0 ∧ 65539 % 16 = 3 ∧
    (((onChannel true true).slice 0).lostChans.filter (· ≠ 16)).head? = some 3 := by decide +kernel
theorem test_sram_cache_bank : kindOf 0 = .simt ∧ (one.core 0).mode (2 / 4096) = 0 ∧ (one.core 0).mode (20480 / 4096) = 0 := by decide +kernel
/-- Stripe 1 has no operation. -/
theorem test_stage_other_turn : (staged (stageOp1 0 0x1000 1)).stageTurn 0 ≠ some 1 := by decide +kernel
theorem test_barrow_works : ((carted (barrowOp1 0x800 0 0 false)).barrow 0 0).failed = false ∧ (barrowOp1 0x800 0 0 false).started = true := by decide +kernel
/-- MXRD of a lane that has aborted since, and the release's mark with a drain before it that is and is not complete. -/
theorem test_mxrd_masked : (matOp1 5 0 [0, 0, 1, 6]).masked.getLsbD 0 = false ∧ ({ matOp1 5 0 [0, 0, 1, 6] with masked := 1 }).masked.getLsbD 0 = true ∧ (matOp1 5 0 [0, 0, 1, 6]).lanes.getLsbD 0 = true := by decide +kernel
def releasing (done : Bool) : State := (pointing 0).onCore 0 fun c => { c with matrix := { queue := [matOp1 8 0 [0]], drain := [{ drainOp with complete := done }] } }
theorem test_claim_release : ((releasing true).core 0).matrix.queue = [matOp1 8 0 [0]] ∧ (∃ d ∈ ((releasing false).core 0).matrix.drain, d.tag ∈ (matOp1 8 0 [0]).args ∧ d.complete = false) ∧
    ∀ d ∈ ((releasing true).core 0).matrix.drain, d.tag ∈ (matOp1 8 0 [0]).args → d.complete = true := by decide +kernel
/-- A rendezvous of lane 0 with the lane at home and on a booth. -/
def meetingWith (st : Status) : State := (claiming.onThread 0 0 0 fun t => { t with status := st }).onCore 0 fun c => { c with gangs := [(0, { word := 0x201, mask := 0xFFFFFFFF, parts := [(0, 0)], arrivals := [{ stripe := 0, lane := 0, a := 0, b := 0, dst := 128, pd := 7 }] })] }
theorem test_gang_participant_away : (Tab.find ((meetingWith (.ejected 3072 0)).core 0).gangs 0).any (fun r => r.complete && r.parts.any (fun p => ((meetingWith (.ejected 3072 0)).thread 0 p.1 p.2).status == Status.ejected 3072 0)) = true ∧
    (Tab.find ((meetingWith .ready).core 0).gangs 0).any (fun r => r.complete && !r.ranked.isEmpty && r.ranked.all (fun a => (atPlace (meetingWith .ready) 0 a).gangs.getLsbD 0) && r.parts.all (fun p => ((meetingWith .ready).thread 0 p.1 p.2).status == Status.ready)) = true ∧
    ((meetingWith .ready).core 0).matrix.claim = some 0 := by decide +kernel
theorem test_txend_not_held : (txState 1 1).txHeld ((txState 1 1).member 0 0 0) = none := by decide +kernel
theorem test_tx_write_back_bank : ((atBank .load true).bank (bankOf 0 windowEnd)).failed = false ∧ (atBank .load true).inBank 0 windowEnd = true ∧ (atBank .load true).homeOf 0 windowEnd = some (0, windowEnd) := by decide +kernel
theorem test_repatriate_boundary : (boothState { guest true 0 with marked := true, timeout := true, joinPc := 64 } .ready).atBoundary 3072 0 = true := by decide +kernel
theorem test_fault_post_bank : ((faulting true 0).bank (bankOf 0 windowEnd)).failed = false ∧ (((faulting true 0).bank (bankOf 0 windowEnd)).makeRoom (faulting true 0).gtc (windowEnd / 128)).isSome = true := by decide +kernel
/-- The record that stands last in the queue has the same stamp and a higher SRC. -/
theorem test_notify_later : ∃ k x, (Tab.get ((notified 1 false).func 0).queues note.queue []).getLast? = some k ∧ { notified 1 false with launches := [(0, run1 fun x => { x with rcd := { x.rcd with src := 9 } })] }.launch k = some x ∧
    x.rcd.stamp = (notified 1 false).gtc ∧ note.rcd.src < x.rcd.src := ⟨0, run1 fun x => { x with rcd := { x.rcd with src := 9 } }, by decide +kernel, by decide +kernel, by decide +kernel, by decide +kernel⟩
theorem test_crash_causes : (1 ≤ (0x1A : BitVec 8).toNat ∧ (0x1A : BitVec 8).toNat ≤ 0x1A) ∧ 0x1A < (0x1B : BitVec 8).toNat ∧ (0 : BitVec 8).toNat = 0 := by decide
/-- Core 8 of arcade 0 became core 1's spare at this GTC. -/
def spared : State := one.onSlice 0 fun k => { k with subs := [(1, 8)], spareAt := [(8, 0)] }
theorem test_spare_conflict : (spared.slice (sliceOf 0)).subs = [(1, 8)] ∧ Tab.find (spared.slice (sliceOf 0)).spareAt 8 = some spared.gtc ∧ 0 < 1 ∧ 8 ≠ 0 ∧ (spared.core 8).failed = false ∧
    18 * sliceOf 0 + 9 * arcadeOf 0 + ((spared.slice 0).coreSpare[arcadeOf 0]?).getD 8 = 8 := by decide +kernel
theorem test_bank_failure : 0 < 128 ∧ (one.core 0x1000).failed = false ∧ 127 < 128 ∧ (one.core 0x107F).failed = false := by decide +kernel
theorem test_tier_port : one.cxlFailed.getLsbD 15 = false ∧ ({ one with cxlFailed := 0x8000 }).cxlFailed.getLsbD 15 = true := by decide +kernel
/-- A stream with no key, with one, and stopped. -/
def keyed (cur stop : Bool) : State := (asking 8 0).onSlice 0 fun k => { k with streams := if cur then [(0, { current := some { key := [], first := 0 }, stop := stop })] else [] }
theorem test_stream_states : ((keyed false false).stream 0 0).current = none ∧ ((keyed false false).stream 0 0).stop = false ∧ ((keyed true false).stream 0 0).current ≠ none ∧ ((keyed true false).stream 0 0).stop = false ∧
    ((keyed true true).stream 0 0).current ≠ none ∧ ((keyed true true).stream 0 0).stop = true ∧ ((keyed true true).stream 0 0).pending = none := by decide +kernel
theorem test_migrate_bytes : ((growing 1025).frame (frameKey 0 (1025 * 8192))).dead = false ∧ ((growing 1025).frame (frameKey 1 (512 * 8192))).lost = none ∧ Tab.find (growing 1025).latent (lineKey 0 (1025 * 8192)) = none ∧
    (Tab.get { growing 1025 with metas := [(lineKey 0 (1025 * 8192), { clear := false })] }.metas (lineKey 0 (1025 * 8192)) {}).clear = false ∧ ((growing 1025).poisonOf 0).getLsbD 0 = ((growing 1025).poisonOf 0).getLsbD 0 := by decide +kernel

/-! ## Witnesses: launches of pods, and saves -/

/-- A record of 16,384 indices, noted for a pod launch. -/
def podNote : Notify := { note with pod := true, rcd := { note.rcd with bytes := leBytes 256 (2 ^ 142 + 2 ^ 160 + 2 ^ 192) } }
def podNoted : State := (inPod (notified 1 false)).onFunc 0 fun f => { f with notifies := [podNote] }
theorem test_pod_notify : (podNoted.func 0).notifies = [podNote] ∧ (podNoted.func 0).up = true ∧ podNote.pod = true ∧ (podNoted.func 0).resetting = false ∧ (Tab.get (podNoted.func 0).queues podNote.queue []) = [0] ∧
    (podNoted.launch 0).any (fun x => decide (x.rcd.src ≤ podNote.rcd.src)) = true ∧
    let b := patch podNote.rcd.bytes 0xF4 (leBytes 4 podNote.rcd.src ++ leBytes 8 podNoted.gtc)
    (podNoted.pod.config.bind fun c => c.groups.find? fun g => g.number == recGroup b) = some { number := 0, members := [0] } ∧ recFirst b = some 0 ∧ 0 + 8192 * 0 + 8192 ≤ recTotal b ∧ [0].Nodup := by decide +kernel
def aWait {σ α : Type} (r : σ × Except EngStop α) : Bool := match r.2 with
  | .error .wait => true
  | _ => false
def aFault {σ α : Type} (r : σ × Except EngStop α) : Bool := match r.2 with
  | .error (.fault _) => true
  | _ => false
/-- A commit holds the word at a physical address in bank 0. -/
def heldAt (s : State) (pa : Nat) : State := s.onBank 0 fun b => { b with reserved := [{ pa := pa, size := 8, write := true, tx := 9 }] }
/-- Launch 0 with eight parameter bytes at VA 0, its page mapped or not, with a commit holding them or not. -/
def fetching1 (mapped holds : Bool) : State :=
  let s := headed fun x => { x with rcd := { x.rcd with ptb := if mapped then rootPtb else 0, bytes := leBytes 256 (2 ^ 128 + 2 ^ 160 + 2 ^ 192 + 8 * 2 ^ (8 * 0x1C)) } }
  let s := if mapped then tabled s else s
  if holds then heldAt s windowEnd else s
def fetched1 (s : State) : State × Except EngStop (List Byte) := match s.launch 0 with
  | some x => s.readVa x.ctx (recPsize x.rcd.bytes / 8) (recParp x.rcd.bytes)
  | none => (s, .ok [])
theorem test_param_fetch_stops : aWait (fetched1 (fetching1 true true)) = true ∧ aFault (fetched1 (fetching1 false false)) = true ∧
    ((fetching1 true true).launch 0).any (fun x => decide (x.state = .queued ∧ x.rcd.pod = none ∧ x.nodeWait = false ∧ x.preempt = false ∧ x.stopped 0 = false ∧ x.failed = false)) = true ∧ (fetching1 true true).gtc = 0 ∧ (fetching1 false false).headOf 0 0 = some 0 ∧ ((fetching1 false false).func 0).up = true := by decide +kernel
theorem test_param_fetch_pod : (run1 fun x => { x with rcd := { x.rcd with pod := some 0 } }).rcd.pod ≠ none ∧ (headed fun x => { x with rcd := { x.rcd with pod := some 0 } }).headOf 0 0 = some 0 := by decide +kernel
/-- Two remnants; a pod chunk and no index of the last one; a launch that has not started, and one that no team of slice 1 serves. -/
theorem test_chunk_request_more : (∀ r ∈ [(70, 80), (3, 70)], 3 < r.1 ∨ r = (3, 70)) ∧
    (let x := run1 fun x => { x with rcd := { x.rcd with pod := some 0 }, state := .dealing, started := true, podChunks := [(4096, 8192)], next := 64, total := 64, teams := [0] }; x.rcd.pod = some 0 ∧ x.remnants = [] ∧ x.total ≤ x.next ∧ x.podChunks = (4096, 8192) :: [] ∧ (∃ u ∈ x.teams, sliceOf u = 0)) ∧
    (run1 id).started = false ∧ (∀ u ∈ [0], sliceOf u ≠ 1) := by decide +kernel
/-- The completion slot at VA 0x1000 while a commit holds it, and where nothing maps it. -/
def slotAsked (s : State) : State × Except EngStop Unit := match s.launch 0 with
  | some x => s.engWrite x.ctx (recCmpl x.rcd.bytes % 2 ^ 52) (slotBytes s.gtc (s.src 0x1611) (if x.failed then 3 else if x.cancelled then 1 else 0) x.rcd.stamp x.rcd.src 1 x.disp x.high x.nflt) false
  | none => (s, .ok ())
theorem test_completion_stops : aWait (slotAsked (heldAt (ended 0x1000 id) (windowEnd + 0x1000))) = true ∧ aFault (slotAsked (ended 0x1000 fun x => { x with rcd := { x.rcd with ptb := 0 } })) = true := by decide +kernel
theorem test_completion_share : let s := { (ended 0 fun x => { x with rcd := { x.rcd with pod := some 0 } }) with pod := podded.pod }
    (s.launch 0).any (fun x => decide (x.state = .draining ∧ x.teams = [] ∧ s.savedOf 0 = false ∧ s.flushing x = false)) = true ∧ Tab.find s.pod.launches 0 = some podRun := by decide +kernel
theorem test_requeue_share : (ownShare.onLaunch 0 fun x => { x with preempt := true }).savedOf 0 = false ∧ ((ownShare.onLaunch 0 fun x => { x with preempt := true }).launch 0).any (fun x => decide (x.preempt = true ∧ x.teams = [] ∧ x.rcd.pod = some 0)) = true ∧
    Tab.find ownShare.pod.launches 0 = some podRun := by decide +kernel
theorem test_cancel_draining : (run1 fun x => { x with state := .draining, cancelAt := some 0 }).state = .draining ∧ (0 ≤ (headed id).gtc) := by decide +kernel
/-- The save area of the team's queue: in the windows, where the header cannot be written, and above them. -/
def areaAt (q : Nat) : State := (quantum true).onFunc 0 fun f => { f with qsave := [(0, BitVec.ofNat 64 q)] }
theorem test_save_header : (areaAt 0).saveArea 0 0 0 = 0 ∧ (areaAt 0).physBad 0 ((areaAt 0).core 0).world ((areaAt 0).saveKey 0 0) 0 = some (0x0E, 0x0A) ∧ ((areaAt 0).partOf 0).getD 0 = 0 := by decide +kernel
def areaUp : State := areaAt (0x100 * 65536)
theorem test_save_area : areaUp.drained 0 = true ∧ areaUp.saveArea 0 0 0 = 2 ^ 24 ∧ areaUp.saveKey 0 0 = 0 ∧ (areaUp.core 0).world = 0 ∧
    (∀ e ∈ (areaUp.core 0).stripes, e.1 < 16 ∧ ∀ l ∈ e.2.lanes, l.1 < 32) ∧ ∀ pa, 2 ^ 24 ≤ pa → pa < 2 ^ 24 + 0x680000 → areaUp.physBad 0 0 0 pa = none := by
  refine ⟨by decide +kernel, by decide +kernel, by decide +kernel, by decide +kernel, by decide +kernel, fun pa h1 h2 => ?_⟩
  have hf : areaUp.frames = [(1024, areaUp.frame 1024)] := by decide +kernel
  have hr : (areaUp.slice 0).releases = [] := by decide +kernel
  have hk : (areaUp.keySlot 0 0).valid = true ∧ (areaUp.keySlot 0 0).world = 0 ∧ (areaUp.keySlot 0 0).weight = false := by decide +kernel
  have hm : (areaUp.part 0).mapFor pa = [0] := by
    unfold Partition.mapFor
    rw [if_neg (by decide +kernel)]
    decide +kernel
  have hs : pa < (areaUp.part 0).size := Nat.lt_of_lt_of_le h2 (by decide +kernel)
  have hl : pa / 8192 < sliceFrames := by unfold sliceFrames; omega
  have hh : areaUp.homeOf 0 pa = some (0, pa / 8192 * 8192 + pa % 8192) := by
    unfold State.homeOf
    rw [if_pos hs, hm]
    simp [mapHome, Nat.mod_one, hl]
  have hn : ¬ 1024 = frameKey 0 (pa / 8192 * 8192 + pa % 8192) := by unfold frameKey; omega
  have hg : areaUp.frame (frameKey 0 (pa / 8192 * 8192 + pa % 8192)) = {} := by
    unfold State.frame
    rw [hf]
    simp [Tab.get, Tab.find, hn]
  unfold State.physBad
  rw [if_neg (by unfold windowEnd; omega), hh]
  simp [hg, State.keyOk, State.ownerOf, State.releasing, hr, hk]
/-- Lane 0 of the team is in a transaction and a counter is not at zero. -/
def saveInTx : State := ((quantum true).onThread 0 0 0 fun t => { t with tx := { depth := 1, target := 64 } }).onStripe 0 0 fun t => { t with counters := [(1, 1)] }
theorem test_save_aborts : ((saveInTx.core 0).team.map Team.saving) = some true ∧ kindOf 0 ≠ .booth ∧ (∀ e ∈ (saveInTx.core 0).quads, e.2.turn = none) ∧ (saveInTx.thread 0 0 0).tx.depth ≠ 0 ∧ saveInTx.commits = [] ∧
    (∃ e ∈ (saveInTx.core 0).stripes, ∃ k ∈ e.2.counters, k.2 ≠ 0) := by decide +kernel

/-! ## Witnesses: waits, drains and failures -/

theorem test_trap_record_free : one.recordWait one.cur.unit one.cur.stripe 0 = none := by decide +kernel
/-- The handler of the stripe runs lane 0: its own trap is a double one, the trap of lane 1 is of the other group. -/
def handling (p : Priv) : State := ((sim 1 p 0).onStripe 0 0 fun t => { t with xin := true, xgroup := 1 })
theorem test_trap_groups : (handling .k).curStripe.xin = true ∧ (handling .k).curStripe.xgroup &&& (handling .k).cur.lanes ≠ 0 ∧ ((handling .k).curThread 0).priv = ((handling .k).curThread 0).priv.target ∧
    ((handling .u).curThread 0).priv ≠ ((handling .u).curThread 0).priv.target ∧ (let s := { handling .k with cur := { (handling .k).cur with lanes := 2 } }; s.curStripe.xgroup &&& s.cur.lanes = 0) := by decide +kernel
/-- Core 1 has a dirty tile of a saved context, whose place in the save area is in a frame that is being released; a core without one has nothing to wait for. -/
def spilling : State :=
  (((latching 1 0).onCore 1 fun c => { c with kown := 0x80000000, kdirty := [(0, true)] }).onFunc 0 fun f => { f with qsave := [(0, BitVec.ofNat 64 (2 ^ 24))], saved := [(0, { unit := 1, core := { team := some { launch := 0, stripes := 1, saveIdx := 0 } }, ticks := 0 })] }).onSlice 0 fun k =>
    { k with releases := [((2 ^ 24 + 0x250000) / 8192, [])] }
theorem test_wlatch_spill : (latching 1 0).spillWait 1 = none ∧ (spilling.spillWait 1).isSome = true ∧ kindOf 1 = .simt ∧ 1 ∈ spilling.coresOf (sliceOf 1) ∧ spilling.partOf 1 = some 0 ∧ (spilling.part 0).wmask.getLsbD 0 = true ∧ spilling.latchBusy 1 = false := by decide +kernel
/-- The walk of a store and of an AMO is not held by a commit. -/
theorem test_store_marks : (passes (pointing 0) (m32 0) ((pointing 0).accReq 4 true 0 false false) 1 fun s1 accs => (s1.markDirty accs).toOption.isSome) ∧
    passes (pointing 0x100) (m32 0) ((pointing 0x100).accReq 4 true 0 false true) 1 fun s1 accs => (got (s1.checkPoison 3 4 accs)).any fun r => (r.1.markDirty accs).toOption.isSome :=
  ⟨of_got (by decide +kernel), of_got (by decide +kernel)⟩
theorem test_ringinit : (Tab.get one.curStripe.counters 0 0 = 0) ∧ ((one.core 0).ring 15).ns = 0 ∧ ((one.onCore 0 fun c => { c with rings := [(0, { ns := 1 })] }).core 0 |>.ring 0).ns ≠ 0 ∧ (one.active h7).head? = some 0 := by decide +kernel
theorem test_may_interrupt : MayInterrupt (routed .halted) 0xE00 0 ∧ ¬ MayInterrupt ((routed .halted).onThread 0xE00 0 0 fun t => { t with ie := false }) 0xE00 0 := by unfold MayInterrupt; decide +kernel
/-- A line that was written back at GTC 0 is due at GTC 16. -/
theorem test_line_due : (∀ w, ({ counter := 0, wrote := some 0 } : LineMeta).wrote = some w → w + 16 ≤ 16) ∧ ¬ ∀ w, ({ counter := 0, wrote := some 0 } : LineMeta).wrote = some w → w + 16 ≤ 15 := by simp
theorem test_firewall_drain_gone : (∀ e ∈ (drainingPart false).parts, e.2.gone ≠ some 0) ∧ ((drainingPart false).part 0).valid = true ∧ ((drainingPart false).part 0).removing = none := by decide +kernel
/-- A barrow operation whose source crosses into a page that nothing maps after 32 bytes. -/
def edgeOp : BarrowOp := { barrowOp1 0x800 0 0 false with block := leBytes 64 (0x1FE0 + 0x800 * 2 ^ 128 + 64 * 2 ^ 256) }
theorem test_barrow_source_fault : let s := carted edgeOp
    let r := s.barrowRead 0 0 edgeOp 64
    (match r.2.stop with | some (.fault tr) => decide (tr.cause ≠ 0x17) | _ => false) = true ∧ r.2.bs.length = 32 ∧ (r.1.writeRun 64 (s.barrowCtx 0 0 edgeOp) edgeOp.dst edgeOp.next r.2.bs r.2.bad).2.isNone = true ∧ s.barrowHead 0 0 = some edgeOp := by decide +kernel
theorem test_stage_partition : ((staged (stageOp1 0 0x1000 1)).partOf 0).isSome = true ∧ ((drained drainOp).partOf 0).isSome = true := by decide +kernel
/-- The slice of the receiver in drain, and not. -/
theorem test_drain_states : (sending false).inDrain 0 = false ∧ ((sending false).onSlice 0 fun k => { k with fwctl := k.fwctl ||| 0x200 }).inDrain 0 = true := by decide +kernel
theorem test_commit_goes : let s := committing (commit1 0) []
    s.inDrain 0 = false ∧ s.logClearing 0 0 0 = none ∧ s.txTakes (commit1 0) [txEntry 0 windowEnd 0] = true ∧ ((s.onCore 0 fun c => { c with clearing := List.range 32 }).logClearing 0 0 0).isSome = true := by decide +kernel
theorem test_fault_waits : (faulting true 0).fqWait 0 rec1 = false ∧ (heldAt (faulting true 0) windowEnd).fqWait 0 rec1 = true := by decide +kernel
/-- The record's group names this package; its launch is known here, its source is another package or this one; this package is in step or not. -/
theorem test_crier_clauses : podded.packageIdx ∈ podded.groupMembers (recGroup (podRec 1024).bytes) ∧ podRec 1024 ∉ podded.pod.inbox ∧ Tab.find podRun.reports podded.packageIdx = none ∧ (∀ e ∈ podded.launches, e.2.rcd.pod ≠ some 0) ∧ podded.pod.synced = true ∧
    recSrc (podRec 0).bytes / 2 ^ 14 = podded.packageIdx ∧ podRun.rcd = (podRec 0).bytes ∧ podRun.rcd ≠ (podRec 1).bytes ∧
    (let r : PodRecord := { bytes := leBytes 256 (2 ^ 128 + 2 ^ 160 + 2 ^ 192 + 1024 * 2 ^ (8 * 0xD8) + 2 ^ 14 * 2 ^ (8 * 0xF4)) }; podded.podOf (recSrc r.bytes) (recStamp r.bytes) = none ∧ podded.packageIdx ∈ podded.groupMembers (recGroup r.bytes)) := by decide +kernel
theorem test_notify_next : ((notified 1 false).func 0).nextNotify = some note ∧ (podNoted.func 0).nextNotify = some podNote := by decide +kernel
/-- The head that ages is the next to reserve, or has its group already. -/
theorem test_head_reserves : (aged 0).nextReserver 0 = some 0 ∧ ((aged 0).launch 0).any (fun x => !x.crossed) = true ∧ ({ aged 0 with launches := (aged 0).launches.map fun e : Nat × Launch => (e.1, { e.2 with reserved := [1] }) }).nextReserver 0 ≠ some 0 := by decide +kernel
theorem test_chunk_slice : ((headed id).slice 0).drain = false ∧ ((headed id).part 0).removing ≠ some 0 := by decide +kernel
theorem test_requeue_due : (run1 fun x => { x with yielded := true, state := .dealing }).yielded = true ∧ (headed fun x => { x with yielded := true, state := .dealing }).savedOf 0 = false ∧ (headed fun x => { x with yielded := true, state := .dealing }).flushing (run1 fun x => { x with yielded := true, state := .dealing }) = false := by decide +kernel
/-- A record in the inbox comes before a cancel of the same queue, and after one at its START. -/
theorem test_cancel_order : (bound 1).recordBefore 0 0 1025 0 = true ∧ (bound 1).recordBefore 0 0 1024 0 = false ∧ (bound 1).cancelBefore { group := 0, part := 0, func := 0, queue := 0 } (podRec 1024).bytes = false := by decide +kernel
theorem test_pod_asked : podRun.asked = none ∧ podRun.silentFrom = 0 ∧ ({ podRun with next := 8 }).silentFrom = 0 := by decide +kernel
/-- The summary is due, is under way, and has left. -/
theorem test_pod_summary : (podEnd 1 0).summed = false ∧ ({ podEnd 1 0 with summed := true }).summed = true ∧ (∃ r ∈ ((podded.onPart 0 fun p => { p with fq := { p.fq with made := [{ rec1 with sum := true }] } }).part (podEnd 1 0).part).fq.made, r.sum = true) ∧
    ∀ r ∈ (podded.part (podEnd 1 0).part).fq.made, r.sum = false := by decide +kernel
theorem test_released : (one.boot.released = false) ∧ releasedPackage.boot.released = true ∧ 0x1540 + 31 ∉ releasedPackage.lostUnits ∧ 0x1540 + 0 ∈ ({ releasedPackage with lostUnits := [0x1540] }).lostUnits := by decide +kernel
theorem test_crashes : Crashes one 0x1A 0 ∧ Crashes { one with gtc := 10000000 } 0 0 ∧ ¬ Crashes { one with gtc := 9999999 } 0 0 ∧ ¬ Crashes { one with gtc := 10000000 } 0x1B 0 ∧ (one.func 0).since = 0 ∧ one.rootSince = 0 := by unfold Crashes; decide +kernel
theorem test_may_restart : MayRestart (one.onFunc 0 fun f => { f with up := false }) 0 ∧ ¬ MayRestart (one.onFunc 0 fun f => { f with up := false, resetting := true, crashes := [0, 0, 0, 0] }) 0 ∧ (one.core 0x1610).failed = false := by unfold MayRestart; decide +kernel
/-- A failed plain unit, a number that names no unit, and the cores of the firmware. -/
theorem test_plain_units : plainUnit 0x1000 = true ∧ plainUnit 0x107F = true ∧ plainUnit 0x1080 = false ∧ kindOf 0x1080 = .other ∧ plainUnit 0x300 = false ∧ kindOf 0x160F = .func ∧ kindOf 0x1610 = .root ∧ 0x1000 ∉ one.lostUnits ∧ (one.core 0x1610).failed = false := by decide +kernel
/-- A new partition whose slices are free, and one that takes slice 0 from a partition that stays. -/
theorem test_vacant : let m : List Byte := List.replicate 256 0 ++ (List.replicate 3 0 ++ [0x80]) ++ List.replicate 12 0 ++ [0] ++ List.replicate 31 0xFF ++ List.replicate 208 0 ++ (List.replicate 3 0 ++ [0x80]) ++ List.replicate 12 0 ++ [1] ++ List.replicate 31 0xFF ++ List.replicate 208 0 ++ (List.replicate 3 0 ++ [0x80]) ++ List.replicate 12 0 ++ [0] ++ List.replicate 31 0xFF ++ List.replicate 208 0
    Vacant releasedPackage m 1 ∧ (releasedPackage.part 1).valid = false ∧ entV (entryOf m 1) = true ∧ (releasedPackage.part 0).valid = true ∧ entV (entryOf m 0) = true ∧ ∃ a ∈ entSlots (entryOf m 2), ∃ b ∈ (releasedPackage.part 0).members, b.2 = a.2 := by unfold Vacant; decide +kernel
/-- A homeWait that no line of a run meets is met by no piece of it. -/
theorem physWait_none (s : State) (p : Nat) (w : Bool) (lo hi : Nat) (h : ∀ pa k, lo ≤ pa → pa < hi → s.homeWait p pa k w true = none) (fuel pa n : Nat) (h1 : lo ≤ pa) (h2 : pa + n ≤ hi) : s.physWait fuel p pa n w = none := by
  induction fuel generalizing pa n with
  | zero => rfl
  | succ m ih =>
    unfold State.physWait
    split
    · rfl
    · simp only [h pa _ h1 (by omega), Option.none_or]
      exact ih _ _ (by omega) (by omega)
theorem test_save_free : areaUp.physWait (saveBytes / 128) 0 (2 ^ 24) 0x250000 true = none := by
  refine physWait_none _ _ _ (2 ^ 24) (2 ^ 24 + 0x250000) (fun pa k _ _ => ?_) _ _ _ (Nat.le_refl _) (Nat.le_refl _)
  have hb : areaUp.banks = [] := by decide +kernel
  have hr : ∀ sl, (areaUp.slice sl).releases = [] := by
    intro sl
    have h : areaUp.slices.map (fun e => (e.1, e.2.releases)) = [(0, [])] := by decide +kernel
    unfold State.slice Tab.get
    revert h
    generalize areaUp.slices = ps
    match ps with
    | [] => simp
    | (j, v) :: [] =>
      intro h
      simp only [List.map_cons, List.map_nil, List.cons.injEq, Prod.mk.injEq] at h
      unfold Tab.find
      split
      · exact h.1.2
      · rfl
    | _ :: _ :: _ => simp
  have hk : ∀ b, areaUp.bank b = {} := fun b => by unfold State.bank; rw [hb]; rfl
  unfold State.homeWait
  split
  · rfl
  · simp [hk, State.releasing, State.bankTakes, Bank.holds, Bank.makeRoom, Bank.setLines, hr]

end Sys2Proof.Tests
end

namespace Sys2Proof

/-! ## A word put together again from its fields -/

/-- A bit of a word is its one-bit field. -/
theorem bit1_getLsbD (w : BitVec 64) (k : Nat) : bit1 (w.getLsbD k) = w.extractLsb' k 1 := by
  apply BitVec.eq_of_getLsbD_eq
  intro i hi
  obtain rfl : i = 0 := by omega
  simp [bit1]

section
variable {w : BitVec 64} {opc : BitVec 10} (h62 : w.getLsbD 62 = false) (ho : wordOpc w = opc)
include h62 ho

theorem Hdr.toBits_ofWord : (Hdr.ofWord w).toBits opc = w.extractLsb' 48 16 := by
  have zero62 : 0#1 = w.extractLsb' 62 1 := by rw [← bit1_getLsbD, h62]; rfl
  simp only [Hdr.toBits, Hdr.ofWord, ← ho, wordOpc, zero62, bit1_getLsbD, BitVec.extractLsb'_append_extractLsb'_eq_extractLsb']

theorem FmtR.toWord_ofWord : (FmtR.ofWord w).toWord opc = w := by
  simp only [FmtR.toWord, FmtR.ofWord, Hdr.toBits_ofWord h62 ho, bit1_getLsbD, BitVec.extractLsb'_append_extractLsb'_eq_extractLsb']
  exact BitVec.extractLsb'_eq_self

theorem FmtI.toWord_ofWord : (FmtI.ofWord w).toWord opc = w := by
  simp only [FmtI.toWord, FmtI.ofWord, Hdr.toBits_ofWord h62 ho, bit1_getLsbD, BitVec.extractLsb'_append_extractLsb'_eq_extractLsb']
  exact BitVec.extractLsb'_eq_self

theorem FmtL.toWord_ofWord : (FmtL.ofWord w).toWord opc = w := by
  simp only [FmtL.toWord, FmtL.ofWord, Hdr.toBits_ofWord h62 ho, BitVec.extractLsb'_append_extractLsb'_eq_extractLsb']
  exact BitVec.extractLsb'_eq_self

theorem FmtM.toWord_ofWord : (FmtM.ofWord w).toWord opc = w := by
  simp only [FmtM.toWord, FmtM.ofWord, Hdr.toBits_ofWord h62 ho, bit1_getLsbD, BitVec.extractLsb'_append_extractLsb'_eq_extractLsb']
  exact BitVec.extractLsb'_eq_self

theorem FmtB.toWord_ofWord : (FmtB.ofWord w).toWord opc = w := by
  simp only [FmtB.toWord, FmtB.ofWord, Hdr.toBits_ofWord h62 ho, bit1_getLsbD, BitVec.extractLsb'_append_extractLsb'_eq_extractLsb']
  exact BitVec.extractLsb'_eq_self

theorem FmtE.toWord_ofWord : (FmtE.ofWord w).toWord opc = w := by
  simp only [FmtE.toWord, FmtE.ofWord, Hdr.toBits_ofWord h62 ho, bit1_getLsbD, BitVec.extractLsb'_append_extractLsb'_eq_extractLsb']
  exact BitVec.extractLsb'_eq_self
end

theorem FmtE.ofWord_x_getElem (w : BitVec 64) (k : Nat) (hk : k < 9) : (FmtE.ofWord w).x[k] = w[k] := by
  simp [FmtE.ofWord, BitVec.getLsbD_eq_getElem (show k < 64 by omega)]

/-- The two bits that tell the rows of TLBINV apart (R361). -/
theorem FmtE.ofWord_x_mod4 (w : BitVec 64) : (FmtE.ofWord w).x.toNat % 4 = (w.extractLsb' 0 2).toNat := by
  simp only [FmtE.ofWord, BitVec.extractLsb'_toNat, Nat.shiftRight_zero]
  exact Nat.mod_mod_of_dvd _ (by decide)

theorem Half.toBits_ofWord (w : BitVec 64) (lo : Nat) : (Half.ofWord lo w).toBits = w.extractLsb' lo 31 := by
  simp only [Half.toBits, Half.ofWord, bit1_getLsbD, BitVec.extractLsb'_append_extractLsb'_eq_extractLsb']

theorem FmtD.toWord_ofWord {w : BitVec 64} (h62 : w.getLsbD 62 = true) : (FmtD.ofWord w).toWord = w := by
  have one62 : 1#1 = w.extractLsb' 62 1 := by rw [← bit1_getLsbD, h62]; rfl
  simp only [FmtD.toWord, FmtD.ofWord, Half.toBits_ofWord, one62, bit1_getLsbD, BitVec.extractLsb'_append_extractLsb'_eq_extractLsb']
  exact BitVec.extractLsb'_eq_self

/-! ## Every row of the map is the word it was read from -/

/-- An instruction that is of its row's form and whose word is w. -/
def Instr.IsWord (i : Instr) (w : BitVec 64) : Prop := i.form = true ∧ encode i = some w

section
variable {w : BitVec 64} {i : Instr} {code : Nat} (h62 : w.getLsbD 62 = false)
include h62

/-! Each class of the map: the row that a code selects keeps the word (R222 to R229). -/

theorem decodeClass0_isWord (ho : wordOpc w = BitVec.ofNat 10 code) (hd : decodeClass0 code w = some i) : i.IsWord w := by
  unfold decodeClass0 at hd
  split at hd <;> cases hd <;> simp [Instr.IsWord, Instr.form, encode, FmtR.toWord_ofWord h62 ho, FmtI.toWord_ofWord h62 ho, FmtL.toWord_ofWord h62 ho]

theorem decodeClass1_isWord (ho : wordOpc w = BitVec.ofNat 10 (128 + code)) (hd : decodeClass1 code w = some i) : i.IsWord w := by
  unfold decodeClass1 at hd
  split at hd <;> cases hd <;> simp [Instr.IsWord, Instr.form, encode, FmtR.toWord_ofWord h62 ho]

theorem decodeClass2_isWord (ho : wordOpc w = BitVec.ofNat 10 (256 + code)) (hd : decodeClass2 code w = some i) : i.IsWord w := by
  unfold decodeClass2 at hd
  split at hd <;> cases hd <;> simp [Instr.IsWord, Instr.form, encode, FmtR.toWord_ofWord h62 ho, FmtM.toWord_ofWord h62 ho, FmtE.toWord_ofWord h62 ho]

theorem decodeClass3_isWord (ho : wordOpc w = BitVec.ofNat 10 (384 + code)) (hd : decodeClass3 code w = some i) : i.IsWord w := by
  unfold decodeClass3 at hd
  split at hd <;> cases hd
  -- CHSEND, CHRECV: X[8] tells the two rows of an opcode apart (R263).
  case h_8 | h_9 => cases hx : w[8] <;> simp [Instr.IsWord, Instr.form, encode, FmtE.toWord_ofWord h62 ho, FmtE.ofWord_x_getElem, hx]
  all_goals simp [Instr.IsWord, Instr.form, encode, FmtE.toWord_ofWord h62 ho]

theorem decodeClass4_isWord (ho : wordOpc w = BitVec.ofNat 10 (512 + code)) (hd : decodeClass4 code w = some i) : i.IsWord w := by
  unfold decodeClass4 at hd
  split at hd <;> cases hd
  -- TXEND: X[7] tells its two rows apart (R320).
  case h_12 => cases hx : w[7] <;> simp [Instr.IsWord, Instr.form, encode, FmtE.toWord_ofWord h62 ho, FmtE.ofWord_x_getElem, hx]
  all_goals simp [Instr.IsWord, Instr.form, encode, FmtE.toWord_ofWord h62 ho]

theorem decodeClass5_isWord (ho : wordOpc w = BitVec.ofNat 10 (640 + code)) (hd : decodeClass5 code w = some i) : i.IsWord w := by
  unfold decodeClass5 at hd
  split at hd <;> cases hd <;> simp [Instr.IsWord, Instr.form, encode, FmtR.toWord_ofWord h62 ho, FmtB.toWord_ofWord h62 ho]

theorem decodeClass6_isWord (ho : wordOpc w = BitVec.ofNat 10 (768 + code)) (hd : decodeClass6 code w = some i) : i.IsWord w := by
  unfold decodeClass6 at hd
  split at hd <;> cases hd
  -- LAUNCH: X[0] tells its two rows apart (R349).
  case h_16 => cases hx : w[0] <;> simp [Instr.IsWord, Instr.form, encode, FmtE.toWord_ofWord h62 ho, FmtE.ofWord_x_getElem, hx]
  all_goals simp [Instr.IsWord, Instr.form, encode, FmtE.toWord_ofWord h62 ho]

theorem decodeClass7_isWord (ho : wordOpc w = BitVec.ofNat 10 (896 + code)) (hd : decodeClass7 code w = some i) : i.IsWord w := by
  unfold decodeClass7 at hd
  split at hd
  -- TLBINV: X[1:0] tells its three rows apart (R361).
  case h_7 =>
    split at hd <;> cases hd
    all_goals
      next hx => simp [Instr.IsWord, Instr.form, encode, FmtE.toWord_ofWord h62 ho, FmtE.ofWord_x_mod4, hx]
  all_goals
    cases hd <;> simp [Instr.IsWord, Instr.form, encode, FmtR.toWord_ofWord h62 ho, FmtI.toWord_ofWord h62 ho]
end

/-- The opcode of a word is its class and its code. -/
theorem wordOpc_eq (w : BitVec 64) (c : Nat) (h : (wordOpc w).toNat / 128 = c) : wordOpc w = BitVec.ofNat 10 (128 * c + (wordOpc w).toNat % 128) := by
  rw [← h, Nat.div_add_mod, BitVec.ofNat_toNat, BitVec.setWidth_eq]

theorem decodeRow_isWord {w : BitVec 64} {i : Instr} (hd : decodeRow w = some i) : i.IsWord w := by
  unfold decodeRow at hd
  split at hd
  · next h62 =>
    cases hd
    exact ⟨rfl, congrArg some (FmtD.toWord_ofWord h62)⟩
  · next h62 =>
    have h62 : w.getLsbD 62 = false := by simpa using h62
    simp only at hd
    split at hd
    case h_1 hc => exact decodeClass0_isWord h62 (by simpa using wordOpc_eq w 0 hc) hd
    case h_2 hc => exact decodeClass1_isWord h62 (wordOpc_eq w 1 hc) hd
    case h_3 hc => exact decodeClass2_isWord h62 (wordOpc_eq w 2 hc) hd
    case h_4 hc => exact decodeClass3_isWord h62 (wordOpc_eq w 3 hc) hd
    case h_5 hc => exact decodeClass4_isWord h62 (wordOpc_eq w 4 hc) hd
    case h_6 hc => exact decodeClass5_isWord h62 (wordOpc_eq w 5 hc) hd
    case h_7 hc => exact decodeClass6_isWord h62 (wordOpc_eq w 6 hc) hd
    case h_8 hc => exact decodeClass7_isWord h62 (wordOpc_eq w 7 hc) hd
    case h_9 => cases hd

/-- What decodes is a row of the map that passes its checks (R230). -/
theorem decode_eq_ok_iff (w : BitVec 64) (i : Instr) : decode w = .ok i ↔ decodeRow w = some i ∧ i.encFault = none := by
  unfold decode
  split
  · next h => simp [h]
  · next j h =>
    rw [h]
    split
    · next hf =>
      simp only [Decoded.ok.injEq, Option.some.injEq]
      exact ⟨fun e => ⟨e, e ▸ hf⟩, And.left⟩
    · next hf =>
      simp only [reduceCtorEq, Option.some.injEq, false_iff, not_and]
      rintro rfl
      simp [hf]
    · next hf =>
      simp only [reduceCtorEq, Option.some.injEq, false_iff, not_and]
      rintro rfl
      simp [hf]

/-- Settles O58: the row of a word keeps every bit of it, so the word of that row is the one decoded. -/
theorem encodingUndoesDecoding : Obligations.EncodingUndoesDecoding := by
  intro w i hd
  obtain ⟨hrow, hfault⟩ := (decode_eq_ok_iff w i).mp hd
  obtain ⟨hform, henc⟩ := decodeRow_isWord hrow
  exact ⟨by simp [Instr.wellFormed, hform, hfault], henc⟩

end Sys2Proof

namespace Sys2Proof.Machine

/-! ## The word that a group issues -/

/-- Whether a booth thread issues rests on its core's turns in nothing. -/
theorem State.boothHolds_congr {s t : State} (hg : t.gtc = s.gtc) (hq : t.granq = s.granq) (hc : ∀ v, { t.core v with quads := [] } = { s.core v with quads := [] }) (u k : Nat) :
    t.boothHolds u k = s.boothHolds u k := by
  have guests (v) : (t.core v).guests = (s.core v).guests := by simpa using congrArg Core.guests (hc v)
  have ejto (v) : (t.core v).ejto = (s.core v).ejto := by simpa using congrArg Core.ejto (hc v)
  have stripes (v) : (t.core v).stripes = (s.core v).stripes := by simpa using congrArg Core.stripes (hc v)
  unfold State.boothHolds
  simp only [State.timeUp, State.atBoundary, State.thread, State.stripe, Core.stripe, guests, ejto, stripes, hg, hq]

theorem State.beginWord_boothHolds (s : State) (u k : Nat) : s.beginWord.boothHolds u k = s.boothHolds u k := by
  refine State.boothHolds_congr (s := s) (t := s.beginWord) rfl rfl (fun v => ?_) u k
  simp only [State.beginWord, State.core_onCore]
  split
  · next h => rw [h]
  · rfl

theorem State.startGuest_cur (s : State) : s.startGuest.cur = s.cur := by
  unfold State.startGuest
  split <;> rfl

theorem Kept.translate_eq {s t : State} {r : Req} {va : Nat} {x : Except XFault Xlat} (h : s.translate r va = (t, x)) : Kept s t := by simpa only [h] using Kept.translate s r va
theorem Kept.keyCheck_eq {s t : State} {r : KeyReq} {pa : Nat} {x : Bool} (h : s.keyCheck r pa = (t, x)) : Kept s t := by simpa only [h] using Kept.keyCheck s r pa
theorem Kept.readHome_eq {s t : State} {p sl loc n : Nat} {x : List Byte × Bool} (h : s.readHome p sl loc n = (t, x)) : Kept s t := by simpa only [h] using Kept.readHome s p sl loc n

end Sys2Proof.Machine

namespace Sys2Proof.Slice0
open Machine

/-- A word that is read is what the fetch gives. -/
theorem Fetches.fetchWord {f t : State} {w : BitVec 64} (h : Fetches f t w) : f.fetchWord = (t, .ok w) := by
  obtain ⟨hpc, s1, s2, s3, x, sl, loc, bs, htr, hpa, hkey, hwait, hhome, hread, rfl, rfl⟩ := h
  have hbs : bs = bytesGet s3.mem (memKey sl loc) 8 := by
    unfold State.readHome at hread
    simp only at hread
    split at hread
    · cases hread
    · obtain ⟨rfl, e⟩ := Prod.mk.inj hread
      exact (Prod.mk.inj e).1.symm
  have hcur : s1.cur = f.cur := (Kept.translate_eq htr).cur
  have hlow : ¬ x.pa < 0x800000 := by omega
  unfold State.fetchWord
  simp only [hpc, ne_eq, not_true_eq_false, if_false, htr, hlow, hcur, hkey, hwait, State.readPa, hhome, hread, hbs]

/-- A fetch names the same issuing group after it. -/
theorem Fetches.cur {f t : State} {w : BitVec 64} (h : Fetches f t w) : t.cur = f.cur := by
  obtain ⟨-, s1, s2, s3, x, sl, loc, bs, htr, -, hkey, -, -, hread, rfl, -⟩ := h
  rw [(Kept.installHome ..).cur, (Kept.readHome_eq hread).cur, (Kept.keyCheck_eq hkey).cur, (Kept.translate_eq htr).cur]

end Sys2Proof.Slice0

namespace Sys2Proof.Machine
open Slice0

/-- The word that an open group reads is decoded: it is issued, or its trap is taken (R11, R138, R230). -/
theorem State.issue_of_fetches {r f t : State} {u q : Nat} {b : Bool} {c : Cur} {w : BitVec 64} (hopen : r.openGroup u q b = some c) (hbooth : kindOf c.unit = .booth → r.boothHolds u c.stripe = false)
    (hf : f = ({ r with cur := c } : State).beginWord.startGuest) (hfetch : Fetches f t w) :
    (∀ i, decode w = .ok i → (wordB i = true ∨ ∀ l ∈ t.curLanes, (t.curThread l).run < 23) → r.issue u q b = .word (if wordClk i = 1 then t else t.occupy (wordClk i - 1)) i) ∧
    (decode w = .illegal → r.issue u q b = .stopped (t.stopWord noRunAhead (.trap { cause := 0x01, lane := (f.curLanes.head?).getD 0 }))) ∧
    (decode w = .reserved → kindLacks t.curKind w = false → r.issue u q b = .stopped (t.stopWord noRunAhead (.trap { cause := 0x02, lane := (f.curLanes.head?).getD 0 }))) := by
  have hhold : (({ r with cur := c } : State).beginWord.curKind == .booth && ({ r with cur := c } : State).beginWord.boothHolds u c.stripe) = false := by
    rw [State.beginWord_boothHolds]
    by_cases hk : kindOf c.unit = .booth
    · rw [show ({ r with cur := c } : State).boothHolds u c.stripe = r.boothHolds u c.stripe from State.boothHolds_congr rfl rfl (fun _ => rfl) u c.stripe, hbooth hk, Bool.and_false]
    · rw [Bool.and_eq_false_iff]
      exact .inl (beq_eq_false_iff_ne.mpr hk)
  have hlanes : ({ r with cur := c } : State).beginWord.curLanes = f.curLanes := by rw [hf, State.curLanes, State.curLanes, State.startGuest_cur]
  have hword := hfetch.fetchWord
  rw [hf] at hword
  unfold State.issue
  simp only [hopen, hlanes, hword]
  rw [show ({ r with cur := c } : State).beginWord.cur.stripe = c.stripe from rfl, hhold]
  refine ⟨fun i hd hrun => ?_, fun hd => ?_, fun hd hk => ?_⟩
  · have hnone : (t.curLanes.find? fun l => !wordB i && decide (23 ≤ (t.curThread l).run)) = none := by
      rw [List.find?_eq_none]
      intro l hl
      rcases hrun with hb | hrun
      · simp [hb]
      · simp [Nat.not_le.mpr (hrun l hl)]
    simp only [hd, hnone, Bool.false_eq_true, if_false]
  · simp only [hd, Bool.false_eq_true, if_false]
  · simp only [hd, hk, Bool.false_eq_true, if_false]

/-- A step whose group comes next issues its word. -/
theorem step_of_issues {s r : State} {u q : Nat} {b : Bool} (h : Issues s r u q b) : step s = issueStep r u q b := by
  rcases h with ⟨hagenda, hnext, rfl⟩ | ⟨rest, hagenda, rfl⟩
  · simp only [step, hagenda, hnext]
  · simp only [step, hagenda, runAgendum]

/-- Settles O54: the step that issues is the decoded word's own meaning, or its trap. -/
theorem aStepRunsTheDecodedWord : Obligations.AStepRunsTheDecodedWord := by
  refine ⟨fun s r f t u q b c w hissue hopen hbooth hf hfetch => ?_, fun s i rest hagenda => ?_⟩
  · obtain ⟨hok, hillegal, hreserved⟩ := State.issue_of_fetches hopen hbooth hf hfetch
    have hcur : t.cur = c := by rw [hfetch.cur, hf, State.startGuest_cur]; rfl
    rw [step_of_issues hissue]
    unfold issueStep
    refine ⟨fun i hd hrun => ⟨?_, hcur⟩, fun hd => ?_, fun hd hk => ?_⟩
    · simp only [hok i hd hrun]
    · simp only [hillegal hd]
    · simp only [hreserved hd hk]
  · simp only [step, hagenda, runAgendum]

/-! ## A write of QCTL -/

/-- A write of QCTL changes its function's register and no partition: it asks for no placement decision (R393, R396). -/
theorem State.applyReg_qctl_parts (s : State) (w : RegWrite) (f q : Nat) (hf : f < 16) (hq : q < 64) (hpa : w.pa = 0x100000 + 0x10000 * f + 0x2000 + 8 * q) :
    (s.applyReg w).parts = s.parts := by
  have hoff : w.pa / 8 * 8 = 0x102000 + 0x10000 * f + 8 * q := by omega
  have hfunc : (0x102000 + 0x10000 * f + 8 * q - 0x100000) / 0x10000 = f := by omega
  have hreg : (0x102000 + 0x10000 * f + 8 * q) % 0x10000 = 0x2000 + 8 * q := by omega
  unfold State.applyReg
  simp only [hoff, hfunc, hreg]
  split
  · rfl
  · rw [if_neg (by omega), if_neg (by omega), if_neg (by omega), if_neg (by omega), if_pos (by omega)]
    split
    · unfold State.regFunc
      simp only
      rw [if_neg (by omega), if_neg (by omega), if_neg (by omega), if_pos (by omega)]
      rfl
    · rfl

/-- Function 0 belongs to partition 0, which waits for no placement decision. -/
def functionOfPartition : State := (State.reset.onFunc 0 fun f => { f with part := some 0 }).onPart 0 fun p => { p with funcs := 1 }

end Sys2Proof.Machine

namespace Sys2Proof.Slice0
open Machine

/-- Refutes O44: it has a write of QCTL ask for a placement decision, and the model's write, as R393 and R396 have it, leaves the partition without one. -/
theorem not_recordsAndRegisters : ¬ Obligations.RecordsAndRegisters := by
  rintro ⟨-, -, -, -, hregisters, -⟩
  obtain ⟨-, -, -, hqctl⟩ := hregisters functionOfPartition 0 1 1 (by decide)
  obtain ⟨t, hwrite, hdecide, -⟩ := hqctl 0x102000 0 0 (by decide) (by decide) rfl (by decide) (by decide)
  have hparts : t.parts = functionOfPartition.parts := by
    rw [← Host.Outcome.next.inj hwrite]
    exact State.applyReg_qctl_parts functionOfPartition _ 0 0 (by decide) (by decide) rfl
  have hnone : (t.part 0).decide = false := by
    rw [State.part, hparts]
    decide
  simp [hnone] at hdecide

end Sys2Proof.Slice0
